-- ==== Sys2Proof/Word.lean ====
section
/-!
DEFINITION. The byte of every interface of the TC406 (11_formats.md) and the plainest arithmetic of
00_scope.md, "Arithmetic": saturating 16-bit counters and clamps.
-/

namespace Sys2Proof

/-- A byte of a frame, of a service port record or of the configuration image. -/
abbrev Byte := BitVec 8

/-- Error and event counters are 16-bit and saturate at 65535 (00_scope.md, "Arithmetic"). -/
def sat16 (n : Nat) : Nat := min n 65535

/-- A value held between two limits. -/
def clampInt (lo hi x : Int) : Int := max lo (min hi x)

/-- A non-negative value held between two limits. -/
def clampNat (lo hi x : Nat) : Nat := max lo (min hi x)

end Sys2Proof
end

