-- ==== Sys2Proof/Config.lean ====
section
/-!
DEFINITION. What is fixed for one machine: the constants the spec fixes, the free values the spec leaves
open (constants with no body), and the record of the configuration in force, whose fields are those of the
configuration image (11_formats.md, "The Configuration Image").
-/

namespace Sys2Proof

namespace Config

/-- The panel timeout, 500 ms (R194). -/
def panelTimeout : Nat := 500

/-- A bit time of the convoy line, 4 µs (R165). -/
def bitTime : Nat := 4

/-- The suspension of transmission, 1000 ms (R175). -/
def suspensionTime : Nat := 1000

/-- Transmit errors in a row that suspend transmission (R175). -/
def suspensionRun : Nat := 16

/-- Journal capacity (R131). -/
def journalMax : Nat := 128

/-- The last serial a journal entry can carry (R131). -/
def serialMax : Nat := 4294967295

/-- Depth of the make-up stack (R102). -/
def stackMax : Nat := 4

/-- The largest requested volume of a transfer, mL (R120, R123). -/
def requestMax : Nat := 200000000

/-- The image length in bytes (R201). -/
def imageLength : Nat := 1024

/-- FREE VALUE. Which of several expiries that fall in the same millisecond the part takes first ("either
may be taken first", R5, R15, R18, R141, R143, ...): the pick of the `n`-th such choice.  Nothing constrains
it.  See notes/assumptions/3.md. -/
opaque coincidence : Nat → Nat

/-- FREE VALUE. What a tank's raw balance reads as when an exact balance falls outside the 48 bits it is held
in (R109 gives the width and no result there).  Nothing constrains it but the width.
See notes/assumptions/12.md. -/
opaque rawOverflow : Int → BitVec 48

/-- FREE VALUE. What a 4-byte field of a report carries when its value does not fit in 4 bytes (R201 gives the width and
no result there).  Nothing constrains it but the width.  See notes/assumptions/31.md. -/
opaque fieldOverflow : Int → BitVec 32

end Config

/-- Kind of a gauge channel (R139, 11_formats.md). -/
inductive GaugeKind where
  | unused | rpm | flow | angle | load | level | xferMeter | bunkerMeter
deriving DecidableEq, Repr

/-- Edge a PERIOD channel counts, and the polarity of an edge seen on a gauge input (R138, R144, R146). -/
inductive Edge where
  | rising | falling
deriving DecidableEq, Repr

/-- Assignment of a drive line (R155, R156). -/
inductive Assignment where
  | unused
  | governor (s : Nat)
  | clutchAhead (s : Nat)
  | clutchAstern (s : Nat)
  | rudderPort (s : Nat)
  | rudderStbd (s : Nat)
  | winchHaul (w : Nat)
  | winchPayout (w : Nat)
  | transferPump
deriving DecidableEq, Repr

/-- Safe level of a drive line (R155, R161). -/
inductive SafeLevel where
  | low | high | float
deriving DecidableEq, Repr

/-- Role of a tank (R109). -/
inductive TankRole where
  | day | storage
deriving DecidableEq, Repr

/-- Target of a winch's wire (R83). -/
inductive Target where
  | tow
  | station (n : Nat)
deriving DecidableEq, Repr

/-- One shaft item of the image, 81 bytes (11_formats.md). -/
structure ShaftCfg where
  rated : Nat := 0
  astern : Nat := 0
  limited : Nat := 0
  rampUp : Nat := 0
  rampDown : Nat := 0
  rampEmergency : Nat := 0
  dwell : Nat := 0
  releaseThreshold : Nat := 0
  stopRpm : Nat := 0
  tolerance : Nat := 0
  deviationTime : Nat := 0
  pulsesPerRev : Nat := 0
  curve : List Nat := []
  dutyIdle : Nat := 0
  dutyMax : Nat := 0
  gRud : Nat := 0
  thetaMax : Nat := 0
  deadband : Nat := 0
  kp : Nat := 0
  minDuty : Nat := 0
  stallTime : Nat := 0
  dayTank : Nat := 0
  kFlow : Nat := 0
  quantum : Nat := 0
  specific : Nat := 0
deriving DecidableEq, Repr

/-- One winch item of the image, 39 bytes. -/
structure WinchCfg where
  target : Target := .tow
  partFloor : Nat := 0
  tSlack : Nat := 0
  tLo : Nat := 0
  tMake : Nat := 0
  tHi : Nat := 0
  tRender : Nat := 0
  partArm : Nat := 0
  f0 : Nat := 0
  fFs : Nat := 0
  tFs : Nat := 0
  haulTimeout : Nat := 0
  haulPulse : Nat := 0
  releaseWait : Nat := 0
  releaseHold : Nat := 0
  unsensed : Nat := 0
deriving DecidableEq, Repr

/-- One tank item of the image, 40 bytes. -/
structure TankCfg where
  role : TankRole := .day
  capacity : Nat := 0
  opening : Nat := 0
  reserve : Nat := 0
  cutoff : Nat := 0
  low : Nat := 0
  high : Nat := 0
  source : Option Nat := none
  derate : Nat := 0
  fEmpty : Nat := 0
  fFull : Nat := 0
  tolerance : Nat := 0
deriving DecidableEq, Repr

/-- One gauge channel item of the image, 10 bytes. -/
structure ChanCfg where
  kind : GaugeKind := .unused
  binding : Option Nat := none
  edge : Edge := .rising
  count : Nat := 0
  interval : Nat := 0
  window : Nat := 0
  deadCount : Nat := 0
deriving DecidableEq, Repr

/-- One drive line item of the image, 4 bytes. -/
structure LineCfg where
  assignment : Assignment := .unused
  enabled : Bool := false
  safe : SafeLevel := .low
deriving DecidableEq, Repr

/-- The configuration in force: every field of the image but the fill and the trailer.  Configured fields
read as zero until START is accepted (10_service_port..., "Requests"), which is the default of every field.
`shafts`, `winches` and `tanks` hold the configured items only, in ascending number. -/
structure Cfg where
  station : Nat := 0
  rank : Nat := 0
  helmCapable : Bool := false
  statusPeriod : Nat := 0
  helmUnits : Nat := 0
  lostCount : Nat := 0
  graceTime : Nat := 0
  fuelPeriod : Nat := 0
  controlStep : Nat := 0
  lateral : Int := 0
  gDiff : Nat := 0
  minMade : Nat := 0
  balance : Nat := 0
  reserveLevel : Nat := 0
  shafts : List ShaftCfg := []
  winches : List WinchCfg := []
  kx : Nat := 0
  kb : Nat := 0
  tanks : List TankCfg := []
  chans : List ChanCfg := List.replicate 24 {}
  drivePeriod : Nat := 0
  deadZone : Nat := 0
  lines : List LineCfg := List.replicate 24 {}
deriving DecidableEq, Repr

/-- The own lost time and the join time: lost count × status period (R24, R186). -/
def Cfg.lostTime (c : Cfg) : Nat := c.lostCount * c.statusPeriod

/-- The own helm period in milliseconds, from its 10 ms units (R191). -/
def Cfg.helmPeriod (c : Cfg) : Nat := c.helmUnits * 10

/-- The own rated total (R9, R33). -/
def Cfg.ratedTotal (c : Cfg) : Nat := (c.shafts.map (·.rated)).sum

/-- The own nominal rudder authority (R9, R67). -/
def Cfg.nominalAuthority (c : Cfg) : Nat := (c.shafts.map (·.gRud)).sum

end Sys2Proof
end

