-- ==== Sys2Proof/Syntax.lean ====
section
/-!
DEFINITION. The commands of the TC406: one constructor per row of spec/opcode_table.json, with the row's
operands.  The table gives its rows no operand fields; the operands here are those the row's rule speaks of
(a station, a shaft, a channel, the parameters of a request as Formats lays them out, the bytes of a frame).

Every command but the two resets carries `t` (LINE_IDLE the `since` of its stretch), the microsecond of the station timebase at which it is taken
(R188, R144; notes/assumptions/1.md).
-/

namespace Sys2Proof

/-- The four frame kinds (R166). -/
inductive FrameKind where
  | alert | helm | status | fuel
deriving DecidableEq, Repr

/-- Why an assembled frame fails the receive check of R176. -/
inductive RxFault where
  | stopBitDominant | endedEarly | crcMismatch
deriving DecidableEq, Repr

/-- A frame as assembled off the line (R166): arbitration value, sequence, payload and received CRC.  The kind
is the row's own; the length byte is the length of the payload, since the receiver takes as many payload
bytes as the length byte gives (R176). -/
structure RxFrame where
  arb : Byte
  seq : Byte
  payload : List Byte
  crc : BitVec 16
deriving DecidableEq, Repr

/-- A stretch of idle line (R165): the moment it began and the moment at which the start bit of another station ends it
unless this station has started a frame by then, absent where none does, both in µs (notes/assumptions/36.md). -/
structure IdleLine where
  since : Nat
  otherStart : Option Nat
deriving DecidableEq, Repr

/-- The commands, one constructor per row of spec/opcode_table.json, in its order. -/
inductive Instr where
  /-- POWER_ON (R199), with the two address strap pins. -/
  | powerOn (straps : BitVec 2)
  /-- PIN_RESET (R185, R199), with the two address strap pins. -/
  | pinReset (straps : BitVec 2)
  /-- WRITE_BROKEN_OFF (R183). -/
  | writeBrokenOff (t : Nat)
  /-- BAD_REQUEST (R184): the bytes of the write. -/
  | badRequest (t : Nat) (bytes : List Byte)
  /-- CONFIG_WRITE (R189, R201). -/
  | configWrite (t : Nat) (page : BitVec 7) (data : List Byte)
  /-- START (R190 to R192). -/
  | start (t : Nat)
  /-- RESTART (R193). -/
  | restart (t : Nat)
  /-- PANEL (R194): its parameter bytes. -/
  | panel (t : Nat) (lever tiller : BitVec 16) (flags release remake : Byte)
  /-- DEPART (R197). -/
  | depart (t : Nat)
  /-- FORGET_PEER (R7). -/
  | forgetPeer (t : Nat) (n : Byte)
  /-- TRANSFER_START (R123). -/
  | transferStart (t : Nat) (source destination : Byte) (volume : BitVec 32)
  /-- TRANSFER_ABORT (R124). -/
  | transferAbort (t : Nat)
  /-- BUNKER_START (R126). -/
  | bunkerStart (t : Nat) (tank : Byte)
  /-- BUNKER_STOP (R127). -/
  | bunkerStop (t : Nat)
  /-- REBASE (R130). -/
  | rebase (t : Nat) (tank : Byte)
  /-- CLEAR_PARTED (R92). -/
  | clearParted (t : Nat)
  /-- RUDDER_RETRY (R79). -/
  | rudderRetry (t : Nat) (rudder : Byte)
  /-- CLEAR_ATTENTION (R196). -/
  | clearAttention (t : Nat) (mask : BitVec 16)
  /-- READ_STATION (R198). -/
  | readStation (t : Nat)
  /-- READ_PEERS (R198). -/
  | readPeers (t : Nat)
  /-- READ_SHAFTS (R45). -/
  | readShafts (t : Nat)
  /-- READ_RUDDERS (R65). -/
  | readRudders (t : Nat)
  /-- READ_WINCHES (R83). -/
  | readWinches (t : Nat)
  /-- READ_TANKS (R109). -/
  | readTanks (t : Nat)
  /-- READ_GAUGES (R138). -/
  | readGauges (t : Nat)
  /-- READ_JOURNAL (R132). -/
  | readJournal (t : Nat) (serial : BitVec 32)
  /-- READ_LINE (R162). -/
  | readLine (t : Nat) (line : Byte)
  /-- HELM_FRAME (R4): a HELM frame assembled whole. -/
  | helmFrame (t : Nat) (f : RxFrame)
  /-- STATUS_FRAME (R3). -/
  | statusFrame (t : Nat) (f : RxFrame)
  /-- ALERT_FRAME (R3). -/
  | alertFrame (t : Nat) (f : RxFrame)
  /-- FUEL_FRAME (R4). -/
  | fuelFrame (t : Nat) (f : RxFrame)
  /-- CRC_ERROR (R176). -/
  | crcError (t : Nat) (cause : RxFault)
  /-- MALFORMED (R177): a frame with its kind byte and length byte. -/
  | malformed (t : Nat) (kind : Byte) (f : RxFrame)
  /-- DUPLICATE (R178). -/
  | duplicate (t : Nat) (kind : FrameKind) (f : RxFrame)
  /-- LINE_IDLE (R165, R170): the line has become idle, for the stretch `i` (notes/assumptions/36.md). -/
  | lineIdle (i : IdleLine)
  /-- ARBITRATION_LOST (R171). -/
  | arbitrationLost (t : Nat)
  /-- ARBITRATION_COMPLETE (R172). -/
  | arbitrationComplete (t : Nat)
  /-- SENT_SUCCESSFULLY (R173). -/
  | sentSuccessfully (t : Nat)
  /-- TRANSMIT_ERROR (R174). -/
  | transmitError (t : Nat)
  /-- SUSPENSION_EXPIRY (R175). -/
  | suspensionExpiry (t : Nat)
  /-- STATUS_TIMER_EXPIRY (R168). -/
  | statusTimerExpiry (t : Nat)
  /-- HELM_PERIOD_EXPIRY (R11). -/
  | helmPeriodExpiry (t : Nat)
  /-- STALE_EXPIRY (R5) of the entry of a station. -/
  | staleExpiry (t : Nat) (n : Nat)
  /-- LOST_EXPIRY (R6) of the entry of a station. -/
  | lostExpiry (t : Nat) (n : Nat)
  /-- HELM_AGE_EXPIRY (R15) of the entry of a station. -/
  | helmAgeExpiry (t : Nat) (n : Nat)
  /-- GRACE_EXPIRY (R18). -/
  | graceExpiry (t : Nat)
  /-- MUTE_EXPIRY (R24). -/
  | muteExpiry (t : Nat)
  /-- CONTROL_STEP (R47) of a shaft. -/
  | controlStep (t : Nat) (shaft : Nat)
  /-- DWELL_EXPIRY (R52) of a shaft. -/
  | dwellExpiry (t : Nat) (shaft : Nat)
  /-- DEVIATION_EXPIRY (R56) of a shaft. -/
  | deviationExpiry (t : Nat) (shaft : Nat)
  /-- STALL_EXPIRY (R78) of a rudder. -/
  | stallExpiry (t : Nat) (rudder : Nat)
  /-- HAUL_TIMEOUT_EXPIRY (R88) of a winch. -/
  | haulTimeoutExpiry (t : Nat) (winch : Nat)
  /-- HAUL_PULSE_EXPIRY (R89) of a winch. -/
  | haulPulseExpiry (t : Nat) (winch : Nat)
  /-- RELEASE_WAIT_EXPIRY (R93) of a winch. -/
  | releaseWaitExpiry (t : Nat) (winch : Nat)
  /-- RELEASE_HOLD_EXPIRY (R93) of a winch. -/
  | releaseHoldExpiry (t : Nat) (winch : Nat)
  /-- PULL_OFF_TIMER_EXPIRY (R101). -/
  | pullOffTimerExpiry (t : Nat)
  /-- FUEL_PERIOD_EXPIRY (R133). -/
  | fuelPeriodExpiry (t : Nat)
  /-- INTERVAL_EXPIRY (R141) of a gauge channel. -/
  | intervalExpiry (t : Nat) (chan : Nat)
  /-- PERIOD_EDGE (R144): an edge on the input of a PERIOD channel. -/
  | periodEdge (t : Nat) (chan : Nat) (edge : Edge)
  /-- DUTY_EDGE (R146): an edge on the input of a DUTY channel. -/
  | dutyEdge (t : Nat) (chan : Nat) (edge : Edge)
  /-- PERIOD_WINDOW_EXPIRY (R145) of the measurement of a channel. -/
  | periodWindowExpiry (t : Nat) (chan : Nat)
  /-- DUTY_WINDOW_EXPIRY (R147) of the measurement of a channel. -/
  | dutyWindowExpiry (t : Nat) (chan : Nat)
  /-- PERIOD_START (R159). -/
  | periodStart (t : Nat)
  /-- JOIN_TIMER_EXPIRY (R186). -/
  | joinTimerExpiry (t : Nat)
  /-- PANEL_TIMEOUT (R195). -/
  | panelTimeout (t : Nat)
deriving DecidableEq, Repr

end Sys2Proof
end

