-- ==== Sys2Proof/Machine/Operands.lean ====
section
/-!
DEFINITION. How numbers, sets and frames sit in bytes (11_formats.md): multi-byte numbers high byte first,
two's complement, station sets as one byte, the frame header's codes, CRC-16, and the receive checks that
depend on the bytes of one frame alone (R176, R177).
-/

namespace Sys2Proof.Machine

/-- The byte at an offset, as a number. -/
def u8 (bs : List Byte) (i : Nat) : Nat := (bs.getD i 0).toNat

/-- Two bytes at an offset, high byte first. -/
def u16 (bs : List Byte) (i : Nat) : Nat := u8 bs i * 256 + u8 bs (i + 1)

/-- Four bytes at an offset, high byte first. -/
def u32 (bs : List Byte) (i : Nat) : Nat := u16 bs i * 65536 + u16 bs (i + 2)

/-- A two's complement reading of `n` in `w` bits. -/
def signed (w n : Nat) : Int := if n < 2 ^ (w - 1) then (n : Int) else (n : Int) - 2 ^ w

/-- A signed byte at an offset. -/
def s8 (bs : List Byte) (i : Nat) : Int := signed 8 (u8 bs i)

/-- Two signed bytes at an offset. -/
def s16 (bs : List Byte) (i : Nat) : Int := signed 16 (u16 bs i)

/-- `k` bytes carrying `x`, high byte first. -/
def be : Nat → Nat → List Byte
  | 0, _ => []
  | k + 1, x => BitVec.ofNat 8 (x / 256 ^ k) :: be k x

/-- `k` bytes carrying a signed number in two's complement, high byte first. -/
def beInt (k : Nat) (x : Int) : List Byte := be k (x % (256 ^ k : Nat)).toNat

/-- A yes or no in one byte: no 0, yes 1, as chapter 11 codes those it gives codes for (yield, reserve, estimated, flag
bits) and as the rules list the others (R109, R114: "No or yes").  Which fields of a reply take
this code where neither settles it is the model's reading (notes/assumptions/34.md). -/
def beBool (b : Bool) : List Byte := be 1 (if b then 1 else 0)

/-- The stations a set byte names: bit n stands for station n, 1 to 6; bits 0 and 7 are ignored (R200). -/
def stationSet (b : Byte) : List Nat := [1, 2, 3, 4, 5, 6].filter fun n => b.getLsbD n

/-- A station set as one byte. -/
def setByte (l : List Nat) : List Byte := be 1 ((l.map fun n => 2 ^ n).sum)

/-- One step of the CRC-16 register: the top bit is taken out and the polynomial x^16 + x^12 + x^5 + 1
applied (R166, R190). -/
def crcShift (r : BitVec 16) : BitVec 16 :=
  if r.getLsbD 15 then (r <<< 1) ^^^ 0x1021#16 else r <<< 1

/-- A byte fed into the CRC-16 register, most significant bit first. -/
def crcByte (r : BitVec 16) (b : Byte) : BitVec 16 :=
  Nat.repeat crcShift 8 (r ^^^ (b.zeroExtend 16 <<< 8))

/-- CRC-16 with the register starting at 0xFFFF and no final inversion (R166, R190). -/
def crc16 (bs : List Byte) : BitVec 16 := bs.foldl crcByte 0xFFFF#16

/-- Kind byte of a frame (11_formats.md). -/
def FrameKind.code : FrameKind → Nat
  | .alert => 1 | .helm => 2 | .status => 3 | .fuel => 4

/-- Class of a frame kind (R166). -/
def FrameKind.cls : FrameKind → Nat
  | .alert => 0 | .helm => 1 | .status => 2 | .fuel => 3

/-- Payload length of a frame kind (R166). -/
def FrameKind.len : FrameKind → Nat
  | .alert => 24 | .helm => 12 | .status => 24 | .fuel => 8

/-- The kind a kind byte names, absent for an unknown kind. -/
def kindOfByte (b : Nat) : Option FrameKind :=
  match b with
  | 1 => some .alert | 2 => some .helm | 3 => some .status | 4 => some .fuel | _ => none

/-- Arbitration value of a frame: class × 8 + sender (R166). -/
def arbValue (k : FrameKind) (station : Nat) : Nat := FrameKind.cls k * 8 + station

/-- The bytes of a frame before its CRC: arbitration value, kind, sequence, length, payload (R166). -/
def frameHead (arb kind seq : Nat) (payload : List Byte) : List Byte :=
  be 1 arb ++ be 1 kind ++ be 1 seq ++ be 1 payload.length ++ payload

/-- The CRC a frame of this kind carries when it is intact: over the arbitration value through the last
payload byte (R166). -/
def frameCrc (kind : Nat) (f : RxFrame) : BitVec 16 :=
  crc16 (frameHead f.arb.toNat kind f.seq.toNat f.payload)

/-- The sender of a frame: the arbitration value modulo 8 (R177). -/
def RxFrame.sender (f : RxFrame) : Nat := f.arb.toNat % 8

/-- A frame passes R177: sender 1 to 6, class at most 3, a known kind, the kind's class and the kind's payload
length. -/
def headerOk (kind : Nat) (f : RxFrame) : Bool :=
  match kindOfByte kind with
  | none => false
  | some k =>
    RxFrame.sender f != 0 && RxFrame.sender f != 7 && decide (f.arb.toNat / 8 ≤ 3) &&
      decide (f.arb.toNat / 8 = FrameKind.cls k) && decide (f.payload.length = FrameKind.len k)

/-- The bits of one byte on the line: a dominant start bit, eight data bits with the most significant first
(0 dominant, 1 recessive), a recessive stop bit (R165).  `true` is recessive. -/
def wireByte (b : Byte) : List Bool :=
  [false] ++ [7, 6, 5, 4, 3, 2, 1, 0].map (fun i => b.getLsbD i) ++ [true]

/-- The bits of a frame on the line: its bytes one after another without a gap (R165). -/
def wireBits (bs : List Byte) : List Bool := bs.flatMap wireByte

end Sys2Proof.Machine
end

