-- ==== Sys2Proof/WellFormed.lean ====
section
/-!
DEFINITION. When a command is one the outside world can send: the ranges its operands have (station,
shaft, winch, tank, gauge channel numbers of 00_scope.md; parameter lengths of R184 and R201; intact frames
of R176 and R177).  `exec` is total and does not rely on it.
-/

namespace Sys2Proof

/-- A frame of the given kind that passes R176 and R177. -/
def wfFrame (k : FrameKind) (f : RxFrame) : Bool :=
  decide (f.payload.length ≤ 255) && decide (f.crc = Machine.frameCrc (Machine.FrameKind.code k) f) &&
    Machine.headerOk (Machine.FrameKind.code k) f

/-- A number from 1 to `n`. -/
def wfNumber (n x : Nat) : Bool := decide (1 ≤ x) && decide (x ≤ n)

/-- The operands of a command lie where the spec puts them. -/
def Instr.wf : Instr → Bool
  | .configWrite _ _ data => wfNumber 32 data.length
  | .helmFrame _ f => wfFrame .helm f
  | .statusFrame _ f => wfFrame .status f
  | .alertFrame _ f => wfFrame .alert f
  | .fuelFrame _ f => wfFrame .fuel f
  | .lineIdle i =>
    match i.otherStart with
    | some b => decide (i.since ≤ b)
    | none => true
  | .malformed _ k f =>
    decide (f.payload.length ≤ 255) && decide (f.crc = Machine.frameCrc k.toNat f) && !Machine.headerOk k.toNat f
  | .duplicate _ k f => wfFrame k f
  | .staleExpiry _ n | .lostExpiry _ n | .helmAgeExpiry _ n => wfNumber 6 n
  | .controlStep _ n | .dwellExpiry _ n | .deviationExpiry _ n | .stallExpiry _ n => wfNumber 3 n
  | .haulTimeoutExpiry _ n | .haulPulseExpiry _ n | .releaseWaitExpiry _ n | .releaseHoldExpiry _ n => wfNumber 4 n
  | .intervalExpiry _ n | .periodEdge _ n _ | .dutyEdge _ n _ | .periodWindowExpiry _ n
  | .dutyWindowExpiry _ n => wfNumber 24 n
  | .powerOn _ | .pinReset _ | .writeBrokenOff _ | .badRequest _ _ | .start _ | .restart _ | .panel _ _ _ _ _ _
  | .depart _ | .forgetPeer _ _ | .transferStart _ _ _ _ | .transferAbort _ | .bunkerStart _ _ | .bunkerStop _
  | .rebase _ _ | .clearParted _ | .rudderRetry _ _ | .clearAttention _ _ | .readStation _ | .readPeers _
  | .readShafts _ | .readRudders _ | .readWinches _ | .readTanks _ | .readGauges _ | .readJournal _ _
  | .readLine _ _ | .crcError _ _ | .arbitrationLost _ | .arbitrationComplete _
  | .sentSuccessfully _ | .transmitError _ | .suspensionExpiry _ | .statusTimerExpiry _ | .helmPeriodExpiry _
  | .graceExpiry _ | .muteExpiry _ | .pullOffTimerExpiry _ | .fuelPeriodExpiry _ | .periodStart _
  | .joinTimerExpiry _ | .panelTimeout _ => true

end Sys2Proof
end

