-- ==== Sys2Proof/Decode.lean ====
section
/-!
DEFINITION. Commands read from bits and bytes.  The rows of spec/opcode_table.json give no bits, so no table
word spells a command.  What the spec does lay out in bytes is the service port's request write (R183, R184,
R201 and "Service Port Records" of 11_formats.md): `decodeRequest` reads it, total on any bytes.
-/

namespace Sys2Proof

/-- The command a table word spells: the table gives its rows no bits, so none. -/
def decodeTableWord (_nbits _w : Nat) : Option Instr := none

/-- The request a write of `code`, its length byte and `params` spells, where the bytes received match the length
byte: the code table of 11_formats.md with each code's parameter length. -/
def decodeParams (t code : Nat) (params : List Byte) : Option Instr :=
  let n := params.length
  if 0x80 ≤ code then
    if 1 ≤ n ∧ n ≤ 32 then some (.configWrite t (BitVec.ofNat 7 code) params) else none
  else
    match code, n with
    | 0x01, 0 => some (.start t)
    | 0x02, 0 => some (.restart t)
    | 0x03, 7 =>
      some (.panel t (BitVec.ofNat 16 (Machine.u16 params 0)) (BitVec.ofNat 16 (Machine.u16 params 2))
        (params.getD 4 0) (params.getD 5 0) (params.getD 6 0))
    | 0x04, 0 => some (.depart t)
    | 0x05, 1 => some (.forgetPeer t (params.getD 0 0))
    | 0x06, 6 =>
      some (.transferStart t (params.getD 0 0) (params.getD 1 0) (BitVec.ofNat 32 (Machine.u32 params 2)))
    | 0x07, 0 => some (.transferAbort t)
    | 0x08, 1 => some (.bunkerStart t (params.getD 0 0))
    | 0x09, 0 => some (.bunkerStop t)
    | 0x0A, 1 => some (.rebase t (params.getD 0 0))
    | 0x0B, 0 => some (.clearParted t)
    | 0x0C, 1 => some (.rudderRetry t (params.getD 0 0))
    | 0x0D, 2 => some (.clearAttention t (BitVec.ofNat 16 (Machine.u16 params 0)))
    | 0x10, 0 => some (.readStation t)
    | 0x11, 0 => some (.readPeers t)
    | 0x12, 0 => some (.readShafts t)
    | 0x13, 0 => some (.readRudders t)
    | 0x14, 0 => some (.readWinches t)
    | 0x15, 0 => some (.readTanks t)
    | 0x16, 4 => some (.readJournal t (BitVec.ofNat 32 (Machine.u32 params 0)))
    | 0x17, 1 => some (.readLine t (params.getD 0 0))
    | 0x18, 0 => some (.readGauges t)
    | _, _ => none

/-- The request the bytes of a whole write spell, absent where the write is ill-formed: an unknown code, a length
byte that does not match the code's parameter length, or bytes received that do not match the length byte
(R184). -/
def decodeRequest (t : Nat) (bytes : List Byte) : Option Instr :=
  match bytes with
  | code :: len :: params => if params.length = len.toNat then decodeParams t code.toNat params else none
  | _ => none

end Sys2Proof
end

