-- ==== Sys2Proof/Machine/State.lean ====
section
/-!
DEFINITION. The state of the TC406, block by block (00_scope.md, "Block Diagram"), as plain data; the reasons
a step can stop; and the state right after power-on.
-/

namespace Sys2Proof.Machine

/-- The station modes (R185). -/
inductive Mode where
  | configuring | joining | running | silent
deriving DecidableEq, Repr

/-- The start causes (R188). -/
inductive StartCause where
  | powerOn | pin | restart
deriving DecidableEq, Repr

/-- The states of the panel record (R194). -/
inductive PanelState where
  | absent | current | timedOut
deriving DecidableEq, Repr

/-- Reply status codes (R183, R184). -/
inductive Status where
  | ok | busy | conflict | refused | badRequest | notNow | noRequest
deriving DecidableEq, Repr

/-- Reason codes of a refusal (R184). -/
inductive Reason where
  | noEntry | notLost | noRudder | notFaulted | sensorDead | notParted | noTank | noPump | sourceLow | destFull
  | noTransfer | noMeter | noBunker | noSounding | noLine | offset | crcMismatch | configInvalid
deriving DecidableEq, Repr

/-- The reply held by the service port (R183). -/
structure Reply where
  status : Status := .noRequest
  reason : Option Reason := none
  data : List Byte := []
deriving DecidableEq, Repr

/-- The fourteen attention flags, in the order of R196. -/
inductive Flag where
  | parted | helmLost | duplicate | lineSuspended | rudderFault | engineFault | fuelReserve | discrepancy
  | meterFault | shortfall | releaseTimeout | peerLost | haulTimeout | panelLost
deriving DecidableEq, Repr

/-- The fields of the panel record (R194).  While ABSENT every field reads as off, 0 or empty. -/
structure Panel where
  lever : Int := 0
  tiller : Int := 0
  takeCommand : Bool := false
  localMode : Bool := false
  releaseSet : List Nat := []
  remakeSet : List Nat := []
  releaseOwn : Bool := false
  remakeOwn : Bool := false
  partedAck : Bool := false
deriving DecidableEq, Repr

/-- Service port and start control (chapter 10).  `panelAt` and `joinAt` are the expiries of the panel timeout
and join timers, in ms of the station timebase; absent while the timer is idle.  `image` holds the bytes of
the configuration image that are not 0. -/
structure Svp where
  mode : Mode := .configuring
  startCause : StartCause := .powerOn
  straps : BitVec 2 := 0
  reply : Reply := {}
  panel : Panel := {}
  panelState : PanelState := .absent
  panelAt : Option Nat := none
  flags : BitVec 14 := 0
  joinAt : Option Nat := none
  image : List Host.Cell := []
deriving DecidableEq, Repr

/-- Ageing states of a peer entry (R1, R5). -/
inductive PeerState where
  | live | stale | lost
deriving DecidableEq, Repr

/-- The station coupling summary (R95). -/
inductive Summary where
  | free | loose | made
deriving DecidableEq, Repr

/-- Direction state of a shaft (R45). -/
inductive Dir where
  | neutral | ahead | astern | dwell
deriving DecidableEq, Repr

/-- A direction of thrust: of a demand, a target or an engagement. -/
inductive Way where
  | ahead | astern
deriving DecidableEq, Repr

/-- STATUS part of a peer entry (R1). -/
structure StatusPart where
  mode : Mode
  contributing : Bool
  summary : Summary
  parted : Bool
  departing : Bool
  rated : Nat
  cAhead : Nat
  cAstern : Nat
  phi : Nat
  rNom : Nat
  rLive : Nat
  dirs : List Dir
  followed : Option Nat
deriving DecidableEq, Repr

/-- Helm part of a peer entry (R1).  `expired` says that the helm-age expiry has passed since the last helm
event (R15). -/
structure HelmPart where
  rank : Nat
  period : Nat
  yielded : Bool
  d : Int
  delta : Int
  order : Nat
  releaseSet : List Nat
  remakeSet : List Nat
  lastHelm : Nat
  expired : Bool := false
deriving DecidableEq, Repr

/-- Fuel part of a peer entry (R1). -/
structure FuelPart where
  aboard : Nat
  burn : Nat
  reserve : Bool
  lastFuel : Nat
deriving DecidableEq, Repr

/-- A peer entry (R1).  Its stale and lost expiries follow from `lastHeard`, `statusPeriod` and `lostCount`
(R5). -/
structure Peer where
  number : Nat
  state : PeerState := .live
  lastHeard : Nat
  statusPeriod : Nat
  lostCount : Nat
  statusPart : Option StatusPart := none
  lastSeq : Option Nat := none
  gapCount : Nat := 0
  heard : Nat := 1
  helmPart : Option HelmPart := none
  fuelPart : Option FuelPart := none
deriving DecidableEq, Repr

/-- Own claim states (R10). -/
inductive Claim where
  | notClaiming | claiming | shadowed
deriving DecidableEq, Repr

/-- Helm states (R17). -/
inductive HelmState where
  | following | grace | noHelm
deriving DecidableEq, Repr

/-- The order baseline (R19). -/
structure Baseline where
  claimant : Nat
  order : Nat
  releaseSet : List Nat
  remakeSet : List Nat
deriving DecidableEq, Repr

/-- The contents of an own HELM frame (R11). -/
structure HelmContents where
  rank : Nat
  periodUnits : Nat
  d : Int
  delta : Int
  order : Nat
  releaseSet : List Nat
  remakeSet : List Nat
deriving DecidableEq, Repr

/-- Convoy view unit (chapter 1).  `followed` is a station number, the own one for self.  `graceAt` and
`helmAt` are the expiries of the grace timer and of the own helm period. -/
structure Cvu where
  peers : List Peer := []
  followed : Option Nat := none
  helmState : HelmState := .noHelm
  effD : Int := 0
  effDelta : Int := 0
  graceAt : Option Nat := none
  claim : Claim := .notClaiming
  ownOrder : Nat := 0
  helmAt : Option Nat := none
  lastHelm : Option HelmContents := none
  baseline : Option Baseline := none
  lastActed : Option Nat := none
  powerNom : Nat := 0
  rudderNom : Nat := 0
deriving DecidableEq, Repr

/-- Share unit (chapter 2).  `muted` is the mute condition (R24); its expiry follows from the LIF's own
last-sent time. -/
structure Shu where
  contributing : Bool := false
  departing : Bool := false
  muted : Bool := true
  cAhead : Nat := 0
  cAstern : Nat := 0
  phi : Nat := 0
  demand : Nat := 0
  demandWay : Option Way := none
  share : Nat := 0
  biased : Nat := 0
  shortfall : Bool := false
  deficit : Nat := 0
deriving DecidableEq, Repr

/-- Engine states (R45, R55 to R57). -/
inductive Engine where
  | running | limited | stopped | fuelOut
deriving DecidableEq, Repr

/-- Deviation classes (R56). -/
inductive Deviation where
  | low | within
deriving DecidableEq, Repr

/-- A shaft record (R45).  Timers are held as their expiries, absent while idle.  `dutyWritten` is the duty
last written to the governor line (R60); `clutchWritten` says that the clutch lines have been written since
START (R64); `emergency` is what the last control step found (R48), no before the first one, which is the model's
choice (notes/assumptions/29.md). -/
structure Shaft where
  dir : Dir := .neutral
  p : Nat := 0
  target : Nat := 0
  targetWay : Option Way := none
  aAhead : Nat := 0
  aAstern : Nat := 0
  dwellAt : Option Nat := none
  engine : Engine := .stopped
  deviation : Option Deviation := none
  deviationAt : Option Nat := none
  lastRpm : Option (Nat × Nat) := none
  commanded : Nat := 0
  duty : Nat := 0
  dutyWritten : Option Nat := none
  clutchWritten : Bool := false
  emergency : Bool := false
  stepAt : Option Nat := none
deriving DecidableEq, Repr

/-- Rudder states (R65). -/
inductive RudderState where
  | following | parked | stalled | sensorLost
deriving DecidableEq, Repr

/-- Drive direction of a rudder (R65). -/
inductive Drive where
  | port | stbd | stop
deriving DecidableEq, Repr

/-- A rudder record (R65).  `portWritten` and `stbdWritten` are the values last written to its two valve
lines (R76). -/
structure Rudder where
  state : RudderState := .parked
  theta : Option Int := none
  setPoint : Int := 0
  drive : Drive := .stop
  duty : Nat := 0
  stallAt : Option Nat := none
  reference : Option Int := none
  portWritten : Option Nat := none
  stbdWritten : Option Nat := none
deriving DecidableEq, Repr

/-- Steering controller (chapter 4). -/
structure Stc where
  rudders : List Rudder := []
  ownNominal : Nat := 0
  ownLive : Nat := 0
  rLive : Nat := 0
  k : Nat := 1000
deriving DecidableEq, Repr

/-- Winch states (R83). -/
inductive WinchState where
  | slack | hauling | made | rendering | releasing | parted
deriving DecidableEq, Repr

/-- Release phases (R93). -/
inductive Phase where
  | payingOut | holding
deriving DecidableEq, Repr

/-- Fault notes of a winch (R83). -/
inductive Note where
  | none | haulTimeout | unsensed
deriving DecidableEq, Repr

/-- A winch record (R83).  `deadSeen` says that a DEAD notice has been taken since the last load result (R84,
R85); `haulWritten` and `payoutWritten` are the values last written to its two valve lines (R94). -/
structure Winch where
  state : WinchState := .slack
  phase : Option Phase := none
  pulse : Bool := false
  tension : Option Nat := none
  previous : Option Nat := none
  timerAt : Option Nat := none
  note : Note := .none
  deadSeen : Bool := false
  haulWritten : Option Nat := none
  payoutWritten : Option Nat := none
deriving DecidableEq, Repr

/-- Origin of a pull-off (R98, R99). -/
inductive Origin where
  | helm (claimant : Nat)
  | panel
deriving DecidableEq, Repr

/-- A pull-off in progress, with the expiry of its timer (R99). -/
structure PullOff where
  origin : Origin
  expiry : Nat
deriving DecidableEq, Repr

/-- One item of a make-up record (R102). -/
structure MakeUp where
  target : Target
  made : Bool
deriving DecidableEq, Repr

/-- Last coupling outcomes, in the order of R105. -/
inductive CouplingOutcome where
  | none | released | withdrawn | timedOut | parted | restarted | releaseIgnoredActive | releaseIgnoredFree
  | remakeStarted | remakeNothing | stackEmpty | remakeIgnoredPullOff
deriving DecidableEq, Repr

/-- Coupling controller (chapter 5).  `stack` is the make-up stack, top first; `outcomeAt` is the station time, in whole
seconds (R105, R188), at which the last coupling outcome was set. -/
structure Cpc where
  winches : List Winch := []
  summary : Summary := .free
  fCpl : Nat := 1000
  parted : Bool := false
  pullOff : Option PullOff := none
  stack : List (List MakeUp) := []
  outcome : CouplingOutcome := .none
  outcomeAt : Nat := 0
deriving DecidableEq, Repr

/-- Bands of a DAY tank (R112). -/
inductive Band where
  | normal | reserve | cutoff
deriving DecidableEq, Repr

/-- Movement in flight of a tank (R109). -/
inductive Movement where
  | none | transferSrc | transferDst | bunker
deriving DecidableEq, Repr

/-- A tank record (R109).  Content and imbalance follow from `raw` and the capacity (R111).  `sounding` is the
last sounding with its station time, in whole seconds (R109, R128, R188; notes/assumptions/26.md). -/
structure Tank where
  raw : Int := 0
  band : Band := .normal
  hold : Bool := false
  sounding : Option (Nat × Nat) := none
  run : Nat := 0
  reported : Bool := false
  movement : Movement := .none
deriving DecidableEq, Repr

/-- An engine burn record (R114). -/
structure Burn where
  residue : Nat := 0
  sinceBooked : Nat := 0
  estimated : Nat := 0
  estimating : Bool := false
  lastRate : Nat := 0
deriving DecidableEq, Repr

/-- Origin of a transfer (R120). -/
inductive TransferOrigin where
  | auto | host
deriving DecidableEq, Repr

/-- The transfer record (R120).  Origin, source, destination and requested volume are those of the running
transfer, and of the last one while IDLE; `moved` is 0 before the first and keeps the last one's volume, the model's choice
(notes/assumptions/33.md). -/
structure Transfer where
  running : Bool := false
  origin : Option TransferOrigin := none
  source : Nat := 0
  destination : Nat := 0
  requested : Option Nat := none
  moved : Nat := 0
  residue : Nat := 0
deriving DecidableEq, Repr

/-- The bunker record (R126).  While IDLE it keeps the tank and the volume of the last bunkering, 0 before the first: the
model's choice, which R136 leaves open (notes/assumptions/33.md). -/
structure Bunker where
  running : Bool := false
  tank : Nat := 0
  volume : Nat := 0
  residue : Nat := 0
deriving DecidableEq, Repr

/-- Kinds of a journal entry (R131). -/
inductive EntryKind where
  | burn | transfer | bunker | rebase | discrepancy
deriving DecidableEq, Repr

/-- Reasons of a TRANSFER or BUNKER entry (R122, R127, R131). -/
inductive EndReason where
  | done | destHigh | sourceLow | meterDead | aborted | restart | stopped
deriving DecidableEq, Repr

/-- A journal entry (R131), its station time in seconds. -/
structure Entry where
  serial : Nat
  time : Nat
  kind : EntryKind
  tank : Nat
  other : Option Nat := none
  volume : Int
  reason : Option EndReason := none
  estimated : Bool := false
deriving DecidableEq, Repr

/-- Fuel accounting unit (chapter 6).  `aboard` is the own aboard total in litres, `burn` the own burn rate;
the last four totals are those of the convoy (R134). -/
structure Fau where
  tanks : List Tank := []
  burns : List Burn := []
  transfer : Transfer := {}
  bunker : Bunker := {}
  journal : List Entry := []
  nextSerial : Nat := 1
  fuelAt : Option Nat := none
  aboard : Nat := 0
  burn : Nat := 0
  convoyAboard : Nat := 0
  convoyBurn : Nat := 0
  endurance : Nat := 65535
  lostIncluded : Nat := 0
deriving DecidableEq, Repr

/-- Request states of a gauge channel (R138). -/
inductive ReqState where
  | idle | queued | measuring
deriving DecidableEq, Repr

/-- Health of a gauge channel (R138). -/
inductive Health where
  | ok | dead
deriving DecidableEq, Repr

/-- Outcome of a measurement (R148). -/
inductive Outcome where
  | complete | partialCount | noPulse
deriving DecidableEq, Repr

/-- A gauge channel record (R138).  `intervalAt` is the expiry of its interval timer; `last` the last outcome
with its completion time in ms. -/
structure Chan where
  req : ReqState := .idle
  health : Health := .ok
  noPulse : Nat := 0
  overrun : Nat := 0
  last : Option (Outcome × Nat) := none
  intervalAt : Option Nat := none
deriving DecidableEq, Repr

/-- Phases of a gauge engine that holds a channel (R143, R144, R146). -/
inductive EnginePhase where
  | arming | counting | high | low
deriving DecidableEq, Repr

/-- A measurement an engine holds (R143 to R147).  Times are in µs.  `start` is the start time or cycle start,
`lastEdge` the last-edge time or fall time. -/
structure Meas where
  chan : Nat
  phase : EnginePhase := .arming
  count : Nat := 0
  start : Nat := 0
  lastEdge : Nat := 0
  highSum : Nat := 0
  cycleSum : Nat := 0
  windowAt : Nat
deriving DecidableEq, Repr

/-- Pulse gauge unit (chapter 7): 24 channel records, the request queue, six gauge engines (absent: IDLE). -/
structure Pgu where
  chans : List Chan := List.replicate 24 {}
  queue : List Nat := []
  engines : List (Option Meas) := List.replicate 6 none
deriving DecidableEq, Repr

/-- A drive line record (R155). -/
structure Line where
  requested : Option Nat := none
  pendingDuty : Option Nat := none
  applied : Option Nat := none
  offTime : Option Nat := none
  holdAt : Option Nat := none
  overrides : Nat := 0
deriving DecidableEq, Repr

/-- Drive line unit (chapter 8): 24 line records and the expiry of the shared period timer. -/
structure Dlu where
  lines : List Line := List.replicate 24 {}
  periodAt : Option Nat := none
deriving DecidableEq, Repr

/-- A frame in transmission: a copy taken from its slot (R169), the bit time of its start bit on the clock (R170;
notes/assumptions/37.md), whether its slot has meanwhile taken a newer frame, and, from the end of its arbitration field, its
sequence number and CRC (R172). -/
structure Tx where
  kind : FrameKind
  payload : List Byte
  startAt : Nat := 0
  replaced : Bool := false
  sealed : Option (Nat × BitVec 16) := none
deriving DecidableEq, Repr

/-- Convoy line interface (chapter 9).  A slot holds the payload of its unsent frame.  `lineIdle` is the idle line that
LINE_IDLE last told of, absent once a frame of this station has begun or another's has been seen on it (R165).  `awaitIdle`
says that the receiver ignores the line until it next sees it idle: since START, RESTART and the end of a frame (R165, R176,
R182; notes/assumptions/6.md), and `midFrame` that the part of a frame which a receiver switched on or restarted in mid-frame
saw has not failed yet (R176; notes/assumptions/6.md).  `lastSent` is the own last-sent time in ms. -/
structure Lif where
  slotAlert : Option (List Byte) := none
  slotHelm : Option (List Byte) := none
  slotStatus : Option (List Byte) := none
  slotFuel : Option (List Byte) := none
  tx : Option Tx := none
  lineIdle : Option IdleLine := none
  awaitIdle : Bool := false
  midFrame : Bool := false
  receivedOk : Nat := 0
  crcErrors : Nat := 0
  malformed : Nat := 0
  transmittedOk : Nat := 0
  transmitErrors : Nat := 0
  arbitrationLosses : Nat := 0
  suspensions : Nat := 0
  runCount : Nat := 0
  suspendedAt : Option Nat := none
  lastSent : Option Nat := none
  seqAlert : Nat := 0
  seqHelm : Nat := 0
  seqStatus : Nat := 0
  seqFuel : Nat := 0
  statusAt : Option Nat := none
  listening : Bool := false
deriving DecidableEq, Repr

/-- The state of the TC406.  `clock` is the station timebase in microseconds (R188, R144); `pending` the queue
of commands waiting, first in first out; `draws` the model's own counter of the choices between coincident
expiries it has made (`Config.coincidence`). -/
structure State where
  pending : List Instr := []
  clock : Nat := 0
  draws : Nat := 0
  cfg : Cfg := {}
  svp : Svp := {}
  lif : Lif := {}
  cvu : Cvu := {}
  shu : Shu := {}
  sfc : List Shaft := []
  stc : Stc := {}
  cpc : Cpc := {}
  fau : Fau := {}
  pgu : Pgu := {}
  dlu : Dlu := {}
deriving DecidableEq, Repr

/-- Reasons a step can stop with a fault: none.  The spec gives every command an effect in every state
(a refusal of a request is a reply, R184), so no command faults. -/
inductive Fault where
deriving DecidableEq, Repr

/-- Reasons a step can be refused. -/
inductive Refusal where
  /-- Raised by an arm of `exec` for a command that has no meaning yet; safe.  No arm raises it. -/
  | notModelled (mnemonic : String)
deriving DecidableEq, Repr

/-- The machine right after power-on (R199 and the reset rules R22, R44, R64, R82, R108, R136, R153, R164,
R182 of the blocks): every field at its default.  Start cause POWER_ON; straps read as 0
(notes/assumptions/17.md). -/
def State.reset : State := {}

/-- The station timebase in milliseconds (R188). -/
def State.now (s : State) : Nat := s.clock / 1000

/-- Station time in whole seconds (R188). -/
def State.stationTime (s : State) : Nat := s.clock / 1000000

end Sys2Proof.Machine
end

