-- ==== Sys2Proof/Machine/Flags.lean ====
section
/-!
DEFINITION. The attention flags and the ATTN pin (R196).
-/

namespace Sys2Proof.Machine

/-- Bit of a flag in the mask of CLEAR_ATTENTION: bits 0 to 13 in the order of R196 (11_formats.md). -/
def flagBit : Flag → Nat
  | .parted => 0 | .helmLost => 1 | .duplicate => 2 | .lineSuspended => 3 | .rudderFault => 4
  | .engineFault => 5 | .fuelReserve => 6 | .discrepancy => 7 | .meterFault => 8 | .shortfall => 9
  | .releaseTimeout => 10 | .peerLost => 11 | .haulTimeout => 12 | .panelLost => 13

/-- A block raises a flag; a flag already set stays set (R196). -/
def raiseFlag (f : Flag) (s : State) : State :=
  { s with svp := { s.svp with flags := s.svp.flags ||| BitVec.ofNat 14 (2 ^ flagBit f) } }

/-- A flag is set. -/
def flagSet (f : Flag) (s : State) : Bool := s.svp.flags.getLsbD (flagBit f)

/-- The named flags are cleared; mask positions that name no flag are ignored (R196). -/
def clearFlags (mask : BitVec 16) (s : State) : State :=
  { s with svp := { s.svp with flags := s.svp.flags &&& ~~~(mask.setWidth 14) } }

/-- The ATTN pin is driven low while at least one flag is set (R196). -/
def attnLow (s : State) : Bool := s.svp.flags != 0

end Sys2Proof.Machine
end

