-- ==== Sys2Proof/Machine/Ops.lean ====
section
/-!
DEFINITION. Shared operations: records by number, the timebase and its timers, replies, the bytes of the
configuration image, the bindings of gauge channels, and the views of the state that a pin or a report shows.
-/

namespace Sys2Proof.Machine

/-! ## Records by number -/

/-- Item number `n` of a list numbered from 1. -/
def getN {α : Type} (l : List α) : Nat → Option α
  | 0 => none
  | n + 1 => l[n]?

/-- The list with its item at index `i` changed. -/
def changeAt {α : Type} (f : α → α) : Nat → List α → List α
  | _, [] => []
  | 0, x :: xs => f x :: xs
  | i + 1, x :: xs => x :: changeAt f i xs

/-- The list with item number `n` changed; numbers start at 1. -/
def modN {α : Type} (l : List α) (n : Nat) (f : α → α) : List α :=
  match n with
  | 0 => l
  | i + 1 => changeAt f i l

/-- Records changed each by its own configuration item. -/
def mapWith {κ α : Type} (f : κ → α → α) : List κ → List α → List α
  | k :: ks, x :: xs => f k x :: mapWith f ks xs
  | [], xs => xs
  | _ :: _, [] => []

/-- The number, from `n` on, of the first item that satisfies `p`. -/
def findFrom {α : Type} (p : α → Bool) : Nat → List α → Option Nat
  | _, [] => none
  | n, x :: xs => if p x then some n else findFrom p (n + 1) xs

/-- The number, from 1, of the first item that satisfies `p`. -/
def findN {α : Type} (p : α → Bool) (l : List α) : Option Nat := findFrom p 1 l

/-- The numbers 1 to `n`. -/
def numbers (n : Nat) : List Nat := (List.range n).map (· + 1)

/-! ## Time -/

/-- A command is taken at `t` microseconds of the station timebase; the timebase does not go back (R188). -/
def setClock (t : Nat) (s : State) : State := { s with clock := max s.clock t }

/-- A timer held as its expiry has expired: it is running and its expiry is at or before `now`. -/
def due (now : Nat) : Option Nat → Bool
  | some e => decide (e ≤ now)
  | none => false

/-- A timer restarted at its expiry for one further period, measured from the expiry (R47, R141, R157, R168). -/
def restartTimer (period : Nat) : Option Nat → Option Nat
  | some e => some (e + period)
  | none => none

/-! ## Replies -/

/-- The reply held becomes OK with this data. -/
def replyOk (data : List Byte) (s : State) : State :=
  { s with svp := { s.svp with reply := { status := .ok, reason := none, data := data } } }

/-- The reply held becomes REFUSED with a reason and no data (R201). -/
def refuse (r : Reason) (s : State) : State :=
  { s with svp := { s.svp with reply := { status := .refused, reason := some r, data := [] } } }

/-- The reply held becomes REFUSED with a reason and data (R201). -/
def refuseWith (r : Reason) (data : List Byte) (s : State) : State :=
  { s with svp := { s.svp with reply := { status := .refused, reason := some r, data := data } } }

/-- The reply held becomes a status with no data: NOT_NOW, BUSY, CONFLICT, BAD_REQUEST (R184). -/
def replyStatus (st : Status) (s : State) : State :=
  { s with svp := { s.svp with reply := { status := st, reason := none, data := [] } } }

/-- The station mode is CONFIGURING. -/
def configuring (s : State) : Bool := decide (s.svp.mode = .configuring)

/-- A request taken only in JOINING, RUNNING and SILENT: NOT_NOW in CONFIGURING, with no effect (R184). -/
def inService (f : State → State) (s : State) : State :=
  if configuring s then replyStatus .notNow s else f s

/-- A request that acts and is then answered OK with no data. -/
def okAfter (f : State → State) (s : State) : State := replyOk [] (f s)

/-- Status codes of a reply (11_formats.md). -/
def statusCode : Status → Nat
  | .ok => 0 | .busy => 1 | .conflict => 2 | .refused => 3 | .badRequest => 4 | .notNow => 5 | .noRequest => 6

/-- Reason codes (11_formats.md). -/
def reasonCode : Reason → Nat
  | .noEntry => 1 | .notLost => 2 | .noRudder => 3 | .notFaulted => 4 | .sensorDead => 5 | .notParted => 6
  | .noTank => 7 | .noPump => 8 | .sourceLow => 9 | .destFull => 10 | .noTransfer => 11 | .noMeter => 12
  | .noBunker => 13 | .noSounding => 14 | .noLine => 15 | .offset => 16 | .crcMismatch => 17
  | .configInvalid => 18

/-- The bytes of the reply held: a read transaction returns them, and 0 beyond their end (R183). -/
def replyBytes (r : Reply) : List Byte :=
  be 1 (statusCode r.status) ++
    (match r.reason with
      | some why => be 1 (reasonCode why) ++ be 1 r.data.length
      | none => be 2 r.data.length) ++ r.data

/-- Byte `i` of a read transaction (R183). -/
def readByte (s : State) (i : Nat) : Byte := (replyBytes s.svp.reply).getD i 0

/-- The 7-bit service port address: 0x58 plus the strap value (R183). -/
def portAddress (s : State) : Nat := 0x58 + s.svp.straps.toNat

/-! ## The configuration image -/

/-- What an unlisted byte of the image reads as: every byte is 0 after reset (R189). -/
def unlistedByte : Byte := 0

/-- The byte of the image at an address. -/
def imageRead : List Host.Cell → Nat → Byte
  | [], _ => unlistedByte
  | (k, b) :: cs, a => if k = a then b else imageRead cs a

/-- The image with one byte replaced, in canonical form: addresses rising, no entry equal to the unlisted
byte. -/
def imagePut : List Host.Cell → Nat → Byte → List Host.Cell
  | [], a, b => if b = unlistedByte then [] else [(a, b)]
  | (k, c) :: cs, a, b =>
    if a < k then (if b = unlistedByte then (k, c) :: cs else (a, b) :: (k, c) :: cs)
    else if a = k then (if b = unlistedByte then cs else (a, b) :: cs)
    else (k, c) :: imagePut cs a b

/-- Bytes replace the image bytes from an address on (R189). -/
def imageWrite : List Host.Cell → Nat → List Byte → List Host.Cell
  | m, _, [] => m
  | m, a, b :: bs => imageWrite (imagePut m a b) (a + 1) bs

/-- Every listed address is at least `lo`, addresses rise strictly, no listed byte is the unlisted one. -/
def imageOrdered : Nat → List Host.Cell → Bool
  | _, [] => true
  | lo, (k, b) :: cs => decide (lo ≤ k) && decide (b ≠ unlistedByte) && imageOrdered (k + 1) cs

/-- The canonical form of the image, within its 1024 bytes (R201). -/
def imageWf (m : List Host.Cell) : Bool :=
  imageOrdered 0 m && m.all fun c => decide (c.1 < Config.imageLength)

/-- `n` bytes of the image from an address on, as one list. -/
def imageBytes : Nat → Nat → List Host.Cell → List Byte
  | 0, _, _ => []
  | n + 1, _, [] => unlistedByte :: imageBytes n 0 []
  | n + 1, a, (k, b) :: cs =>
    if k = a then b :: imageBytes n (a + 1) cs else unlistedByte :: imageBytes n (a + 1) ((k, b) :: cs)

/-! ## Gauge bindings and drive assignments -/

/-- The channel of a kind bound to an item (R139). -/
def chanOf (kind : GaugeKind) (binding : Option Nat) (s : State) : Option Nat :=
  findN (fun c => decide (c.kind = kind ∧ c.binding = binding)) s.cfg.chans

/-- The health of a channel is DEAD. -/
def chanDead (n : Nat) (s : State) : Bool :=
  match getN s.pgu.chans n with
  | some c => decide (c.health = .dead)
  | none => false

/-- The channel of a kind bound to an item is DEAD. -/
def boundDead (kind : GaugeKind) (binding : Option Nat) (s : State) : Bool :=
  match chanOf kind binding s with
  | some n => chanDead n s
  | none => false

/-- The line given an assignment (R156: no assignment other than UNUSED is given to more than one line). -/
def lineOf (a : Assignment) (cfg : Cfg) : Option Nat :=
  findN (fun l => decide (l.assignment = a)) cfg.lines

/-! ## Directions -/

/-- The engagement of a shaft: AHEAD, ASTERN, or none in NEUTRAL and DWELL. -/
def engagedWay : Dir → Option Way
  | .ahead => some .ahead
  | .astern => some .astern
  | .neutral => none
  | .dwell => none

/-- The direction state of a shaft engaged in a direction. -/
def dirOfWay : Way → Dir
  | .ahead => .ahead
  | .astern => .astern

/-- The engine state lets a shaft engage: RUNNING or LIMITED (R50, R52). -/
def engineTurns : Engine → Bool
  | .running => true
  | .limited => true
  | .stopped => false
  | .fuelOut => false

/-- Local mode is applied: mode RUNNING and the panel's local mode on (R42, R66). -/
def localApplied (s : State) : Bool := decide (s.svp.mode = .running) && s.svp.panel.localMode

/-! ## Peers -/

/-- The entry of a station. -/
def peerOf (n : Nat) (s : State) : Option Peer := s.cvu.peers.find? fun p => decide (p.number = n)

/-- An entry that is LIVE or STALE (R5, R6). -/
def counted (p : Peer) : Bool :=
  match p.state with
  | .live => true
  | .stale => true
  | .lost => false

/-- The table with the entry of a station changed. -/
def modPeer (n : Nat) (f : Peer → Peer) (s : State) : State :=
  { s with cvu := { s.cvu with peers := s.cvu.peers.map fun p => if p.number = n then f p else p } }

/-- An entry takes its place in ascending station number (R1). -/
def insertPeer (p : Peer) : List Peer → List Peer
  | [] => [p]
  | q :: qs => if p.number < q.number then p :: q :: qs else q :: insertPeer p qs

/-- The stale expiry of an entry (R5). -/
def staleAt (p : Peer) : Nat := p.lastHeard + 3 * p.statusPeriod

/-- The lost expiry of an entry (R5). -/
def lostAt (p : Peer) : Nat := p.lastHeard + p.lostCount * p.statusPeriod

/-- The helm-age expiry of a helm part (R15). -/
def helmAgeAt (h : HelmPart) : Nat := h.lastHelm + 3 * h.period

/-- The mute expiry: own last-sent time plus the own lost time (R24). -/
def muteAt (s : State) : Option Nat := s.lif.lastSent.map (· + s.cfg.lostTime)

end Sys2Proof.Machine
end

