-- ==== Sys2Proof/Machine/Share.lean ====
section
/-!
DEFINITION. The share computation of the SHU (chapter 2): the seven stages and local mode, as a function of the
state, and the contributing state's seven conditions.
-/

namespace Sys2Proof.Machine

/-! ## Contributing (R23) -/

/-- The seven conditions of R23, in the order of its table. -/
def contributingConditions (s : State) : List Bool :=
  [ decide (s.svp.mode = .running), decide (s.cpc.summary = .made), !s.cpc.parted, s.cpc.pullOff.isNone,
    !s.shu.departing, !s.svp.panel.localMode, !s.shu.muted ]

/-- The contributing state R23 gives now. -/
def contributingNow (s : State) : Bool := (contributingConditions s).all id

/-! ## Stage 1 and 2: availability, capacity (R29 to R33) -/

/-- Engine factor (R29). -/
def engineFactor (c : ShaftCfg) : Engine → Nat
  | .running => 1000
  | .limited => c.limited
  | .stopped => 0
  | .fuelOut => 0

/-- Fuel factor from the band of a day tank (R30). -/
def bandFactor (derate : Nat) : Band → Nat
  | .normal => 1000
  | .reserve => derate
  | .cutoff => 0

/-- Fuel factor of a shaft, from the tank its engine draws on (R30). -/
def fuelFactor (c : ShaftCfg) (s : State) : Nat :=
  match getN s.cfg.tanks c.dayTank, getN s.fau.tanks c.dayTank with
  | some k, some t => bandFactor k.derate t.band
  | _, _ => 0

/-- A_ahead of a shaft (R32). -/
def availAhead (rated fEng fFuel fCpl : Nat) : Nat := rated * fEng * fFuel * fCpl / 1000000000

/-- A_astern of a shaft (R32). -/
def availAstern (aAhead astern : Nat) : Nat := aAhead * astern / 1000

/-- Availability of a shaft ahead and astern (R32). -/
def shaftAvail (s : State) (c : ShaftCfg) (r : Shaft) : Nat × Nat :=
  let a := availAhead c.rated (engineFactor c r.engine) (fuelFactor c s) s.cpc.fCpl
  (a, availAstern a c.astern)

/-- Availabilities of every own shaft, in shaft order (R32). -/
def availabilities (s : State) : List (Nat × Nat) := List.zipWith (shaftAvail s) s.cfg.shafts s.sfc

/-- The availability in a direction: A_dir. -/
def inWay (w : Way) (a : Nat × Nat) : Nat :=
  match w with
  | .ahead => a.1
  | .astern => a.2

/-- Capacity in a direction (R33). -/
def capacity (w : Way) (av : List (Nat × Nat)) : Nat := (av.map (inWay w)).sum

/-! ## Stage 3: demand (R35) -/

/-- Convoy demand E (R35). -/
def demandOf (d : Int) (rNom : Nat) : Nat := d.natAbs * rNom / 1000

/-- Demand direction: AHEAD, ASTERN, or NONE for D = 0 (R35). -/
def wayOf (d : Int) : Option Way := if 0 < d then some .ahead else if d < 0 then some .astern else none

/-! ## Stage 4: the contributor set (R36) -/

/-- A member of the contributor set: station number, C_i and w_i. -/
structure Member where
  number : Nat
  c : Nat
  w : Nat
deriving DecidableEq, Repr

/-- A candidate member with its weight w = C × φ / 1000 (R36). -/
def memberOf (number c phi : Nat) : Member := { number := number, c := c, w := c * phi / 1000 }

/-- The STATUS part makes its LIVE or STALE peer a contributor: contributing and RUNNING (R36). -/
def peerMember (w : Way) (p : Peer) : Option Member :=
  match p.statusPart with
  | some st =>
    if counted p && st.contributing && decide (st.mode = .running) then
      some (memberOf p.number (clampNat 0 12000 (match w with | .ahead => st.cAhead | .astern => st.cAstern))
        (clampNat 500 1000 st.phi))
    else none
  | none => none

/-- A member with C = 0 or w = 0 is left out (R36). -/
def realMember (m : Member) : Bool := decide (m.c ≠ 0) && decide (m.w ≠ 0)

/-- The contributor set, self included where it qualifies (R36). -/
def contributors (w : Way) (cSelf phi own : Nat) (peers : List Peer) : List Member :=
  (memberOf own cSelf phi :: peers.filterMap (peerMember w)).filter realMember

/-! ## Stage 5: share filling (R37, R38) -/

/-- Member `i` comes before member `j`: C_i × w_j < C_j × w_i, or equal products and the lower number (R38). -/
def before (i j : Member) : Bool :=
  decide (i.c * j.w < j.c * i.w) || (decide (i.c * j.w = j.c * i.w) && decide (i.number < j.number))

/-- A member put in its place. -/
def insertMember (m : Member) : List Member → List Member
  | [] => [m]
  | x :: xs => if before x m then x :: insertMember m xs else m :: x :: xs

/-- The members in the order of R38 step 1. -/
def orderMembers (l : List Member) : List Member := l.foldr insertMember []

/-- The walk of R38 from Er and Wr, giving each member its take. -/
def walk : Nat → Nat → List Member → List (Nat × Nat)
  | _, _, [] => []
  | er, wr, m :: ms =>
    if m.c ≤ er * m.w / wr then (m.number, m.c) :: walk (er - m.c) (wr - m.w) ms
    else (m :: ms).map fun x => (x.number, er * x.w / wr)

/-- ΣC over the members. -/
def sumC (ms : List Member) : Nat := (ms.map (·.c)).sum

/-- W, the sum of the weights. -/
def sumW (ms : List Member) : Nat := (ms.map (·.w)).sum

/-- What each member takes: its whole capacity when ΣC ≤ E, by the walk otherwise (R37, R38). -/
def takes (e : Nat) (ms : List Member) : List (Nat × Nat) :=
  if sumC ms ≤ e then ms.map fun m => (m.number, m.c) else walk e (sumW ms) (orderMembers ms)

/-- What a station takes; 0 for a station that is no member. -/
def takeOf (own : Nat) (l : List (Nat × Nat)) : Nat :=
  match l.find? fun x => decide (x.1 = own) with
  | some x => x.2
  | none => 0

/-! ## Stage 6: turn bias (R39) -/

/-- The bias b, per-mille, clamped to ±300 (R39). -/
def biasOf (delta lateral : Int) (gDiff : Nat) : Int :=
  clampInt (-300) 300 (Int.tdiv (-(delta * lateral * gDiff)) 35000)

/-- The biased share S', clamped to 0..C_dir (R39). -/
def biasedShare (share : Nat) (b : Int) (cDir : Nat) : Nat :=
  (clampInt 0 cDir (Int.tdiv (share * (1000 + b)) 1000)).toNat

/-! ## Stage 7: shaft split (R40) -/

/-- The targets before the remainder (R40). -/
def baseTargets (biased cDir : Nat) (as : List Nat) : List Nat := as.map fun a => biased * a / cDir

/-- The number of the shaft with the largest A_dir not yet served, ties to the lower number: `best` is the best
so far among the shafts before number `n`. -/
def largest (served : List Nat) : Nat → Option (Nat × Nat) → List Nat → Option (Nat × Nat)
  | _, best, [] => best
  | n, best, a :: as =>
    let best' :=
      if n ∈ served then best
      else
        match best with
        | some (_, b) => if b < a then some (n, a) else best
        | none => some (n, a)
    largest served (n + 1) best' as

/-- The remainder placed: on the shaft with the largest A_dir up to its A_dir, the rest on the next (R40). -/
def placeRemainder (as : List Nat) : Nat → List Nat → Nat → List Nat → List Nat
  | 0, _, _, ts => ts
  | fuel + 1, served, rem, ts =>
    match largest served 1 none as with
    | some (n, a) =>
      let room := min rem (a - (getN ts n).getD 0)
      placeRemainder as fuel (n :: served) (rem - room) (modN ts n (· + room))
    | none => ts

/-- Per-shaft targets for a biased share (R40); every target is 0 when C_dir is 0. -/
def splitShare (biased cDir : Nat) (as : List Nat) : List Nat :=
  let ts := baseTargets biased cDir as
  placeRemainder as as.length [] (biased - ts.sum) ts

/-! ## Local mode (R42) -/

/-- Targets of local mode: abs(lever) × A_dir / 1000 (R42). -/
def localTargets (lever : Int) (w : Way) (av : List (Nat × Nat)) : List Nat :=
  av.map fun a => lever.natAbs * inWay w a / 1000

/-! ## The recompute (R28) -/

/-- What a recompute leaves for reporting and for delivery. -/
structure ShareResult where
  demand : Nat
  way : Option Way
  share : Nat
  biased : Nat
  shortfall : Bool
  deficit : Nat
  targetWay : Option Way
  targets : List Nat
deriving DecidableEq, Repr

/-- No share: every target 0 (R36, R43).  Demand and direction are those given. -/
def noShare (e : Nat) (w : Option Way) (n : Nat) : ShareResult :=
  { demand := e, way := w, share := 0, biased := 0, shortfall := false, deficit := 0, targetWay := none
    targets := List.replicate n 0 }

/-- Stages 4 to 7 for a contributing station and a demand direction (R36 to R40). -/
def contributedShare (s : State) (w : Way) (av : List (Nat × Nat)) : ShareResult :=
  let e := demandOf s.cvu.effD s.cvu.powerNom
  let cDir := capacity w av
  let ms := contributors w cDir s.shu.phi s.cfg.station s.cvu.peers
  if ms.any fun m => decide (m.number = s.cfg.station) then
    let share := takeOf s.cfg.station (takes e ms)
    let biased := biasedShare share (biasOf s.cvu.effDelta s.cfg.lateral s.cfg.gDiff) cDir
    { demand := e, way := some w, share := share, biased := biased, shortfall := decide (sumC ms < e)
      deficit := e - sumC ms, targetWay := some w, targets := splitShare biased cDir (av.map (inWay w)) }
  else noShare e (some w) av.length

/-- The SHU counts as contributing by R43's table: in RUNNING by the contributing state (R23), in every other mode not
at all, whatever the state held from before the change of mode. -/
def contributes (s : State) : Bool := decide (s.svp.mode = .running) && s.shu.contributing

/-- Stages 3 to 7, or local mode, or neither (R35 to R43).  Where stage 3 is not run the demand in force and its
direction stay as the last stage 3 left them (notes/assumptions/7.md). -/
def shareResult (s : State) : ShareResult :=
  let av := availabilities s
  if localApplied s then
    match wayOf s.svp.panel.lever with
    | some w =>
      { noShare s.shu.demand s.shu.demandWay av.length with
        targetWay := some w, targets := localTargets s.svp.panel.lever w av }
    | none => noShare s.shu.demand s.shu.demandWay av.length
  else if contributes s then
    match wayOf s.cvu.effD with
    | some w => contributedShare s w av
    | none => noShare (demandOf s.cvu.effD s.cvu.powerNom) none av.length
  else noShare s.shu.demand s.shu.demandWay av.length

/-- The fuel weight φ from the own total aboard, the balance level and the reserve level (R34). -/
def fuelWeight (v b rv : Nat) : Nat :=
  if b ≤ v then 1000 else if v ≤ rv then 500 else 500 + 500 * (v - rv) / (b - rv)

end Sys2Proof.Machine
end

