-- ==== Sys2Proof/Machine/Slots.lean ====
section
/-!
DEFINITION. The transmit side of the convoy line interface (R166 to R170, R200): the four slots, placing a
frame, starting a transmission, and the contents of the station's own frames.
-/

namespace Sys2Proof.Machine

/-- Code of a mode in a frame and in a reply (11_formats.md). -/
def modeCode : Mode → Nat
  | .configuring => 0 | .joining => 1 | .running => 2 | .silent => 3

/-- Code of a summary (11_formats.md). -/
def summaryCode : Summary → Nat
  | .free => 0 | .loose => 1 | .made => 2

/-- Code of a shaft direction (11_formats.md). -/
def dirCode : Dir → Nat
  | .neutral => 0 | .ahead => 1 | .astern => 2 | .dwell => 3

/-! ## Slots -/

/-- The payload waiting in a slot. -/
def slotOf (k : FrameKind) (l : Lif) : Option (List Byte) :=
  match k with
  | .alert => l.slotAlert | .helm => l.slotHelm | .status => l.slotStatus | .fuel => l.slotFuel

/-- A slot filled or emptied. -/
def setSlot (k : FrameKind) (v : Option (List Byte)) (l : Lif) : Lif :=
  match k with
  | .alert => { l with slotAlert := v }
  | .helm => { l with slotHelm := v }
  | .status => { l with slotStatus := v }
  | .fuel => { l with slotFuel := v }

/-- All four slots emptied. -/
def emptySlots (l : Lif) : Lif :=
  { l with slotAlert := none, slotHelm := none, slotStatus := none, slotFuel := none }

/-- The filled slot with the lowest arbitration value: within one station, the lowest class (R166, R170). -/
def lowestSlot (l : Lif) : Option (FrameKind × List Byte) :=
  match l.slotAlert, l.slotHelm, l.slotStatus, l.slotFuel with
  | some p, _, _, _ => some (.alert, p)
  | none, some p, _, _ => some (.helm, p)
  | none, none, some p, _ => some (.status, p)
  | none, none, none, some p => some (.fuel, p)
  | none, none, none, none => none

/-- The transmitter is on for the mode: JOINING and RUNNING (R165). -/
def transmitterOn : Mode → Bool
  | .joining => true | .running => true | .configuring => false | .silent => false

/-- The receiver is on for the mode: every mode but CONFIGURING (R165). -/
def receiverOn : Mode → Bool
  | .joining => true | .running => true | .silent => true | .configuring => false

/-- The next bit time at or after moment `t`, counted from the moment the line became idle (R165, R170;
notes/assumptions/36.md). -/
def nextBitTime (i : IdleLine) (t : Nat) : Nat := i.since + (t - i.since + 3) / Config.bitTime * Config.bitTime

/-- The bit time in which this station would drive its start bit now: the line is idle, and no start bit of another station
appears before it (R165, R170). -/
def ownStart (s : State) : Option Nat :=
  match s.lif.lineIdle with
  | some i =>
    let b := nextBitTime i s.clock
    match i.otherStart with
    | some o => if b ≤ o then some b else none
    | none => some b
  | none => none

/-- The transmitter may start a frame on an idle line: on for the mode, listening period ended, no suspension, nothing being
sent (R170). -/
def mayStart (s : State) : Bool :=
  transmitterOn s.svp.mode && !s.lif.listening && s.lif.suspendedAt.isNone && s.lif.tx.isNone

/-- The transmitter starts a copy of the lowest-valued frame in the slots, where it may (R170). -/
def tryStart (s : State) : State :=
  if mayStart s then
    match ownStart s, lowestSlot s.lif with
    | some b, some (k, p) =>
      { s with lif := { s.lif with tx := some { kind := k, payload := p, startAt := b }, lineIdle := none } }
    | _, _ => s
  else s

/-- The start bit of this frame is still to be driven, in this bit time or the next (R170). -/
def unbegun (now : Nat) (x : Tx) : Bool := x.sealed.isNone && decide (now ≤ x.startAt)

/-- The frame being sent after a placement in slot `k`.  Until its start bit is driven no transmission has begun (R169), and
the choice of the lowest-valued frame is made again, as the worked sequence of R175 has it for frames placed together
(notes/assumptions/37.md); after it the placement leaves the copy on the line and marks its slot as holding a newer frame
(R169). -/
def txAfterPlacement (now : Nat) (k : FrameKind) (l : Lif) : Option Tx :=
  match l.tx with
  | some x =>
    if unbegun now x then (lowestSlot l).map fun f => { kind := f.1, payload := f.2, startAt := x.startAt }
    else some (if x.kind = k then { x with replaced := true } else x)
  | none => none

/-- A frame is placed in its slot, replacing the frame held there; outside JOINING and RUNNING it is discarded
(R168, R169).  A frame placed while the line is idle may start at once, one placed while another station's frame is on
the line waits (R170). -/
def placeFrame (k : FrameKind) (payload : List Byte) (s : State) : State :=
  if transmitterOn s.svp.mode then
    let l := setSlot k (some payload) s.lif
    tryStart { s with lif := { l with tx := txAfterPlacement s.clock k l } }
  else s

/-! ## Contents of own frames (R167, R200) -/

/-- Flags byte of a STATUS payload: bit 0 contributing, bit 1 departing, bit 2 parted. -/
def statusFlags (contributing departing parted : Bool) : Nat :=
  (if contributing then 1 else 0) + (if departing then 2 else 0) + (if parted then 4 else 0)

/-- Code of the direction of shaft `n` in a STATUS payload: 0 beyond the shaft count. -/
def shaftDirByte (n : Nat) (s : State) : Nat :=
  match getN s.sfc n with
  | some r => dirCode r.dir
  | none => 0

/-- Payload of an own STATUS or ALERT built at this moment (R167, R200). -/
def statusPayload (s : State) : List Byte :=
  be 1 (modeCode s.svp.mode) ++
    be 1 (statusFlags s.shu.contributing s.shu.departing s.cpc.parted) ++
    be 1 (summaryCode s.cpc.summary) ++ be 1 s.cfg.lostCount ++ be 2 s.cfg.statusPeriod ++
    be 2 s.cfg.ratedTotal ++ be 2 s.shu.cAhead ++ be 2 s.shu.cAstern ++ be 2 s.shu.phi ++
    be 2 s.stc.ownNominal ++ be 2 s.stc.ownLive ++ be 1 s.sfc.length ++
    be 1 (shaftDirByte 1 s) ++ be 1 (shaftDirByte 2 s) ++ be 1 (shaftDirByte 3 s) ++
    be 1 (s.cvu.followed.getD 0) ++ be 1 0

/-- Payload of an own HELM (R11, R200). -/
def helmPayload (h : HelmContents) (yielded : Bool) : List Byte :=
  be 1 h.rank ++ be 1 h.periodUnits ++ beBool yielded ++ beInt 2 h.d ++ beInt 2 h.delta ++ be 1 h.order ++
    setByte h.releaseSet ++ setByte h.remakeSet ++ be 2 0

/-- The own reserve flag: any own DAY tank in RESERVE or CUTOFF (R112). -/
def reserveFlag (s : State) : Bool :=
  (List.zip s.cfg.tanks s.fau.tanks).any fun ct => decide (ct.1.role = .day ∧ ct.2.band ≠ .normal)

/-- Payload of an own FUEL (R133, R200): a burn rate above 65535 is written as 65535. -/
def fuelPayload (s : State) : List Byte :=
  be 4 s.fau.aboard ++ be 2 (sat16 s.fau.burn) ++ beBool (reserveFlag s) ++ be 1 0

/-- An ALERT is placed, built from the values in force at this moment (R168). -/
def placeAlert (s : State) : State := placeFrame .alert (statusPayload s) s

/-- A STATUS is placed (R168). -/
def placeStatus (s : State) : State := placeFrame .status (statusPayload s) s

/-- A FUEL is placed (R133). -/
def placeFuel (s : State) : State := placeFrame .fuel (fuelPayload s) s

/-- A HELM is placed with these contents (R11, R13). -/
def placeHelm (h : HelmContents) (yielded : Bool) (s : State) : State :=
  placeFrame .helm (helmPayload h yielded) s

/-! ## The frame on the line -/

/-- Own sequence counter of a kind (R172). -/
def seqOf (k : FrameKind) (l : Lif) : Nat :=
  match k with
  | .alert => l.seqAlert | .helm => l.seqHelm | .status => l.seqStatus | .fuel => l.seqFuel

/-- Own sequence counter of a kind set. -/
def setSeq (k : FrameKind) (v : Nat) (l : Lif) : Lif :=
  match k with
  | .alert => { l with seqAlert := v }
  | .helm => { l with seqHelm := v }
  | .status => { l with seqStatus := v }
  | .fuel => { l with seqFuel := v }

/-- The bytes of the frame in transmission before its CRC. -/
def txHead (station : Nat) (x : Tx) (seq : Nat) : List Byte :=
  frameHead (arbValue x.kind station) (FrameKind.code x.kind) seq x.payload

/-- The bytes that the frame in transmission puts on the line once its arbitration field is complete (R166,
R172). -/
def txBytes (s : State) : Option (List Byte) :=
  match s.lif.tx with
  | some x =>
    match x.sealed with
    | some (seq, crc) => some (txHead s.cfg.station x seq ++ be 2 crc.toNat)
    | none => none
  | none => none

end Sys2Proof.Machine
end

