-- ==== Sys2Proof/Machine/Drive.lean ====
section
/-!
DEFINITION. The drive line unit (chapter 8): writes, period starts with the pair rules and the dead zone, what a
line carries, and the meaning of PERIOD_START.
-/

namespace Sys2Proof.Machine

/-! ## Lines, partners, and what a line carries -/

/-- The partner of a paired assignment (R156). -/
def partnerOf : Assignment → Option Assignment
  | .clutchAhead s => some (.clutchAstern s)
  | .clutchAstern s => some (.clutchAhead s)
  | .rudderPort s => some (.rudderStbd s)
  | .rudderStbd s => some (.rudderPort s)
  | .winchHaul w => some (.winchPayout w)
  | .winchPayout w => some (.winchHaul w)
  | .governor _ => none
  | .transferPump => none
  | .unused => none

/-- A line is enabled (R155). -/
def lineEnabled (n : Nat) (cfg : Cfg) : Bool :=
  match getN cfg.lines n with
  | some c => c.enabled
  | none => false

/-- The partner's line number (R156). -/
def partnerLine (n : Nat) (cfg : Cfg) : Option Nat :=
  match getN cfg.lines n with
  | some c =>
    match partnerOf c.assignment with
    | some a => lineOf a cfg
    | none => none
  | none => none

/-- The applied duty is present and above 0. -/
def appliedAbove0 (l : Line) : Bool :=
  match l.applied with
  | some (_ + 1) => true
  | _ => false

/-- A line is driven: enabled, applied duty present and above 0 (R155). -/
def lineDriven (n : Nat) (cfg : Cfg) (l : Line) : Bool := lineEnabled n cfg && appliedAbove0 l

/-- What an output carries: its safe level or a duty (R157, R161). -/
inductive LineOutput where
  | safe (level : SafeLevel)
  | duty (d : Nat)
deriving DecidableEq, Repr

/-- A line carries its safe level in CONFIGURING, when UNUSED, when disabled, and while no written duty has been
applied to it; otherwise its applied duty (R161). -/
def lineOutput (n : Nat) (s : State) : Option LineOutput :=
  match getN s.cfg.lines n, getN s.dlu.lines n with
  | some c, some l =>
    if configuring s || decide (c.assignment = .unused) || !c.enabled then some (.safe c.safe)
    else
      match l.applied with
      | some d => some (.duty d)
      | none => some (.safe c.safe)
  | _, _ => none

/-- Microseconds of each drive period for which an output at duty `d` is active: d × p (R157). -/
def activeMicros (d : Nat) (s : State) : Nat := d * s.cfg.drivePeriod

/-- The period start under way, in µs of the station timebase: one period before the timer's next expiry (R157). -/
def periodStartMicros (s : State) : Nat := (s.dlu.periodAt.getD 0 - s.cfg.drivePeriod) * 1000

/-- What a drive output pin shows: driven low, driven high, or high impedance (R157, R161). -/
inductive PinLevel where
  | low | high | floating
deriving DecidableEq, Repr

/-- The pin of a line at its safe level (R161). -/
def safePin : SafeLevel → PinLevel
  | .low => .low
  | .high => .high
  | .float => .floating

/-- The pin of an output at duty `d`: high for d × p µs from the period start, low for the rest of the period; duty 0
holds it low and duty 1000 holds it high (R157). -/
def dutyPin (d : Nat) (s : State) : PinLevel :=
  if 1000 ≤ d ∨ s.clock - periodStartMicros s < activeMicros d s then .high else .low

/-- What the pin of drive output `n` shows at this moment (R157, R161). -/
def linePin (n : Nat) (s : State) : Option PinLevel :=
  match lineOutput n s with
  | some (.safe level) => some (safePin level)
  | some (.duty d) => some (dutyPin d s)
  | none => none

/-! ## Writes (R158, R160) -/

/-- A written duty taken by its own line: steps 1 to 3 of R158; a write of 0 ends a hold (R160). -/
def takeWrite (enabled : Bool) (d : Nat) (l : Line) : Line :=
  if enabled then
    { l with requested := some d, pendingDuty := some d, holdAt := if d = 0 then none else l.holdAt }
  else { l with requested := some d }

/-- The partner of a line written above 0: a pending duty above 0 becomes 0 and a hold ends (R158 step 4). -/
def cancelPending (l : Line) : Line :=
  match l.pendingDuty with
  | some (_ + 1) => { l with pendingDuty := some 0, holdAt := none }
  | _ => l

/-- A write of a duty to a line (R158). -/
def writeLines (cfg : Cfg) (n d : Nat) (lines : List Line) : List Line :=
  let written := modN lines n (takeWrite (lineEnabled n cfg) d)
  if lineEnabled n cfg && decide (0 < d) then
    match partnerLine n cfg with
    | some p => modN written p cancelPending
    | none => written
  else written

/-- An owner writes a duty to the line of an assignment; no line, no write. -/
def writeDuty (a : Assignment) (d : Nat) (s : State) : State :=
  match lineOf a s.cfg with
  | some n => { s with dlu := { s.dlu with lines := writeLines s.cfg n d s.dlu.lines } }
  | none => s

/-! ## Period starts (R159, R160) -/

/-- The pending duty becomes the applied duty and the pending duty and the hold become absent; a fall from above
0 to 0 sets the off time (R159, R160). -/
def applyPending (now : Nat) (l : Line) : Line :=
  match l.pendingDuty with
  | some d =>
    { l with
      applied := some d, pendingDuty := none, holdAt := none
      offTime := if d = 0 ∧ appliedAbove0 l = true then some now else l.offTime }
  | none => l

/-- A forced turn-off of the partner (R159): applied 0, off time now, one override more. -/
def forceOff (now : Nat) (l : Line) : Line :=
  { l with applied := some 0, offTime := some now, overrides := sat16 (l.overrides + 1) }

/-- A line held until an expiry (R159).  Its applied duty is left as it is: where no written duty has been applied yet it stays
absent, and the line carries its safe level (R161), though R159 gives a held line an applied duty of 0: the model's choice
(notes/assumptions/35.md). -/
def holdLine (e : Nat) (l : Line) : Line := { l with holdAt := some e }

/-- First half of a period start, for one line: a pending duty of 0, and any pending duty of a line without a
partner, is applied. -/
def applyOffs (cfg : Cfg) (now : Nat) (lines : List Line) (n : Nat) : List Line :=
  match getN lines n with
  | some l =>
    match l.pendingDuty, partnerLine n cfg with
    | some 0, _ => modN lines n (applyPending now)
    | some (_ + 1), none => modN lines n (applyPending now)
    | _, _ => lines
  | none => lines

/-- The turn-on of a line of a pair that is not held and not driven, judged by its partner (R159).  A partner
just turned off by its pending 0 carries an off time of now, so that the hold of R159's second row is the one
its off time gives. -/
def judgeTurnOn (cfg : Cfg) (now n p : Nat) (lines : List Line) : List Line :=
  match getN lines p with
  | none => modN lines n (applyPending now)
  | some q =>
    if lineDriven p cfg q then
      if cfg.deadZone = 0 then modN (modN lines p (forceOff now)) n (applyPending now)
      else modN (modN lines p (forceOff now)) n (holdLine (now + cfg.deadZone))
    else
      match q.offTime with
      | some o =>
        if now < o + cfg.deadZone then modN lines n (holdLine (o + cfg.deadZone))
        else modN lines n (applyPending now)
      | none => modN lines n (applyPending now)

/-- Second half of a period start, for one line: a pending duty above 0 of a line of a pair (R159, R160). -/
def turnOn (cfg : Cfg) (now : Nat) (lines : List Line) (n : Nat) : List Line :=
  match getN lines n with
  | some l =>
    match l.pendingDuty, partnerLine n cfg with
    | some (_ + 1), some p =>
      match l.holdAt with
      | some h => if h ≤ now then modN lines n (applyPending now) else lines
      | none =>
        if lineDriven n cfg l then modN lines n (applyPending now) else judgeTurnOn cfg now n p lines
    | _, _ => lines
  | none => lines

/-- A period start over all lines: turn-offs and unpaired lines first, then the turn-ons of pairs (R159). -/
def periodStartLines (cfg : Cfg) (now : Nat) (lines : List Line) : List Line :=
  (numbers 24).foldl (turnOn cfg now) ((numbers 24).foldl (applyOffs cfg now) lines)

/-- Meaning of PERIOD_START (R157, R159, R160): at an expiry of the period timer the pending duties are applied
and the timer is restarted for one further period from that expiry.  Off times and holds are those of the moment at which the
command is taken, also where that is later than the expiry: the model's choice (notes/assumptions/20.md). -/
def execPeriodStart (t : Nat) (s0 : State) : Host.Outcome State Fault Refusal :=
  let s := setClock t s0
  if due s.now s.dlu.periodAt then
    .next { s with
      dlu :=
        { s.dlu with
          lines := periodStartLines s.cfg s.now s.dlu.lines
          periodAt := restartTimer s.cfg.drivePeriod s.dlu.periodAt } }
  else .next s

end Sys2Proof.Machine
end

