-- ==== Sys2Proof/Machine/Steering.lean ====
section
/-!
DEFINITION. The steering controller (chapter 4): rudders in service, authority and compensation, set-points,
angle results, the servo, stall and retry; meanings of STALL_EXPIRY and RUDDER_RETRY.
-/

namespace Sys2Proof.Machine

/-! ## Service, authority, set-points (R66 to R71) -/

/-- The station has a steering order: it is contributing, or local mode is applied (R66). -/
def steeringOrder (s : State) : Bool := s.shu.contributing || localApplied s

/-- A rudder in service follows while there is a steering order and is parked, with set-point 0 on entry,
otherwise; a rudder in a fault state keeps its state (R66, R71). -/
def serveRudder (order : Bool) (r : Rudder) : Rudder :=
  match r.state with
  | .following => if order then r else { r with state := .parked, setPoint := 0 }
  | .parked => if order then { r with state := .following } else r
  | .stalled => r
  | .sensorLost => r

/-- What one rudder adds to the own live authority: its gain while FOLLOWING behind a shaft not ASTERN (R67). -/
def liveGain (c : ShaftCfg) (r : Rudder) (d : Dir) : Nat :=
  if r.state = .following ∧ d ≠ .astern then c.gRud else 0

/-- Own live authority (R67). -/
def liveAuthority : List ShaftCfg → List Rudder → List Shaft → Nat
  | c :: cs, r :: rs, h :: hs => liveGain c r h.dir + liveAuthority cs rs hs
  | _, _, _ => 0

/-- A peer's part of the convoy's live authority, clamped to 4500 (R68). -/
def peerLive (p : Peer) : Nat :=
  match p.statusPart with
  | some st => if counted p && st.contributing then min st.rLive 4500 else 0
  | none => 0

/-- The convoy's live authority r_live (R68). -/
def convoyLive (own : Nat) (s : State) : Nat :=
  (if s.shu.contributing then own else 0) + (s.cvu.peers.map peerLive).sum

/-- The compensation factor k (R69). -/
def compensation (rNom rLive : Nat) : Nat :=
  if rLive = 0 then 1000 else clampNat 1000 1500 (rNom * 1000 / rLive)

/-- A rudder order turned into a set-point: order × G_rud × k / 1 000 000, truncated toward zero and clamped to
±θ_max (R70, R71). -/
def setPointOf (c : ShaftCfg) (order : Int) (k : Nat) : Int :=
  clampInt (-(c.thetaMax : Int)) c.thetaMax (Int.tdiv (order * c.gRud * k) 1000000)

/-- The set-point of a rudder: by R70 at a contributing station, by R71 in local mode, unchanged outside
FOLLOWING. -/
def aimRudder (contributing : Bool) (delta tiller : Int) (k : Nat) (c : ShaftCfg) (r : Rudder) : Rudder :=
  if r.state = .following then
    { r with setPoint := if contributing then setPointOf c delta k else setPointOf c tiller 1000 }
  else r

/-- The STC takes a notice: rudder states, own live authority, r_live, k and set-points (R66 to R71).  Each is a
function of the state as it stands, so one evaluation serves every notice. -/
def stcNotice (s : State) : State :=
  let rudders := s.stc.rudders.map (serveRudder (steeringOrder s))
  let own := liveAuthority s.cfg.shafts rudders s.sfc
  let live := convoyLive own s
  let k := compensation s.cvu.rudderNom live
  { s with
    stc :=
      { s.stc with
        rudders := mapWith (aimRudder s.shu.contributing s.cvu.effDelta s.svp.panel.tiller k) s.cfg.shafts rudders
        ownLive := own
        rLive := live
        k := k } }

/-! ## Valve lines (R76) -/

/-- Rudder `n` changed. -/
def modRudder (n : Nat) (f : Rudder → Rudder) (s : State) : State :=
  { s with stc := { s.stc with rudders := modN s.stc.rudders n f } }

/-- Duty of the port valve line (R76). -/
def portDuty (r : Rudder) : Nat := if r.drive = .port then r.duty else 0

/-- Duty of the starboard valve line (R76). -/
def stbdDuty (r : Rudder) : Nat := if r.drive = .stbd then r.duty else 0

/-- The port valve line written, and the value noted. -/
def writePort (n v : Nat) (s : State) : State :=
  writeDuty (.rudderPort n) v (modRudder n (fun r => { r with portWritten := some v }) s)

/-- The starboard valve line written, and the value noted. -/
def writeStbd (n v : Nat) (s : State) : State :=
  writeDuty (.rudderStbd n) v (modRudder n (fun r => { r with stbdWritten := some v }) s)

/-- A line is written when its value differs from the value last written to it; a line never written is left
alone until the rudder is first driven (R76, R164), unless both lines are ordered to 0 (R73, R78). -/
def valveDiffers (written : Option Nat) (v : Nat) (first : Bool) : Bool :=
  match written with
  | some w => decide (w ≠ v)
  | none => first

/-- The port line written if its value differs. -/
def updatePort (n v : Nat) (written : Option Nat) (first : Bool) (s : State) : State :=
  if valveDiffers written v first then writePort n v s else s

/-- The starboard line written if its value differs. -/
def updateStbd (n v : Nat) (written : Option Nat) (first : Bool) (s : State) : State :=
  if valveDiffers written v first then writeStbd n v s else s

/-- The two valve lines of a rudder follow its drive, the line turned off first (R76).  `ordered` says that both
lines are ordered to 0 whatever was written before. -/
def writeValves (n : Nat) (ordered : Bool) (s : State) : State :=
  match getN s.stc.rudders n with
  | none => s
  | some r =>
    let first := ordered || decide (r.drive ≠ .stop)
    if r.drive = .port then
      updatePort n (portDuty r) r.portWritten first (updateStbd n (stbdDuty r) r.stbdWritten first s)
    else updateStbd n (stbdDuty r) r.stbdWritten first (updatePort n (portDuty r) r.portWritten first s)

/-! ## Angle results, servo, stall (R72 to R78) -/

/-- Duty of an angle result, per-mille (R72). -/
def angleDuty (high cycle : Nat) : Nat := high * 1000 / cycle

/-- Angle of an angle result: absent for a duty that marks the sensor lost (R72). -/
def angleOf (duty : Nat) : Option Int :=
  if duty < 50 ∨ 950 < duty then none
  else some (Int.tdiv (((clampNat 100 900 duty : Nat) - 500 : Int) * 450) 400)

/-- Drive direction for an error (R75). -/
def driveFor (deadband : Nat) (err : Int) : Drive :=
  if err.natAbs ≤ deadband then .stop else if 0 < err then .stbd else .port

/-- Drive duty for an error: Kp × abs(error) / 10, raised to the minimum duty and lowered to 1000 (R75). -/
def driveDuty (c : ShaftCfg) (err : Int) : Nat :=
  if err.natAbs ≤ c.deadband then 0 else min 1000 (max c.minDuty (c.kp * err.natAbs / 10))

/-- The rudder has moved by at least a deadband from its stall reference (R77). -/
def moved (deadband : Nat) (theta : Int) (reference : Option Int) : Bool :=
  match reference with
  | some x => decide (deadband ≤ (theta - x).natAbs)
  | none => true

/-- Stall timer and reference after a servo action (R77). -/
def stallAfter (now : Nat) (c : ShaftCfg) (before : Drive) (theta : Int) (r : Rudder) : Rudder :=
  match r.drive with
  | .stop => { r with stallAt := none, reference := none }
  | d =>
    if before = d ∧ moved c.deadband theta r.reference = false then r
    else { r with stallAt := some (now + c.stallTime), reference := some theta }

/-- The servo acts on a used angle (R75, R77). -/
def servo (now : Nat) (c : ShaftCfg) (theta : Int) (r : Rudder) : Rudder :=
  let err := r.setPoint - theta
  stallAfter now c r.drive theta { r with drive := driveFor c.deadband err, duty := driveDuty c err }

/-- A rudder's drive stops and its stall check ends (R73, R78). -/
def stopRudder (st : RudderState) (r : Rudder) : Rudder :=
  { r with state := st, drive := .stop, duty := 0, stallAt := none, reference := none }

/-- Rudder `n` enters SENSOR_LOST: angle absent, drive stopped, both valve lines to 0, RUDDER_FAULT raised,
authority recomputed (R73). -/
def loseSensor (n : Nat) (s : State) : State :=
  stcNotice (raiseFlag .rudderFault (writeValves n true
    (modRudder n (fun r => { stopRudder .sensorLost r with theta := none }) s)))

/-- The notice that the angle channel of rudder `n` has become DEAD (R73). -/
def angleDead (n : Nat) (s : State) : State :=
  match getN s.stc.rudders n with
  | some r => if r.state = .sensorLost then s else loseSensor n s
  | none => s

/-- An angle is used: stored, and in an in-service rudder taken by the servo (R72, R75). -/
def useAngle (n : Nat) (theta : Int) (s : State) : State :=
  match getN s.stc.rudders n, getN s.cfg.shafts n with
  | some r, some c =>
    match r.state with
    | .stalled => modRudder n (fun q => { q with theta := some theta }) s
    | .sensorLost => s
    | _ => writeValves n false (modRudder n (fun q => servo s.now c theta { q with theta := some theta }) s)
  | _, _ => s

/-- An angle result with a high time and a cycle time (R72). -/
def angleResult (n high cycle : Nat) (s : State) : State :=
  match getN s.stc.rudders n with
  | none => s
  | some r =>
    if r.state = .sensorLost then s
    else
      match angleOf (angleDuty high cycle) with
      | none => loseSensor n s
      | some theta => useAngle n theta s

/-- Rudder `n` enters STALLED: drive stopped, both valve lines to 0, RUDDER_FAULT raised, authority recomputed
(R78). -/
def stallRudder (n : Nat) (s : State) : State :=
  stcNotice (raiseFlag .rudderFault (writeValves n true (modRudder n (stopRudder .stalled) s)))

/-- Meaning of STALL_EXPIRY (R78): acts when the rudder's stall timer has expired. -/
def execStallExpiry (t rudder : Nat) (s0 : State) : Host.Outcome State Fault Refusal :=
  let s := setClock t s0
  match getN s.stc.rudders rudder with
  | some r => if due s.now r.stallAt then .next (stallRudder rudder s) else .next s
  | none => .next s

/-- A rudder returned to service: FOLLOWING with a steering order and PARKED otherwise, set-point afresh, drive
STOP (R79). -/
def retryRudder (n : Nat) (s : State) : State :=
  stcNotice (modRudder n (fun r => { stopRudder .parked r with setPoint := 0 }) s)

/-- RUDDER_RETRY answered by the first row of R79's table that applies. -/
def retryAnswer (n : Nat) (s : State) : State :=
  match getN s.stc.rudders n with
  | none => refuse .noRudder s
  | some r =>
    if r.state = .following ∨ r.state = .parked then refuse .notFaulted s
    else if boundDead .angle (some n) s then refuse .sensorDead s
    else okAfter (retryRudder n) s

/-- Meaning of RUDDER_RETRY (R79). -/
def execRudderRetry (t : Nat) (rudder : Byte) (s : State) : Host.Outcome State Fault Refusal :=
  .next (inService (retryAnswer rudder.toNat) (setClock t s))

end Sys2Proof.Machine
end

