-- ==== Sys2Proof/Machine/Cascade.lean ====
section
/-!
DEFINITION. How one block's change reaches the others: the SHU's recompute and its delivery to the shaft
controllers (R26, R28, R46), the coupling summary and factor (R95 to R97) with their notices (R106), and the
completion check of a pull-off (R100).

A delivery can lower a set-point, a lowered set-point can complete a pull-off, and a completed pull-off changes
what the SHU was told.  No pull-off is left after that, so the chain is written out once: `recomputeShare` is a
recompute with its delivery, `completePullOff` the check, `recompute` the one followed by the other.
-/

namespace Sys2Proof.Machine

/-! ## The propeller curve and the governor (R59, R60) -/

/-- Commanded rpm for an applied set-point (R59). -/
def curveRpm (c : ShaftCfg) (p : Nat) : Nat :=
  let q := min 1024 (p * 1024 / c.rated)
  if q = 1024 then c.curve.getD 16 0
  else
    let i := q / 64
    let a := c.curve.getD i 0
    a + ((c.curve.getD (i + 1) 0 - a) * (q - 64 * i) + 32) / 64

/-- Governor duty for a commanded rpm (R60). -/
def governorDuty (c : ShaftCfg) (rpm : Nat) : Nat :=
  c.dutyIdle + (rpm - c.curve.getD 0 0) * (c.dutyMax - c.dutyIdle) / (c.curve.getD 16 0 - c.curve.getD 0 0)

/-- Commanded rpm and governor duty follow P (R59, R60). -/
def retune (c : ShaftCfg) (r : Shaft) : Shaft :=
  { r with commanded := curveRpm c r.p, duty := governorDuty c (curveRpm c r.p) }

/-! ## One shaft taking a delivery (R46, R49 to R51) -/

/-- The immediate clamp in the engaged direction (R49). -/
def clampShaft (r : Shaft) : Shaft :=
  match r.dir with
  | .ahead => { r with p := min r.p r.aAhead }
  | .astern => { r with p := min r.p r.aAstern }
  | .neutral => r
  | .dwell => r

/-- Engagement from NEUTRAL: a nonzero target and an engine that turns, outside CONFIGURING (R50). -/
def engage (mode : Mode) (r : Shaft) : Shaft :=
  if r.dir = .neutral ∧ r.target ≠ 0 ∧ engineTurns r.engine = true ∧ mode ≠ .configuring then
    match r.targetWay with
    | some w => { r with dir := dirOfWay w }
    | none => r
  else r

/-- A reversal is pending: engaged, and holding a nonzero target in the other direction (R51). -/
def reversalPending (r : Shaft) : Bool :=
  decide (r.target ≠ 0) &&
    match r.dir, r.targetWay with
    | .ahead, some .astern => true
    | .astern, some .ahead => true
    | _, _ => false

/-- Entry to DWELL: the dwell timer is started for the neutral dwell (R51, R53). -/
def enterDwell (now : Nat) (c : ShaftCfg) (r : Shaft) : Shaft :=
  { r with dir := .dwell, dwellAt := some (now + c.dwell) }

/-- Entry to DWELL when P is 0 with a reversal pending (R51). -/
def dwellIfDue (now : Nat) (c : ShaftCfg) (r : Shaft) : Shaft :=
  if r.p = 0 ∧ reversalPending r = true then enterDwell now c r else r

/-- A shaft record takes a delivery (R46): target and availabilities stored, clamp, engagement, entry to DWELL,
rpm and duty. -/
def takeDelivery (now : Nat) (mode : Mode) (c : ShaftCfg) (target : Nat) (w : Option Way) (a : Nat × Nat)
    (r : Shaft) : Shaft :=
  let stored :=
    { r with
      target := target, targetWay := if target = 0 then engagedWay r.dir else w, aAhead := a.1, aAstern := a.2 }
  retune c (dwellIfDue now c (engage mode (clampShaft stored)))

/-! ## A shaft's drive lines (R60, R61) -/

/-- Shaft `n` changed. -/
def modShaft (n : Nat) (f : Shaft → Shaft) (s : State) : State := { s with sfc := modN s.sfc n f }

/-- The two clutch lines written from a direction state, the line turned off first (R61). -/
def writeClutches (n : Nat) (d : Dir) (s : State) : State :=
  match d with
  | .ahead => writeDuty (.clutchAhead n) 1000 (writeDuty (.clutchAstern n) 0 s)
  | .astern => writeDuty (.clutchAstern n) 1000 (writeDuty (.clutchAhead n) 0 s)
  | .neutral => writeDuty (.clutchAstern n) 0 (writeDuty (.clutchAhead n) 0 s)
  | .dwell => writeDuty (.clutchAstern n) 0 (writeDuty (.clutchAhead n) 0 s)

/-- The governor line written when the duty differs from the duty last written (R60). -/
def writeGovernor (n : Nat) (s : State) : State :=
  match getN s.sfc n with
  | some r =>
    if r.dutyWritten = some r.duty then s
    else writeDuty (.governor n) r.duty (modShaft n (fun q => { q with dutyWritten := some r.duty }) s)
  | none => s

/-- The clutch lines written on a change of direction state from `old`, or when `force` asks for it (R61, R64). -/
def writeClutchesIf (n : Nat) (old : Dir) (force : Bool) (s : State) : State :=
  match getN s.sfc n with
  | some r =>
    if r.dir = old ∧ force = false then s
    else writeClutches n r.dir (modShaft n (fun q => { q with clutchWritten := true }) s)
  | none => s

/-- A shaft's changed outputs: clutches, then governor. -/
def shaftOutputs (n : Nat) (old : Dir) (force : Bool) (s : State) : State :=
  writeGovernor n (writeClutchesIf n old force s)

/-! ## The SHU's recompute and delivery (R28, R46) -/

/-- The shaft controller of shaft `n` takes its part of a delivery. -/
def deliverTo (res : ShareResult) (av : List (Nat × Nat)) (s : State) (n : Nat) : State :=
  match getN s.sfc n, getN s.cfg.shafts n, getN res.targets n, getN av n with
  | some r, some c, some t, some a =>
    shaftOutputs n r.dir false (modShaft n (takeDelivery s.now s.svp.mode c t res.targetWay a) s)
  | _, _, _, _ => s

/-- The direction states of the shafts. -/
def shaftDirs (s : State) : List Dir := s.sfc.map (·.dir)

/-- The applied set-points of the shafts. -/
def shaftPs (s : State) : List Nat := s.sfc.map (·.p)

/-- The results of a recompute kept in the SHU (R28, R33, R37). -/
def keepShare (res : ShareResult) (av : List (Nat × Nat)) (u : Shu) : Shu :=
  { u with
    cAhead := capacity .ahead av, cAstern := capacity .astern av, demand := res.demand
    demandWay := res.way, share := res.share, biased := res.biased, shortfall := res.shortfall
    deficit := res.deficit }

/-- SHORTFALL is raised on each passage of the shortfall state from no to yes (R37). -/
def raiseShortfall (was : Bool) (s : State) : State :=
  if s.shu.shortfall && !was then raiseFlag .shortfall s else s

/-- A notice of direction states to the STC, where one changed (R62). -/
def noticeDirs (old : List Dir) (s : State) : State := if shaftDirs s = old then s else stcNotice s

/-- A recompute with its delivery (R28, R46); none in CONFIGURING (R43). -/
def recomputeShare (s : State) : State :=
  if configuring s then s
  else
    let av := availabilities s
    let res := shareResult s
    let kept := raiseShortfall s.shu.shortfall { s with shu := keepShare res av s.shu }
    noticeDirs (shaftDirs s) ((numbers s.sfc.length).foldl (deliverTo res av) kept)

/-! ## Summary and coupling factor (R95, R97) -/

/-- A winch is fast: MADE or RENDERING. -/
def winchFast (w : Winch) : Bool := decide (w.state = .made ∨ w.state = .rendering)

/-- The neighbour of an alongside wire is itself fast: LIVE or STALE with summary MADE in its last STATUS
(R95). -/
def neighbourMade (n : Nat) (s : State) : Bool :=
  match peerOf n s with
  | some p =>
    match p.statusPart with
    | some st => counted p && decide (st.summary = .made)
    | none => false
  | none => false

/-- A winch counts toward the summary (R95). -/
def winchCounts (s : State) (c : WinchCfg) (w : Winch) : Bool :=
  winchFast w &&
    match c.target with
    | .tow => true
    | .station n => neighbourMade n s

/-- Factor of a counting winch (R97). -/
def winchFactor (c : WinchCfg) (w : Winch) : Nat :=
  if w.state = .rendering then 500
  else
    match w.tension with
    | none => c.unsensed
    | some t => if t ≤ c.tHi then 1000 else 1000 - 500 * (t - c.tHi) / (c.tRender - c.tHi)

/-- The counting winches with their configurations. -/
def countingWinches (s : State) : List (WinchCfg × Winch) :=
  (List.zip s.cfg.winches s.cpc.winches).filter fun cw => winchCounts s cw.1 cw.2

/-- The summary from the number of counting winches (R95). -/
def summaryOf (minMade n : Nat) : Summary := if n = 0 then .free else if minMade ≤ n then .made else .loose

/-- The summary R95 gives now. -/
def summaryNow (s : State) : Summary := summaryOf s.cfg.minMade (countingWinches s).length

/-- f_cpl as R97 gives it now: the least factor over the counting winches, 1000 when none counts. -/
def fCplNow (s : State) : Nat := ((countingWinches s).map fun cw => winchFactor cw.1 cw.2).foldr min 1000

/-! ## Notices to the SHU, and what follows (R23, R26, R96, R106) -/

/-- The SHU takes a notice: the contributing state is evaluated again; on a change the share is recomputed, the STC
notified and an ALERT placed; otherwise the share is recomputed if `force` says that another input changed
(R23, R26, R28).  `rc` is the recompute to use. -/
def shuNoticeWith (rc : State → State) (force : Bool) (s : State) : State :=
  if contributingNow s = s.shu.contributing then (if force then rc s else s)
  else placeAlert (stcNotice (rc { s with shu := { s.shu with contributing := contributingNow s } }))

/-- The CPC recomputes summary and f_cpl, notifies the SHU, and places an ALERT on a change of summary and on a
setting of the parted flag (R95 to R97, R91, R106). -/
def settleWith (rc : State → State) (partedSet : Bool) (s : State) : State :=
  let sm := summaryNow s
  let f := fCplNow s
  let told :=
    shuNoticeWith rc (decide (f ≠ s.cpc.fCpl)) { s with cpc := { s.cpc with summary := sm, fCpl := f } }
  let first := if sm = s.cpc.summary then told else placeAlert told
  if partedSet then placeAlert first else first

/-! ## Winch lines (R94) -/

/-- Winch `n` changed. -/
def modWinch (n : Nat) (f : Winch → Winch) (s : State) : State :=
  { s with cpc := { s.cpc with winches := modN s.cpc.winches n f } }

/-- Duty of the haul line (R94). -/
def haulDuty (w : Winch) : Nat :=
  match w.state with
  | .hauling => 1000
  | .made => if w.pulse then 1000 else 0
  | .slack => 0
  | .rendering => 0
  | .releasing => 0
  | .parted => 0

/-- Duty of the pay-out line (R94). -/
def payoutDuty (w : Winch) : Nat :=
  match w.state with
  | .rendering => 1000
  | .releasing => 1000
  | .slack => 0
  | .hauling => 0
  | .made => 0
  | .parted => 0

/-- The haul line written if its value differs from the value last written. -/
def updateHaul (n v : Nat) (written : Option Nat) (s : State) : State :=
  if written = some v then s
  else writeDuty (.winchHaul n) v (modWinch n (fun w => { w with haulWritten := some v }) s)

/-- The pay-out line written if its value differs from the value last written. -/
def updatePayout (n v : Nat) (written : Option Nat) (s : State) : State :=
  if written = some v then s
  else writeDuty (.winchPayout n) v (modWinch n (fun w => { w with payoutWritten := some v }) s)

/-- The two valve lines of a winch follow its state, the line turned off before the line turned on (R94). -/
def writeWinch (n : Nat) (s : State) : State :=
  match getN s.cpc.winches n with
  | none => s
  | some w =>
    if haulDuty w = 0 then
      updatePayout n (payoutDuty w) w.payoutWritten (updateHaul n (haulDuty w) w.haulWritten s)
    else updateHaul n (haulDuty w) w.haulWritten (updatePayout n (payoutDuty w) w.payoutWritten s)

/-- Winch `n` changed, and its lines with it. -/
def changeWinch (n : Nat) (f : Winch → Winch) (s : State) : State := writeWinch n (modWinch n f s)

/-! ## Completion of a pull-off (R100, R102) -/

/-- Every own shaft's applied set-point is at or below its release threshold (R100). -/
def shaftsDown (s : State) : Bool :=
  (List.zip s.cfg.shafts s.sfc).all fun cr => decide (cr.2.p ≤ cr.1.releaseThreshold)

/-- The current make-up record (R102). -/
def makeUpRecord (s : State) : List MakeUp :=
  (List.zip s.cfg.winches s.cpc.winches).map fun cw => { target := cw.1.target, made := winchFast cw.2 }

/-- A record pushed; a full stack loses its bottom record (R102). -/
def pushRecord (r : List MakeUp) (stack : List (List MakeUp)) : List (List MakeUp) :=
  (r :: stack).take Config.stackMax

/-- A MADE or RENDERING winch enters RELEASING: PAYING_OUT with a tension present, HOLDING otherwise (R93). -/
def releaseWinch (now : Nat) (c : WinchCfg) (w : Winch) : Winch :=
  if winchFast w then
    match w.tension with
    | some _ =>
      { w with state := .releasing, phase := some .payingOut, pulse := false, timerAt := some (now + c.releaseWait) }
    | none =>
      { w with state := .releasing, phase := some .holding, pulse := false, timerAt := some (now + c.releaseHold) }
  else w

/-- Winch `n` released, with its lines. -/
def releaseOne (s : State) (n : Nat) : State :=
  match getN s.cfg.winches n with
  | some c => changeWinch n (releaseWinch s.now c) s
  | none => s

/-- The last coupling outcome set, with the station time at which it is set (R105, R188). -/
def setOutcome (o : CouplingOutcome) (s : State) : State :=
  { s with cpc := { s.cpc with outcome := o, outcomeAt := s.stationTime } }

/-- The make-up record pushed if it shows at least one winch as made (R100 step 1). -/
def pushMakeUp (s : State) : State :=
  if (makeUpRecord s).any (·.made) then
    { s with cpc := { s.cpc with stack := pushRecord (makeUpRecord s) s.cpc.stack } }
  else s

/-- The pull-off completes (R100): record pushed, made winches RELEASING, outcome RELEASED, summary and factor
settled. -/
def finishPullOff (s : State) : State :=
  let released := (numbers s.cpc.winches.length).foldl releaseOne (pushMakeUp s)
  settleWith recomputeShare false
    (setOutcome .released { released with cpc := { released.cpc with pullOff := none } })

/-- The completion check (R100). -/
def completePullOff (s : State) : State :=
  if s.cpc.pullOff.isSome && shaftsDown s then finishPullOff s else s

/-- A notice of applied set-points to the CPC, where one changed (R62, R100). -/
def noticePs (old : List Nat) (s : State) : State := if shaftPs s = old then s else completePullOff s

/-- A recompute of the share with all that its delivery brings about (R28, R46, R100). -/
def recompute (s : State) : State := noticePs (shaftPs s) (recomputeShare s)

/-- A notice to the SHU; `force` where an input of the share changed besides the contributing conditions. -/
def shuNotice (force : Bool) (s : State) : State := shuNoticeWith recompute force s

/-- The CPC settles after a change of its own (R95 to R97, R106). -/
def settle (partedSet : Bool) (s : State) : State := settleWith recompute partedSet s

end Sys2Proof.Machine
end

