-- ==== Sys2Proof/Machine/Books.lean ====
section
/-!
DEFINITION. The books of the FAU that other blocks' events reach (chapter 6): contents, the journal, the own and
convoy totals, and whether an engine's burn is being estimated.
-/

namespace Sys2Proof.Machine

/-! ## Contents (R109, R111) -/

/-- Content: the raw balance clamped to 0..capacity (R111). -/
def contentOf (c : TankCfg) (t : Tank) : Nat := (clampInt 0 c.capacity t.raw).toNat

/-- Imbalance: raw balance minus content (R109). -/
def imbalanceOf (c : TankCfg) (t : Tank) : Int := t.raw - contentOf c t

/-- Content of tank `n`; 0 for a tank that is not configured. -/
def content (n : Nat) (s : State) : Nat :=
  match getN s.cfg.tanks n, getN s.fau.tanks n with
  | some c, some t => contentOf c t
  | _, _ => 0

/-- Tank `n` changed. -/
def modTank (n : Nat) (f : Tank → Tank) (s : State) : State :=
  { s with fau := { s.fau with tanks := modN s.fau.tanks n f } }

/-- Engine burn record `n` changed. -/
def modBurn (n : Nat) (f : Burn → Burn) (s : State) : State :=
  { s with fau := { s.fau with burns := modN s.fau.burns n f } }

/-- A balance held in 48 bits; outside them the spec states no result (Config.rawOverflow). -/
def hold48 (x : Int) : Int := if -(2 ^ 47) ≤ x ∧ x < 2 ^ 47 then x else (Config.rawOverflow x).toInt

/-- Band of a DAY tank from its content (R112). -/
def bandOf (c : TankCfg) (v : Nat) : Band :=
  if c.reserve ≤ v then .normal else if v ≤ c.cutoff then .cutoff else .reserve

/-! ## The journal (R131) -/

/-- The journal and next serial into which the next entry is written: emptied, from serial 1, when the next serial
would pass the largest (R131). -/
def journalRoom (f : Fau) : List Entry × Nat :=
  if Config.serialMax < f.nextSerial then ([], 1) else (f.journal, f.nextSerial)

/-- A journal with one entry more; a full journal loses its oldest (R131). -/
def appendEntry (e : Entry) (j : List Entry) : List Entry :=
  (if Config.journalMax ≤ j.length then j.drop 1 else j) ++ [e]

/-- An entry is written with the next serial, which then rises by one (R131). -/
def writeEntry (mk : Nat → Nat → Entry) (s : State) : State :=
  let room := journalRoom s.fau
  { s with
    fau :=
      { s.fau with
        journal := appendEntry (mk room.2 s.stationTime) room.1, nextSerial := room.2 + 1 } }

/-! ## Totals (R113, R117, R134) -/

/-- Own aboard total in whole litres (R113). -/
def ownAboard (s : State) : Nat :=
  ((List.zip s.cfg.tanks s.fau.tanks).map fun ct => contentOf ct.1 ct.2).sum / 1000

/-- Own burn rate (R117). -/
def ownBurn (s : State) : Nat := (s.fau.burns.map (·.lastRate)).sum

/-- The fuel parts of the entries with whether each is LOST. -/
def fuelParts (s : State) : List (FuelPart × Bool) :=
  s.cvu.peers.filterMap fun p =>
    match p.fuelPart with
    | some f => some (f, decide (p.state = .lost))
    | none => none

/-- Endurance in tenths of an hour, saturating (R134). -/
def enduranceOf (aboard burn : Nat) : Nat := if burn = 0 then 65535 else sat16 (aboard * 100 / burn)

/-- Own and convoy totals follow tanks, rates and peer fuel parts (R113, R117, R134). -/
def fuelTotals (s : State) : State :=
  let a := ownAboard s
  let b := ownBurn s
  let ca := a + ((fuelParts s).map fun f => f.1.aboard).sum
  let cb := b + ((fuelParts s).map fun f => f.1.burn).sum
  { s with
    fau :=
      { s.fau with
        aboard := a, burn := b, convoyAboard := ca, convoyBurn := cb, endurance := enduranceOf ca cb
        lostIncluded := ((fuelParts s).filter (·.2)).length } }

/-! ## Estimating (R118) -/

/-- The engine of shaft `n` runs: RUNNING or LIMITED. -/
def engineRuns (n : Nat) (s : State) : Bool :=
  match getN s.sfc n with
  | some r => engineTurns r.engine
  | none => false

/-- A burn record after a notice of channel health or engine state: estimating while the flow channel is DEAD and
the engine runs; the last rate is 0 where the channel is DEAD and the engine does not run (R118). -/
def estimateBurn (dead runs : Bool) (b : Burn) : Burn :=
  { b with estimating := dead && runs, lastRate := if dead && !runs then 0 else b.lastRate }

/-- Estimating passes from no to yes (R118). -/
def startsEstimating (n : Nat) (s : State) : Bool :=
  match getN s.fau.burns n with
  | some b => !b.estimating && boundDead .flow (some n) s && engineRuns n s
  | none => false

/-- The FAU takes a notice of the flow channel's health or of the engine state of shaft `n`: METER_FAULT on each
passage of estimating from no to yes (R118). -/
def estimateNotice (n : Nat) (s : State) : State :=
  let s1 := if startsEstimating n s then raiseFlag .meterFault s else s
  fuelTotals (modBurn n (estimateBurn (boundDead .flow (some n) s) (engineRuns n s)) s1)

end Sys2Proof.Machine
end

