-- ==== Sys2Proof/Machine/Shafts.lean ====
section
/-!
DEFINITION. The shaft controllers (chapter 3): engine state, disengagement, rpm results, the ramp, and the
meanings of DWELL_EXPIRY and DEVIATION_EXPIRY.
-/

namespace Sys2Proof.Machine

/-! ## What a changed shaft hands on (R62) -/

/-- After a shaft controller's own handling: a changed direction state to the STC, a changed set-point to the
CPC (R62).  Where the engine state changed too, these come before the notice to the SHU and the FAU: the model's choice of
an order R58 and R62 do not give (notes/assumptions/8.md). -/
def handOn (dirs : List Dir) (ps : List Nat) (s : State) : State := noticePs ps (noticeDirs dirs s)

/-- Shaft `n` changed by its controller: record, drive lines, and what it hands on. -/
def actShaft (n : Nat) (f : Shaft → Shaft) (s : State) : State :=
  match getN s.sfc n with
  | some r => handOn (shaftDirs s) (shaftPs s) (shaftOutputs n r.dir false (modShaft n f s))
  | none => s

/-! ## Engine state (R53, R55 to R58) -/

/-- Disengagement: P 0, DWELL with its timer started, for an engaged shaft (R53). -/
def disengage (now : Nat) (c : ShaftCfg) (r : Shaft) : Shaft :=
  match r.dir with
  | .ahead => retune c (enterDwell now c { r with p := 0 })
  | .astern => retune c (enterDwell now c { r with p := 0 })
  | .neutral => r
  | .dwell => r

/-- An engine that stops or runs out of fuel: state, deviation class and timer cleared, disengagement (R53, R55,
R57). -/
def haltEngine (now : Nat) (c : ShaftCfg) (e : Engine) (r : Shaft) : Shaft :=
  disengage now c { r with engine := e, deviation := none, deviationAt := none }

/-- A change of the engine state of shaft `n` is notified to the SHU, which recomputes, and to the FAU (R58), after what
the controller itself hands on (notes/assumptions/8.md). -/
def noticeEngine (n : Nat) (s : State) : State := estimateNotice n (recompute s)

/-- The engine of shaft `n` stops: ENGINE_FAULT if the target or P is nonzero at that moment (R55). -/
def stopEngine (n : Nat) (s : State) : State :=
  match getN s.sfc n, getN s.cfg.shafts n with
  | some r, some c =>
    let s1 := if r.target ≠ 0 ∨ r.p ≠ 0 then raiseFlag .engineFault s else s
    noticeEngine n (actShaft n (haltEngine s.now c .stopped) s1)
  | _, _ => s

/-- The notice that the rpm channel of shaft `n` has become DEAD (R55). -/
def rpmDead (n : Nat) (s : State) : State := if engineRuns n s then stopEngine n s else s

/-- The FAU's report of its day tank's band to the controller of shaft `n` (R57). -/
def bandReport (n : Nat) (b : Band) (s : State) : State :=
  match getN s.sfc n, getN s.cfg.shafts n with
  | some r, some c =>
    match b with
    | .cutoff =>
      if r.engine = .fuelOut then s else noticeEngine n (actShaft n (haltEngine s.now c .fuelOut) s)
    | .normal =>
      if r.engine = .fuelOut then noticeEngine n (modShaft n (fun q => { q with engine := .stopped }) s) else s
    | .reserve => s
  | _, _ => s

/-! ## Rpm results (R54 to R56) -/

/-- Rpm figure of a result (R54). -/
def rpmOf (count elapsed pulses : Nat) : Nat := min 65535 (count * 60000000 / (elapsed * pulses))

/-- Deviation class of a figure against the commanded rpm in force (R56). -/
def classOf (tolerance commanded rpm : Nat) : Deviation := if rpm + tolerance < commanded then .low else .within

/-- The class held and its timer after a figure: a changed class is held and starts the timer (R56). -/
def classify (now : Nat) (c : ShaftCfg) (rpm : Nat) (r : Shaft) : Shaft :=
  let k := classOf c.tolerance r.commanded rpm
  if r.deviation = some k then r else { r with deviation := some k, deviationAt := some (now + c.deviationTime) }

/-- An engine found running: RUNNING, with its class set from the same figure (R55). -/
def startEngine (now : Nat) (c : ShaftCfg) (rpm : Nat) (r : Shaft) : Shaft :=
  classify now c rpm { r with engine := .running, deviation := none, deviationAt := none }

/-- A figure judged by the engine state (R55 to R57). -/
def judgeRpm (n : Nat) (c : ShaftCfg) (rpm : Nat) (e : Engine) (s : State) : State :=
  match e with
  | .fuelOut => s
  | .stopped => if c.stopRpm ≤ rpm then noticeEngine n (modShaft n (startEngine s.now c rpm) s) else s
  | .running => if rpm < c.stopRpm then stopEngine n s else modShaft n (classify s.now c rpm) s
  | .limited => if rpm < c.stopRpm then stopEngine n s else modShaft n (classify s.now c rpm) s

/-- An rpm result with at least one counted interval (R54). -/
def rpmResult (n count elapsed : Nat) (s : State) : State :=
  match getN s.sfc n, getN s.cfg.shafts n with
  | some r, some c =>
    let rpm := rpmOf count elapsed c.pulsesPerRev
    judgeRpm n c rpm r.engine (modShaft n (fun q => { q with lastRpm := some (rpm, s.now) }) s)
  | _, _ => s

/-- The engine state after the deviation timer's expiry (R56). -/
def afterDeviation (d : Option Deviation) (e : Engine) : Engine :=
  match d, e with
  | some .low, .running => .limited
  | some .within, .limited => .running
  | _, e => e

/-- The deviation timer of shaft `n` expires (R56). -/
def deviationExpired (n : Nat) (r : Shaft) (s : State) : State :=
  let e := afterDeviation r.deviation r.engine
  let s1 := modShaft n (fun q => { q with engine := e, deviationAt := none }) s
  if e = r.engine then s1 else noticeEngine n s1

/-- Meaning of DEVIATION_EXPIRY (R56): acts when the shaft's deviation timer has expired. -/
def execDeviationExpiry (t shaft : Nat) (s0 : State) : Host.Outcome State Fault Refusal :=
  let s := setClock t s0
  match getN s.sfc shaft with
  | some r => if due s.now r.deviationAt then .next (deviationExpired shaft r s) else .next s
  | none => .next s

/-! ## Dwell (R52) -/

/-- The direction state at the end of a dwell (R52). -/
def dwellEnd (r : Shaft) : Dir :=
  if r.target ≠ 0 ∧ engineTurns r.engine = true then
    match r.targetWay with
    | some w => dirOfWay w
    | none => .neutral
  else .neutral

/-- Meaning of DWELL_EXPIRY (R52): acts when the shaft's dwell timer has expired. -/
def execDwellExpiry (t shaft : Nat) (s0 : State) : Host.Outcome State Fault Refusal :=
  let s := setClock t s0
  match getN s.sfc shaft with
  | some r =>
    if due s.now r.dwellAt then .next (actShaft shaft (fun q => { q with dir := dwellEnd q, dwellAt := none }) s)
    else .next s
  | none => .next s

/-! ## The ramp (R48) -/

/-- Emergency applies: parted flag, mode SILENT, or an engine STOPPED or FUEL_OUT (R48). -/
def emergencyNow (s : State) (r : Shaft) : Bool :=
  s.cpc.parted || decide (s.svp.mode = .silent) || !engineTurns r.engine

/-- A limit per step: rate × step / 1000, at least 1 kW (R48). -/
def stepLimit (rate step : Nat) : Nat := max 1 (rate * step / 1000)

/-- The goal of a control step (R48). -/
def goalOf (r : Shaft) : Nat :=
  match r.dir with
  | .ahead => if reversalPending r then 0 else r.target
  | .astern => if reversalPending r then 0 else r.target
  | .neutral => 0
  | .dwell => 0

/-- P moved toward a goal by no more than the limits (R48). -/
def rampTo (goal up down p : Nat) : Nat := if p < goal then min goal (p + up) else max goal (p - down)

/-- Steps 1 to 3 of a control step on the shaft record: emergency, ramp, entry to DWELL, and an engagement whose
three conditions hold (R47, R48, R50, R51); then rpm and duty. -/
def stepShaft (s : State) (c : ShaftCfg) (r : Shaft) : Shaft :=
  let e := emergencyNow s r
  let down := stepLimit (if e then c.rampEmergency else c.rampDown) s.cfg.controlStep
  let p := rampTo (goalOf r) (stepLimit c.rampUp s.cfg.controlStep) down r.p
  retune c (engage s.svp.mode (dwellIfDue s.now c
    { r with p := p, emergency := e, stepAt := restartTimer s.cfg.controlStep r.stepAt }))

/-- Steps 1 to 4 of a control step of shaft `n`, with the notices of R62.  The clutch lines are written at the
first control step after START (R64). -/
def rampStep (n : Nat) (c : ShaftCfg) (r : Shaft) (s : State) : State :=
  handOn (shaftDirs s) (shaftPs s) (shaftOutputs n r.dir (!r.clutchWritten) (modShaft n (stepShaft s c) s))

end Sys2Proof.Machine
end

