-- ==== Sys2Proof/Machine/Fuel.lean ====
section
/-!
DEFINITION. Fuel accounting (chapter 6): bookings and their consequences, burn, transfers and top-up, bunkering,
soundings, REBASE; the meanings of the fuel requests, of FUEL_PERIOD_EXPIRY, and of CONTROL_STEP, whose last part
is the hand-on to the FAU.
-/

namespace Sys2Proof.Machine

/-! ## Starting and stopping a transfer (R120, R122, R125) -/

/-- The station has transfer capability: an XFER_METER channel and a TRANSFER_PUMP line (R110). -/
def canTransfer (s : State) : Bool := (chanOf .xferMeter none s).isSome && (lineOf .transferPump s.cfg).isSome

/-- Movement in flight of tank `n`. -/
def movementOf (n : Nat) (s : State) : Movement :=
  match getN s.fau.tanks n with
  | some t => t.movement
  | none => .none

/-- Cutoff of tank `n`. -/
def cutoffOf (n : Nat) (s : State) : Nat :=
  match getN s.cfg.tanks n with
  | some c => c.cutoff
  | none => 0

/-- Movement in flight of tank `n` set. -/
def setMovement (m : Movement) (n : Nat) (s : State) : State := modTank n (fun t => { t with movement := m }) s

/-- A transfer starts: record, movements in flight, pump on (R120). -/
def startTransfer (o : TransferOrigin) (src dst : Nat) (req : Option Nat) (s : State) : State :=
  writeDuty .transferPump 1000 (setMovement .transferDst dst (setMovement .transferSrc src
    { s with
      fau :=
        { s.fau with
          transfer :=
            { running := true, origin := some o, source := src, destination := dst, requested := req, moved := 0
              residue := 0 } } }))

/-- A DAY tank asks for top-up (R125). -/
def asksTopUp (s : State) (n : Nat) : Bool :=
  match getN s.cfg.tanks n, getN s.fau.tanks n with
  | some c, some t =>
    match c.source with
    | some src =>
      decide (c.role = .day) && decide (contentOf c t < c.low) && !t.hold && decide (t.movement = .none) &&
        decide (movementOf src s = .none) && decide (cutoffOf src s < content src s)
    | none => false
  | _, _ => false

/-- The top-up check (R125): the lowest-numbered DAY tank that asks is served. -/
def topUp (s : State) : State :=
  if canTransfer s && !s.fau.transfer.running then
    match (numbers s.fau.tanks.length).find? (asksTopUp s) with
    | some n =>
      match getN s.cfg.tanks n with
      | some c =>
        match c.source with
        | some src => startTransfer .auto src n none s
        | none => s
      | none => s
    | none => s
  else s

/-- The top-up hold of an AUTO transfer's destination at its stop: on after ABORTED or METER_DEAD below the low mark,
off at or above it (R122 step 5, R125). -/
def holdAfter (reason : EndReason) (below : Bool) (hold : Bool) : Bool :=
  if below then (if reason = .aborted ∨ reason = .meterDead then true else hold) else false

/-- The destination's hold set or cleared at the stop of an AUTO transfer. -/
def settleHold (reason : EndReason) (tr : Transfer) (s : State) : State :=
  match tr.origin, getN s.cfg.tanks tr.destination with
  | some .auto, some c =>
    modTank tr.destination
      (fun t => { t with hold := holdAfter reason (decide (contentOf c t < c.low)) t.hold }) s
  | _, _ => s

/-- METER_FAULT where the reason is METER_DEAD. -/
def faultIfDead (reason : EndReason) (s : State) : State :=
  if reason = .meterDead then raiseFlag .meterFault s else s

/-- The running transfer stops (R122). -/
def stopTransfer (reason : EndReason) (s : State) : State :=
  let tr := s.fau.transfer
  let idle :=
    setMovement .none tr.destination (setMovement .none tr.source
      (writeDuty .transferPump 0
        { s with fau := { s.fau with transfer := { tr with running := false, residue := 0 } } }))
  let noted :=
    writeEntry (fun serial time =>
      { serial := serial, time := time, kind := .transfer, tank := tr.source, other := some tr.destination
        volume := tr.moved, reason := some reason }) idle
  topUp (settleHold reason tr (faultIfDead reason noted))

/-- The first stop condition that holds at a check (R122). -/
def stopReason (s : State) : Option EndReason :=
  let tr := s.fau.transfer
  let done := match tr.requested with
    | some v => decide (v ≤ tr.moved)
    | none => false
  let high := match tr.origin, getN s.cfg.tanks tr.destination with
    | some .auto, some c => decide (c.high ≤ content tr.destination s)
    | some .host, some c => tr.requested.isNone && decide (c.capacity ≤ content tr.destination s)
    | _, _ => false
  if done then some .done
  else if high then some .destHigh
  else if content tr.source s ≤ cutoffOf tr.source s then some .sourceLow
  else none

/-- The stop checks after a booking to tank `n` (R111 step 3, R122). -/
def stopCheck (n : Nat) (s : State) : State :=
  if s.fau.transfer.running && decide (s.fau.transfer.source = n ∨ s.fau.transfer.destination = n) then
    match stopReason s with
    | some reason => stopTransfer reason s
    | none => s
  else s

/-! ## Bookings and their consequences (R111 to R113) -/

/-- The reports of a changed band to the shaft controllers and to the SHU (R112). -/
def reportBand (n : Nat) (b : Band) (s : State) : State :=
  (numbers s.sfc.length).foldl
    (fun q i =>
      match getN q.cfg.shafts i with
      | some c => if c.dayTank = n then bandReport i b q else q
      | none => q) s

/-- The band of a DAY tank follows its content (R112). -/
def bandStep (n : Nat) (s : State) : State :=
  match getN s.cfg.tanks n, getN s.fau.tanks n with
  | some c, some t =>
    let b := bandOf c (contentOf c t)
    if c.role = .storage ∨ b = t.band then s
    else
      let s1 := modTank n (fun q => { q with band := b }) s
      recompute (reportBand n b (if t.band = .normal then raiseFlag .fuelReserve s1 else s1))
  | _, _ => s

/-- Own aboard total and φ; each φ that differs from the last handed on goes to the SHU (R113). -/
def weightStep (s : State) : State :=
  let s1 := fuelTotals s
  let phi := fuelWeight s1.fau.aboard s.cfg.balance s.cfg.reserveLevel
  if phi = s.shu.phi then s1 else recompute { s1 with shu := { s1.shu with phi := phi } }

/-- A top-up hold is cleared when the content reaches or passes the low mark (R125). -/
def clearHold (n : Nat) (s : State) : State :=
  match getN s.cfg.tanks n with
  | some c => modTank n (fun t => { t with hold := t.hold && decide (contentOf c t < c.low) }) s
  | none => s

/-- What the FAU does after a booking to tank `n`, in the order of R111. -/
def consequences (n : Nat) (s : State) : State := topUp (stopCheck n (clearHold n (weightStep (bandStep n s))))

/-- A raw balance changed by a signed volume. -/
def addRaw (n : Nat) (v : Int) (s : State) : State := modTank n (fun t => { t with raw := hold48 (t.raw + v) }) s

/-- One booking taken whole (R111). -/
def book (n : Nat) (v : Int) (s : State) : State := consequences n (addRaw n v s)

/-! ## Burn (R115 to R119) -/

/-- Whole millilitres of a residue with a volume added, in µL (R115). -/
def wholeMl (residue v : Nat) : Nat := (residue + v) / 1000

/-- What stays in the residue (R115). -/
def leftover (residue v : Nat) : Nat := (residue + v) % 1000

/-- One BURN entry and what it takes from since-booked and the estimated part (R116). -/
def burnEntry (n : Nat) (c : ShaftCfg) (s : State) : State :=
  match getN s.fau.burns n with
  | some b =>
    modBurn n
      (fun q =>
        { q with
          sinceBooked := q.sinceBooked - c.quantum * 1000, estimated := q.estimated - c.quantum * 1000 })
      (writeEntry (fun serial time =>
        { serial := serial, time := time, kind := .burn, tank := c.dayTank, volume := (c.quantum * 1000 : Nat)
          estimated := decide (0 < b.estimated) }) s)
  | none => s

/-- BURN entries while since-booked is at least Q × 1000 mL (R116). -/
def burnEntries (n : Nat) (c : ShaftCfg) (s : State) : State :=
  match getN s.fau.burns n with
  | some b => Nat.repeat (burnEntry n c) (b.sinceBooked / (c.quantum * 1000)) s
  | none => s

/-- A volume in µL burned by engine `n` is booked (R115 steps 2 to 5); estimated millilitres are noted (R119). -/
def bookBurn (n v : Nat) (c : ShaftCfg) (isEstimate : Bool) (s : State) : State :=
  match getN s.fau.burns n with
  | some b =>
    let ml := wholeMl b.residue v
    let taken := book c.dayTank (-(ml : Int)) (modBurn n (fun q => { q with residue := leftover q.residue v }) s)
    burnEntries n c
      (modBurn n
        (fun q =>
          { q with
            sinceBooked := q.sinceBooked + ml
            estimated := if isEstimate then q.estimated + ml else q.estimated }) taken)
  | none => s

/-- The last rate of engine `n` set, and the totals with it (R117). -/
def setRate (n rate : Nat) (s : State) : State := fuelTotals (modBurn n (fun b => { b with lastRate := rate }) s)

/-- Rate of a flow result, dL/h (R117). -/
def flowRate (count k elapsed : Nat) : Nat := count * k * 36000 / elapsed

/-- A flow result with at least one counted interval (R115, R117, R118). -/
def flowResult (n count elapsed : Nat) (s : State) : State :=
  match getN s.cfg.shafts n with
  | some c =>
    bookBurn n (count * c.kFlow) c false (setRate n (flowRate count c.kFlow elapsed) (estimateNotice n s))
  | none => s

/-- A NO_PULSE result from a flow channel: the last rate becomes 0 unless the channel is DEAD (R117). -/
def flowNoPulse (n : Nat) (h : Health) (s : State) : State := if h = .dead then s else setRate n 0 s

/-- A hand-on from the shaft controller of shaft `n` at its control step, used while estimating (R62, R119).  The last rate
is set before the booking, so that a booking which takes the tank to CUTOFF and ends the estimating leaves it 0 (R118):
the model's choice of an order R119 does not give (notes/assumptions/32.md). -/
def burnHandOn (n : Nat) (s : State) : State :=
  match getN s.cfg.shafts n, getN s.sfc n, getN s.fau.burns n with
  | some c, some r, some b =>
    if b.estimating && engineTurns r.engine then
      bookBurn n (r.p * c.specific * s.cfg.controlStep / 3600) c true (setRate n (r.p * c.specific / 100) s)
    else s
  | _, _, _ => s

/-- Meaning of CONTROL_STEP (R47): acts when the shaft's control-step timer has expired. -/
def execControlStep (t shaft : Nat) (s0 : State) : Host.Outcome State Fault Refusal :=
  let s := setClock t s0
  match getN s.sfc shaft, getN s.cfg.shafts shaft with
  | some r, some c =>
    if due s.now r.stepAt then .next (burnHandOn shaft (rampStep shaft c r s)) else .next s
  | _, _ => .next s

/-! ## Transfer meter (R121, R122) -/

/-- A transfer meter result with at least one counted interval (R121): both raw balances change before either
tank's consequences; dropped while IDLE. -/
def transferResult (count : Nat) (s : State) : State :=
  let tr := s.fau.transfer
  if tr.running then
    let v := count * s.cfg.kx
    let ml := wholeMl tr.residue v
    let moved :=
      { s with
        fau := { s.fau with transfer := { tr with residue := leftover tr.residue v, moved := tr.moved + ml } } }
    consequences tr.destination
      (consequences tr.source (addRaw tr.destination ml (addRaw tr.source (-(ml : Int)) moved)))
  else s

/-- The DEAD notice of the transfer meter, or a NO_PULSE result from it while DEAD (R122). -/
def transferMeterDead (s : State) : State := if s.fau.transfer.running then stopTransfer .meterDead s else s

/-- A NO_PULSE result from the transfer meter (R121). -/
def transferNoPulse (h : Health) (s : State) : State := if h = .dead then transferMeterDead s else s

/-! ## Bunkering (R126, R127) -/

/-- A bunker meter result with at least one counted interval (R127); dropped while IDLE. -/
def bunkerResult (count : Nat) (s : State) : State :=
  let b := s.fau.bunker
  if b.running then
    let v := count * s.cfg.kb
    let ml := wholeMl b.residue v
    book b.tank ml
      { s with fau := { s.fau with bunker := { b with residue := leftover b.residue v, volume := b.volume + ml } } }
  else s

/-- Bunkering ends (R127). -/
def endBunker (reason : EndReason) (s : State) : State :=
  let b := s.fau.bunker
  let idle := setMovement .none b.tank { s with fau := { s.fau with bunker := { b with running := false, residue := 0 } } }
  let noted :=
    writeEntry (fun serial time =>
      { serial := serial, time := time, kind := .bunker, tank := b.tank, volume := b.volume
        reason := some reason }) idle
  topUp (faultIfDead reason noted)

/-- The DEAD notice of the bunker meter, or a NO_PULSE result from it while DEAD (R127). -/
def bunkerMeterDead (s : State) : State := if s.fau.bunker.running then endBunker .meterDead s else s

/-- A NO_PULSE result from the bunker meter (R127). -/
def bunkerNoPulse (h : Health) (s : State) : State := if h = .dead then bunkerMeterDead s else s

/-! ## Soundings (R128, R129) -/

/-- Frequency of a load or level result, centi-hertz (R84, R128). -/
def centiHertz (count elapsed : Nat) : Nat := count * 100000000 / elapsed

/-- Sounding from a frequency (R128). -/
def soundingOf (c : TankCfg) (f : Nat) : Nat :=
  (clampNat c.fEmpty c.fFull f - c.fEmpty) * c.capacity / (c.fFull - c.fEmpty)

/-- The sounding is out of tolerance (R129). -/
def outOfTolerance (c : TankCfg) (sounding : Nat) (v : Nat) : Bool :=
  decide (c.tolerance < ((sounding : Int) - v).natAbs)

/-- The discrepancy check of R129 for tank `n`. -/
def discrepancyCheck (n sounding : Nat) (c : TankCfg) (t : Tank) (s : State) : State :=
  let v := contentOf c t
  if t.movement ≠ .none then s
  else if outOfTolerance c sounding v then
    let run := sat16 (t.run + 1)
    if 3 ≤ run ∧ t.reported = false then
      modTank n (fun q => { q with run := run, reported := true })
        (writeEntry (fun serial time =>
          { serial := serial, time := time, kind := .discrepancy, tank := n, volume := (sounding : Int) - v })
          (raiseFlag .discrepancy s))
    else modTank n (fun q => { q with run := run }) s
  else modTank n (fun q => { q with run := 0, reported := false }) s

/-- A level result with at least one counted interval (R128): the sounding is stored with the station time of the result. -/
def levelResult (n count elapsed : Nat) (s : State) : State :=
  match getN s.cfg.tanks n, getN s.fau.tanks n with
  | some c, some t =>
    let v := soundingOf c (centiHertz count elapsed)
    discrepancyCheck n v c t (modTank n (fun q => { q with sounding := some (v, s.stationTime) }) s)
  | _, _ => s

/-! ## Requests (R123, R124, R126, R127, R130) -/

/-- Tank number `n` is configured. -/
def tankConfigured (n : Nat) (s : State) : Bool := (getN s.cfg.tanks n).isSome

/-- Capacity of tank `n`. -/
def capacityOf (n : Nat) (s : State) : Nat :=
  match getN s.cfg.tanks n with
  | some c => c.capacity
  | none => 0

/-- A requested volume: 0 is absent, and one above the largest is taken as the largest (R123). -/
def requestedOf (v : Nat) : Option Nat := if v = 0 then none else some (min v Config.requestMax)

/-- TRANSFER_START answered by the first row of R123's table that applies. -/
def transferAnswer (src dst : Nat) (req : Option Nat) (s : State) : State :=
  if !tankConfigured src s || !tankConfigured dst s || decide (src = dst) then refuse .noTank s
  else if !canTransfer s then refuse .noPump s
  else if s.fau.transfer.running then replyStatus .busy s
  else if movementOf src s ≠ .none ∨ movementOf dst s ≠ .none then replyStatus .conflict s
  else if content src s ≤ cutoffOf src s then refuse .sourceLow s
  else if req.isNone && decide (capacityOf dst s ≤ content dst s) then refuse .destFull s
  else okAfter (startTransfer .host src dst req) s

/-- Meaning of TRANSFER_START (R123). -/
def execTransferStart (t : Nat) (source destination : Byte) (volume : BitVec 32) (s : State) :
    Host.Outcome State Fault Refusal :=
  .next (inService (transferAnswer source.toNat destination.toNat (requestedOf volume.toNat)) (setClock t s))

/-- TRANSFER_ABORT answered (R124). -/
def abortAnswer (s : State) : State :=
  if s.fau.transfer.running then okAfter (stopTransfer .aborted) s else refuse .noTransfer s

/-- Meaning of TRANSFER_ABORT (R124). -/
def execTransferAbort (t : Nat) (s : State) : Host.Outcome State Fault Refusal :=
  .next (inService abortAnswer (setClock t s))

/-- Bunkering starts into a tank (R126). -/
def startBunker (n : Nat) (s : State) : State :=
  setMovement .bunker n
    { s with fau := { s.fau with bunker := { running := true, tank := n, volume := 0, residue := 0 } } }

/-- BUNKER_START answered by the first row of R126's table that applies. -/
def bunkerAnswer (n : Nat) (s : State) : State :=
  if !tankConfigured n s then refuse .noTank s
  else if (chanOf .bunkerMeter none s).isNone then refuse .noMeter s
  else if s.fau.bunker.running then replyStatus .busy s
  else if movementOf n s ≠ .none then replyStatus .conflict s
  else okAfter (startBunker n) s

/-- Meaning of BUNKER_START (R126). -/
def execBunkerStart (t : Nat) (tank : Byte) (s : State) : Host.Outcome State Fault Refusal :=
  .next (inService (bunkerAnswer tank.toNat) (setClock t s))

/-- BUNKER_STOP answered (R127). -/
def bunkerStopAnswer (s : State) : State :=
  if s.fau.bunker.running then okAfter (endBunker .stopped) s else refuse .noBunker s

/-- Meaning of BUNKER_STOP (R127). -/
def execBunkerStop (t : Nat) (s : State) : Host.Outcome State Fault Refusal :=
  .next (inService bunkerStopAnswer (setClock t s))

/-- Tank `n` rebased to a sounding (R130): journal entry, run count and mark cleared, then the booking's
consequences. -/
def rebaseTank (n : Nat) (sounding : Nat) (t : Tank) (s : State) : State :=
  consequences n
    (modTank n (fun q => { q with raw := sounding, run := 0, reported := false })
      (writeEntry (fun serial time =>
        { serial := serial, time := time, kind := .rebase, tank := n, volume := (sounding : Int) - t.raw }) s))

/-- REBASE answered by the first row of R130's table that applies. -/
def rebaseAnswer (n : Nat) (s : State) : State :=
  match getN s.cfg.tanks n, getN s.fau.tanks n with
  | some _, some t =>
    match t.sounding with
    | none => refuse .noSounding s
    | some v => if t.movement ≠ .none then replyStatus .conflict s else okAfter (rebaseTank n v.1 t) s
  | _, _ => refuse .noTank s

/-- Meaning of REBASE (R130). -/
def execRebase (t : Nat) (tank : Byte) (s : State) : Host.Outcome State Fault Refusal :=
  .next (inService (rebaseAnswer tank.toNat) (setClock t s))

/-! ## FUEL frames (R133) -/

/-- Meaning of FUEL_PERIOD_EXPIRY (R133): at an expiry a FUEL is placed in JOINING or RUNNING and the timer
restarted. -/
def execFuelPeriodExpiry (t : Nat) (s0 : State) : Host.Outcome State Fault Refusal :=
  let s := setClock t s0
  if due s.now s.fau.fuelAt then
    .next (placeFuel
      { s with fau := { s.fau with fuelAt := restartTimer (s.cfg.fuelPeriod * 1000) s.fau.fuelAt } })
  else .next s

end Sys2Proof.Machine
end

