-- ==== Sys2Proof/Machine/Couplings.lean ====
section
/-!
DEFINITION. The coupling controller (chapter 5): load results and what they judge, DEAD notices, parting and its
acknowledgement, haul requests, release requests and withdrawals, remakes; the meanings of CLEAR_PARTED, of the
winch timers and of the pull-off timer.
-/

namespace Sys2Proof.Machine

/-! ## Tension (R84) -/

/-- Load cell frequency: capped at 10 000 000 centi-hertz (R84). -/
def loadFrequency (count elapsed : Nat) : Nat := min 10000000 (count * 100000000 / elapsed)

/-- Tension from a frequency (R84). -/
def tensionOf (c : WinchCfg) (f : Nat) : Nat :=
  (clampInt 0 c.tFs (Int.tdiv (((f : Int) - c.f0) * c.tFs) ((c.fFs : Int) - c.f0))).toNat

/-- A load result stored: the previous tension takes the tension held before, the tension takes the figure, and the
first result after a DEAD notice clears the UNSENSED note (R84). -/
def storeTension (x : Nat) (w : Winch) : Winch :=
  { w with
    previous := w.tension, tension := some x, deadSeen := false
    note := if w.note = .unsensed then .none else w.note }

/-! ## Judging a load result (R88 to R93) -/

/-- The tension held before the result is present and at or above part arm (R91). -/
def armed (c : WinchCfg) (w : Winch) : Bool :=
  match w.previous with
  | some p => decide (c.partArm ≤ p)
  | none => false

/-- A stored result marks a MADE or RENDERING winch's wire as parted (R91). -/
def marksParted (c : WinchCfg) (x : Nat) (w : Winch) : Bool :=
  winchFast w && decide (x < c.partFloor) && armed c w

/-- A winch enters MADE or RENDERING: phase timer stopped, haul pulse off (R88). -/
def enterHeld (st : WinchState) (w : Winch) : Winch := { w with state := st, pulse := false, timerAt := none }

/-- A RELEASING winch enters HOLDING (R93). -/
def enterHolding (now : Nat) (c : WinchCfg) (w : Winch) : Winch :=
  { w with phase := some .holding, timerAt := some (now + c.releaseHold) }

/-- A stored result that does not mark the wire parted, judged by the rules of the winch's state (R88 to R90, R92,
R93). -/
def judgeLoad (now : Nat) (c : WinchCfg) (x : Nat) (w : Winch) : Winch :=
  match w.state with
  | .hauling =>
    if c.tRender ≤ x then enterHeld .rendering w else if c.tMake ≤ x then enterHeld .made w else w
  | .made =>
    if c.tRender ≤ x then enterHeld .rendering w
    else if x < c.tLo ∧ w.pulse = false then { w with pulse := true, timerAt := some (now + c.haulPulse) }
    else w
  | .rendering => if x < c.tHi then enterHeld .made w else w
  | .releasing => if w.phase = some .payingOut ∧ x < c.tSlack then enterHolding now c w else w
  | .slack => w
  | .parted => w

/-- The record of a winch whose wire has parted (R91 step 1). -/
def partWinch (w : Winch) : Winch := { w with state := .parted, pulse := false, timerAt := none }

/-- A pull-off ends without release, with its outcome (R101). -/
def endPullOff (o : CouplingOutcome) (s : State) : State :=
  if s.cpc.pullOff.isSome then setOutcome o { s with cpc := { s.cpc with pullOff := none } } else s

/-- Parted handling of winch `n` (R91). -/
def partedHandling (n : Nat) (s : State) : State :=
  let flagged := changeWinch n partWinch s
  settle (!s.cpc.parted)
    (endPullOff .parted (raiseFlag .parted { flagged with cpc := { flagged.cpc with parted := true } }))

/-- A load result with at least one counted interval (R84). -/
def loadResult (n count elapsed : Nat) (s : State) : State :=
  match getN s.cpc.winches n, getN s.cfg.winches n with
  | some w, some c =>
    let x := tensionOf c (loadFrequency count elapsed)
    let stored := modWinch n (storeTension x) s
    if marksParted c x (storeTension x w) then partedHandling n stored
    else settle false (changeWinch n (judgeLoad s.now c x) stored)
  | _, _ => s

/-! ## DEAD notices (R85) -/

/-- A winch record after the first DEAD notice of its load channel (R85). -/
def unsense (now : Nat) (c : WinchCfg) (w : Winch) : Winch :=
  let gone := { w with tension := none, previous := none, note := .unsensed, deadSeen := true }
  match w.state with
  | .rendering => enterHeld .made gone
  | .releasing => if w.phase = some .payingOut then enterHolding now c gone else gone
  | .slack => gone
  | .hauling => gone
  | .made => gone
  | .parted => gone

/-- The notice that the load channel of winch `n` has become DEAD; a further one while the tension is absent changes
nothing (R85). -/
def loadDead (n : Nat) (s : State) : State :=
  match getN s.cpc.winches n, getN s.cfg.winches n with
  | some w, some c =>
    if w.deadSeen && w.tension.isNone then s
    else settle false (raiseFlag .meterFault (changeWinch n (unsense s.now c) s))
  | _, _ => s

/-! ## Acknowledgement of a parting (R92) -/

/-- At least one winch is PARTED. -/
def anyParted (s : State) : Bool := s.cpc.winches.any fun w => decide (w.state = .parted)

/-- A PARTED winch becomes SLACK. -/
def unpart (w : Winch) : Winch := if w.state = .parted then { w with state := .slack } else w

/-- Every winch changed in number order, each with its lines. -/
def changeWinches (f : Winch → Winch) (s : State) : State :=
  (numbers s.cpc.winches.length).foldl (fun q n => changeWinch n f q) s

/-- The parting is acknowledged: every PARTED winch SLACK, parted flag cleared, SHU notified (R92).  The SHU evaluates R23
afresh: where enough other winches still count and the seven conditions hold, the station contributes again, with the
ALERT of R26; R92's last words speak of a station whose wires are all SLACK.  The model's reading
(notes/assumptions/30.md). -/
def acknowledge (s : State) : State :=
  let slack := changeWinches unpart s
  settle false { slack with cpc := { slack.cpc with parted := false } }

/-- CLEAR_PARTED answered (R92). -/
def clearPartedAnswer (s : State) : State := if anyParted s then okAfter acknowledge s else refuse .notParted s

/-- Meaning of CLEAR_PARTED (R92). -/
def execClearParted (t : Nat) (s : State) : Host.Outcome State Fault Refusal :=
  .next (inService clearPartedAnswer (setClock t s))

/-- The panel's parted-acknowledge; it does nothing when no winch is PARTED (R92). -/
def panelAcknowledge (s : State) : State := if anyParted s then acknowledge s else s

/-! ## Haul requests and remakes (R87, R103, R104) -/

/-- A SLACK winch becomes HAULING: note none, phase timer started for the haul timeout (R87). -/
def startHaul (now : Nat) (c : WinchCfg) (w : Winch) : Winch :=
  { w with state := .hauling, note := .none, timerAt := some (now + c.haulTimeout) }

/-- A haul request for winch `n` (R87). -/
def haulRequest (n : Nat) (s : State) : State :=
  match getN s.cpc.winches n, getN s.cfg.winches n with
  | some w, some c =>
    if w.state = .slack then
      if boundDead .load (some n) s then raiseFlag .meterFault s else changeWinch n (startHaul s.now c) s
    else s
  | _, _ => s

/-- The number of HAULING winches. -/
def haulingCount (s : State) : Nat := (s.cpc.winches.filter fun w => decide (w.state = .hauling)).length

/-- Haul requests to the winches named, in order, with the outcome of the remake (R103, R104). -/
def haulAll (ns : List Nat) (s : State) : State :=
  let hauled := ns.foldl (fun q n => haulRequest n q) s
  setOutcome (if haulingCount s < haulingCount hauled then .remakeStarted else .remakeNothing) hauled

/-- The winch numbers a make-up record shows as made. -/
def madeIn (r : List MakeUp) : List Nat :=
  (numbers r.length).filter fun n =>
    match getN r n with
    | some m => m.made
    | none => false

/-- A remake request from the CVU (R103). -/
def remakeOrder (s : State) : State :=
  if s.cpc.pullOff.isSome then setOutcome .remakeIgnoredPullOff s
  else
    match s.cpc.stack with
    | [] => setOutcome .stackEmpty s
    | r :: rest => settle false (haulAll (madeIn r) { s with cpc := { s.cpc with stack := rest } })

/-- The panel's remake-own (R104). -/
def remakeOwn (s : State) : State :=
  if s.cpc.pullOff.isSome then setOutcome .remakeIgnoredPullOff s
  else settle false (haulAll (numbers s.cpc.winches.length) s)

/-! ## Release requests and withdrawals (R98, R99, R101) -/

/-- The pull-off wait: the largest release wait of the own winches (R99). -/
def pullOffWait (s : State) : Nat := (s.cfg.winches.map (·.releaseWait)).foldr max 0

/-- A HAULING winch becomes SLACK at the start of a pull-off (R99 step 2). -/
def haltHaul (w : Winch) : Winch := if w.state = .hauling then { w with state := .slack, timerAt := none } else w

/-- A pull-off begins (R99). -/
def beginPullOff (o : Origin) (s : State) : State :=
  let set := { s with cpc := { s.cpc with pullOff := some { origin := o, expiry := s.now + pullOffWait s } } }
  completePullOff (shuNotice false (changeWinches haltHaul set))

/-- A release request (R98). -/
def releaseRequest (o : Origin) (s : State) : State :=
  if s.cpc.pullOff.isSome then setOutcome .releaseIgnoredActive s
  else if s.cpc.summary = .free ∧ haulingCount s = 0 then setOutcome .releaseIgnoredFree s
  else beginPullOff o s

/-- A release withdrawal: it ends a pull-off of the same origin and claimant, and is ignored otherwise (R98,
R101). -/
def withdrawRelease (o : Origin) (s : State) : State :=
  match s.cpc.pullOff with
  | some p => if p.origin = o then shuNotice false (endPullOff .withdrawn s) else s
  | none => s

/-- The pull-off timer expires (R101). -/
def pullOffTimeout (s : State) : State :=
  shuNotice false (raiseFlag .releaseTimeout (endPullOff .timedOut s))

/-- Meaning of PULL_OFF_TIMER_EXPIRY (R101): acts on a pull-off whose timer has expired. -/
def execPullOffTimerExpiry (t : Nat) (s0 : State) : Host.Outcome State Fault Refusal :=
  let s := setClock t s0
  if due s.now (s.cpc.pullOff.map (·.expiry)) then .next (pullOffTimeout s) else .next s

/-! ## Winch timers (R88, R89, R93) -/

/-- The phase timer of winch `n` has expired while `p` holds of the winch: the winch changes, with its lines, and the
summary is settled. -/
def winchExpiry (n : Nat) (p : Winch → Bool) (f : WinchCfg → Winch → Winch) (after : State → State) (s : State) :
    State :=
  match getN s.cpc.winches n, getN s.cfg.winches n with
  | some w, some c => if p w && due s.now w.timerAt then settle false (after (changeWinch n (f c) s)) else s
  | _, _ => s

/-- A haul that times out: SLACK, with its note (R88). -/
def timeOutHaul (w : Winch) : Winch := { w with state := .slack, timerAt := none, note := .haulTimeout }

/-- A haul pulse that ends (R89). -/
def endPulse (w : Winch) : Winch := { w with pulse := false, timerAt := none }

/-- A release hold that ends: SLACK (R93). -/
def endHold (w : Winch) : Winch := { w with state := .slack, phase := none, timerAt := none }

/-- The winch is RELEASING in a phase. -/
def releasingIn (p : Phase) (w : Winch) : Bool := decide (w.state = .releasing ∧ w.phase = some p)

/-- Meaning of HAUL_TIMEOUT_EXPIRY (R88). -/
def execHaulTimeoutExpiry (t winch : Nat) (s : State) : Host.Outcome State Fault Refusal :=
  .next (winchExpiry winch (fun w => decide (w.state = .hauling)) (fun _ => timeOutHaul) (raiseFlag .haulTimeout)
    (setClock t s))

/-- Meaning of HAUL_PULSE_EXPIRY (R89). -/
def execHaulPulseExpiry (t winch : Nat) (s : State) : Host.Outcome State Fault Refusal :=
  .next (winchExpiry winch (fun w => decide (w.state = .made) && w.pulse) (fun _ => endPulse) id (setClock t s))

/-- Meaning of RELEASE_WAIT_EXPIRY (R93). -/
def execReleaseWaitExpiry (t winch : Nat) (s0 : State) : Host.Outcome State Fault Refusal :=
  let s := setClock t s0
  .next (winchExpiry winch (releasingIn .payingOut) (enterHolding s.now) id s)

/-- Meaning of RELEASE_HOLD_EXPIRY (R93). -/
def execReleaseHoldExpiry (t winch : Nat) (s : State) : Host.Outcome State Fault Refusal :=
  .next (winchExpiry winch (releasingIn .holding) (fun _ => endHold) id (setClock t s))

end Sys2Proof.Machine
end

