-- ==== Sys2Proof/Machine/Gauges.lean ====
section
/-!
DEFINITION. The pulse gauge unit (chapter 7): interval timers and the request queue, gauge engines, measuring in PERIOD
and in DUTY mode, results, channel health, and delivery to the owners.
-/

namespace Sys2Proof.Machine

/-! ## Channels, queue, engines (R139, R141 to R143) -/

/-- A kind is measured in PERIOD mode (R139). -/
def periodMode : GaugeKind → Bool
  | .rpm | .flow | .load | .level | .xferMeter | .bunkerMeter => true
  | .angle | .unused => false

/-- A channel is in use (R139). -/
def inUse (c : ChanCfg) : Bool := decide (c.kind ≠ .unused)

/-- Channel record `n` changed. -/
def modChan (n : Nat) (f : Chan → Chan) (s : State) : State :=
  { s with pgu := { s.pgu with chans := modN s.pgu.chans n f } }

/-- Gauge engine `e` set. -/
def setEngine (e : Nat) (m : Option Meas) (s : State) : State :=
  { s with pgu := { s.pgu with engines := modN s.pgu.engines e fun _ => m } }

/-- The engine that holds a channel. -/
def engineOf (n : Nat) (s : State) : Option Nat :=
  findN
    (fun e =>
      match e with
      | some m => decide (m.chan = n)
      | none => false) s.pgu.engines

/-- The measurement an engine holds. -/
def measOf (e : Nat) (s : State) : Option Meas := (getN s.pgu.engines e).join

/-- Window limit of a channel, ms. -/
def windowOf (n : Nat) (s : State) : Nat :=
  match getN s.cfg.chans n with
  | some c => c.window
  | none => 0

/-- One take: the lowest-numbered IDLE engine takes the channel at the queue head (R143). -/
def takeOnce (s : State) : State :=
  match s.pgu.queue, findN (fun e => Option.isNone e) s.pgu.engines with
  | n :: rest, some e =>
    setEngine e (some { chan := n, windowAt := s.clock + windowOf n s * 1000 })
      (modChan n (fun c => { c with req := .measuring }) { s with pgu := { s.pgu with queue := rest } })
  | _, _ => s

/-- Takes repeat while an engine is IDLE and the queue is not empty (R143). -/
def takeAll (s : State) : State := Nat.repeat takeOnce 6 s

/-- A channel joins the tail of the queue (R141). -/
def joinQueue (n : Nat) (s : State) : State :=
  modChan n (fun c => { c with req := .queued }) { s with pgu := { s.pgu with queue := s.pgu.queue ++ [n] } }

/-- The effect of an interval expiry by the request state (R141). -/
def requestChan (n : Nat) (r : ReqState) (s : State) : State :=
  match r with
  | .idle => takeAll (joinQueue n s)
  | .queued => modChan n (fun c => { c with overrun := sat16 (c.overrun + 1) }) s
  | .measuring => modChan n (fun c => { c with overrun := sat16 (c.overrun + 1) }) s

/-- An interval expiry of channel `n`: timer restarted, request made or merged (R141). -/
def intervalExpired (n : Nat) (k : ChanCfg) (r : Chan) (s : State) : State :=
  requestChan n r.req (modChan n (fun c => { c with intervalAt := restartTimer k.interval c.intervalAt }) s)

/-- Meaning of INTERVAL_EXPIRY (R141): acts when the channel's interval timer has expired. -/
def execIntervalExpiry (t chan : Nat) (s0 : State) : Host.Outcome State Fault Refusal :=
  let s := setClock t s0
  match getN s.pgu.chans chan, getN s.cfg.chans chan with
  | some r, some k => if due s.now r.intervalAt then .next (intervalExpired chan k r s) else .next s
  | _, _ => .next s

/-! ## Results (R148 to R151) -/

/-- A result: its count, its elapsed time or cycle-time sum, and its high-time sum, in µs.  A time of 0 is carried as
1 µs (R148). -/
structure Result where
  outcome : Outcome
  count : Nat
  elapsed : Nat
  high : Nat := 0
deriving DecidableEq, Repr

/-- A good result with its time carried as at least 1 µs (R148). -/
def goodResult (o : Outcome) (count elapsed high : Nat) : Result :=
  { outcome := o, count := count, elapsed := max 1 elapsed, high := high }

/-- A NO_PULSE result (R145, R147). -/
def noPulseResult : Result := { outcome := .noPulse, count := 0, elapsed := 0 }

/-- Health and run count after an outcome (R149, R150). -/
def judgeHealth (deadCount : Nat) (o : Outcome) (c : Chan) : Chan :=
  match o with
  | .noPulse =>
    let run := sat16 (c.noPulse + 1)
    { c with noPulse := run, health := if deadCount ≤ run then .dead else c.health }
  | .complete => { c with noPulse := 0, health := .ok }
  | .partialCount => { c with noPulse := 0, health := .ok }

/-- A good result handed to its owner (R139, R151). -/
def deliverGood (kind : GaugeKind) (b : Nat) (r : Result) (s : State) : State :=
  match kind with
  | .rpm => rpmResult b r.count r.elapsed s
  | .flow => flowResult b r.count r.elapsed s
  | .angle => angleResult b r.high r.elapsed s
  | .load => loadResult b r.count r.elapsed s
  | .level => levelResult b r.count r.elapsed s
  | .xferMeter => transferResult r.count s
  | .bunkerMeter => bunkerResult r.count s
  | .unused => s

/-- A NO_PULSE result handed to its owner with the channel's health: the SFC, the STC, the CPC and the soundings take
no action on it (R128, R149). -/
def deliverNoPulse (kind : GaugeKind) (b : Nat) (h : Health) (s : State) : State :=
  match kind with
  | .flow => flowNoPulse b h s
  | .xferMeter => transferNoPulse h s
  | .bunkerMeter => bunkerNoPulse h s
  | .rpm | .angle | .load | .level | .unused => s

/-- A DEAD notice handed to its owner (R149). -/
def deliverDead (kind : GaugeKind) (b : Nat) (s : State) : State :=
  match kind with
  | .rpm => rpmDead b s
  | .flow => estimateNotice b s
  | .angle => angleDead b s
  | .load => loadDead b s
  | .xferMeter => transferMeterDead s
  | .bunkerMeter => bunkerMeterDead s
  | .level | .unused => s

/-- Step 3 of R148: a good result, a DEAD notice on the passage from OK to DEAD, or a NO_PULSE result. -/
def deliverResult (k : ChanCfg) (r : Result) (was now : Health) (s : State) : State :=
  let b := k.binding.getD 0
  if r.outcome = .noPulse then
    if was = .ok ∧ now = .dead then deliverDead k.kind b s else deliverNoPulse k.kind b now s
  else deliverGood k.kind b r s

/-- A result made by engine `e` for channel `n` (R148). -/
def makeResult (e n : Nat) (r : Result) (s : State) : State :=
  match getN s.cfg.chans n, getN s.pgu.chans n with
  | some k, some c =>
    let judged := judgeHealth k.deadCount r.outcome c
    let noted := modChan n (fun _ => { judged with last := some (r.outcome, s.now) }) s
    takeAll (setEngine e none
      (modChan n (fun q => { q with req := .idle }) (deliverResult k r c.health judged.health noted)))
  | _, _ => s

/-! ## PERIOD mode (R144, R145) -/

/-- A chosen edge at `at_` µs in PERIOD mode: the measurement after it, or the result it completes (R144). -/
def periodEdgeStep (n at_ : Nat) (m : Meas) : Meas ⊕ Result :=
  match m.phase with
  | .arming => .inl { m with phase := .counting, count := 0, start := at_ }
  | .counting =>
    if n ≤ m.count + 1 then .inr (goodResult .complete (m.count + 1) (at_ - m.start) 0)
    else .inl { m with count := m.count + 1, lastEdge := at_ }
  | .high => .inl m
  | .low => .inl m

/-- The result of a PERIOD measurement at its window expiry (R145). -/
def periodWindowResult (m : Meas) : Result :=
  if m.phase = .arming ∨ m.count = 0 then noPulseResult
  else goodResult .partialCount m.count (m.lastEdge - m.start) 0

/-- What an edge does to the engine that holds channel `n`. -/
def applyEdge (e n : Nat) (x : Meas ⊕ Result) (s : State) : State :=
  match x with
  | .inl m => setEngine e (some m) s
  | .inr r => makeResult e n r s

/-- The channel configuration, engine and measurement of a channel being measured. -/
def underMeasure (n : Nat) (s : State) : Option (ChanCfg × Nat × Meas) :=
  match getN s.cfg.chans n, engineOf n s with
  | some k, some e =>
    match measOf e s with
    | some m => some (k, e, m)
    | none => none
  | _, _ => none

/-- Meaning of PERIOD_EDGE (R144): a chosen edge on the input of a PERIOD channel that an engine holds. -/
def execPeriodEdge (t chan : Nat) (edge : Edge) (s0 : State) : Host.Outcome State Fault Refusal :=
  let s := setClock t s0
  match underMeasure chan s with
  | some (k, e, m) =>
    if periodMode k.kind && decide (k.edge = edge) then
      .next (applyEdge e chan (periodEdgeStep k.count s.clock m) s)
    else .next s
  | none => .next s

/-- Meaning of PERIOD_WINDOW_EXPIRY (R145): acts when the window of a PERIOD measurement has expired. -/
def execPeriodWindowExpiry (t chan : Nat) (s0 : State) : Host.Outcome State Fault Refusal :=
  let s := setClock t s0
  match underMeasure chan s with
  | some (k, e, m) =>
    if periodMode k.kind && decide (m.windowAt ≤ s.clock) then .next (makeResult e chan (periodWindowResult m) s)
    else .next s
  | none => .next s

/-! ## DUTY mode (R146, R147) -/

/-- An edge at `at_` µs in DUTY mode: the measurement after it, or the result it completes (R146). -/
def dutyEdgeStep (n at_ : Nat) (edge : Edge) (m : Meas) : Meas ⊕ Result :=
  match m.phase, edge with
  | .arming, .rising => .inl { m with phase := .high, start := at_ }
  | .high, .falling => .inl { m with phase := .low, lastEdge := at_ }
  | .low, .rising =>
    let high := m.highSum + (m.lastEdge - m.start)
    let cycle := m.cycleSum + (at_ - m.start)
    if n ≤ m.count + 1 then .inr (goodResult .complete (m.count + 1) cycle high)
    else .inl { m with phase := .high, count := m.count + 1, start := at_, highSum := high, cycleSum := cycle }
  | _, _ => .inl m

/-- The result of a DUTY measurement at its window expiry (R147). -/
def dutyWindowResult (m : Meas) : Result :=
  if m.count = 0 then noPulseResult else goodResult .partialCount m.count m.cycleSum m.highSum

/-- Meaning of DUTY_EDGE (R146): an edge on the input of a DUTY channel that an engine holds. -/
def execDutyEdge (t chan : Nat) (edge : Edge) (s0 : State) : Host.Outcome State Fault Refusal :=
  let s := setClock t s0
  match underMeasure chan s with
  | some (k, e, m) =>
    if k.kind = .angle then .next (applyEdge e chan (dutyEdgeStep k.count s.clock edge m) s) else .next s
  | none => .next s

/-- Meaning of DUTY_WINDOW_EXPIRY (R147): acts when the window of a DUTY measurement has expired. -/
def execDutyWindowExpiry (t chan : Nat) (s0 : State) : Host.Outcome State Fault Refusal :=
  let s := setClock t s0
  match underMeasure chan s with
  | some (k, e, m) =>
    if k.kind = .angle ∧ m.windowAt ≤ s.clock then .next (makeResult e chan (dutyWindowResult m) s) else .next s
  | none => .next s

end Sys2Proof.Machine
end

