-- ==== Sys2Proof/Machine/View.lean ====
section
/-!
DEFINITION. The convoy view unit (chapter 1): what a received payload says (R200), the peer table and its ageing,
the nominal sums, the own helm claim, the followed claimant, the effective order, convoy orders; the meanings of
FORGET_PEER and of the CVU's timers.
-/

namespace Sys2Proof.Machine

/-! ## Received payloads (R200, with the clamps of R3 and R4) -/

/-- The mode a byte codes; an undefined code is stored as SILENT. -/
def modeOfByte (b : Nat) : Mode :=
  match b with
  | 0 => .configuring
  | 1 => .joining
  | 2 => .running
  | _ => .silent

/-- The summary a byte codes; an undefined code is stored as FREE. -/
def summaryOfByte (b : Nat) : Summary :=
  match b with
  | 1 => .loose
  | 2 => .made
  | _ => .free

/-- The shaft direction a byte codes; an undefined code is stored as NEUTRAL. -/
def dirOfByte (b : Nat) : Dir :=
  match b with
  | 1 => .ahead
  | 2 => .astern
  | 3 => .dwell
  | _ => .neutral

/-- The followed claimant a byte codes: none for 0 and for an undefined value. -/
def claimantOfByte (b : Nat) : Option Nat := if 1 ≤ b ∧ b ≤ 6 then some b else none

/-- The STATUS part a STATUS or ALERT payload carries (R3, R200). -/
def decodeStatus (bs : List Byte) : StatusPart :=
  { mode := modeOfByte (u8 bs 0)
    contributing := (bs.getD 1 0).getLsbD 0
    departing := (bs.getD 1 0).getLsbD 1
    parted := (bs.getD 1 0).getLsbD 2
    summary := summaryOfByte (u8 bs 2)
    rated := min 12000 (u16 bs 6)
    cAhead := u16 bs 8
    cAstern := u16 bs 10
    phi := u16 bs 12
    rNom := min 4500 (u16 bs 14)
    rLive := u16 bs 16
    dirs := (List.range (clampNat 1 3 (u8 bs 18))).map fun i => dirOfByte (u8 bs (19 + i))
    followed := claimantOfByte (u8 bs 22) }

/-- The status period carried, held to 100..1000 ms (R3). -/
def carriedPeriod (bs : List Byte) : Nat := clampNat 100 1000 (u16 bs 4)

/-- The lost count carried, held to 5..30 (R3). -/
def carriedLost (bs : List Byte) : Nat := clampNat 5 30 (u8 bs 3)

/-- A HELM is a helm event: rank 1 to 6, helm period 5 to 50 units of 10 ms (R4). -/
def helmEvent (bs : List Byte) : Bool :=
  decide (1 ≤ u8 bs 0 ∧ u8 bs 0 ≤ 6 ∧ 5 ≤ u8 bs 1 ∧ u8 bs 1 ≤ 50)

/-- The helm part a HELM payload carries (R4, R200). -/
def decodeHelm (now : Nat) (bs : List Byte) : HelmPart :=
  { rank := u8 bs 0
    period := u8 bs 1 * 10
    yielded := decide (u8 bs 2 ≠ 0)
    d := clampInt (-1000) 1000 (s16 bs 3)
    delta := clampInt (-350) 350 (s16 bs 5)
    order := u8 bs 7
    releaseSet := stationSet (bs.getD 8 0)
    remakeSet := stationSet (bs.getD 9 0)
    lastHelm := now }

/-- The fuel part a FUEL payload carries (R4, R200). -/
def decodeFuel (now : Nat) (bs : List Byte) : FuelPart :=
  { aboard := u32 bs 0, burn := u16 bs 4, reserve := decide (u8 bs 6 ≠ 0), lastFuel := now }

/-! ## Storing a frame in an entry (R2 to R4, R180) -/

/-- A new entry, before the refresh that raises its frames-heard count to 1 (R2). -/
def newPeer (cfg : Cfg) (n : Nat) : Peer :=
  { number := n, lastHeard := 0, statusPeriod := cfg.statusPeriod, lostCount := cfg.lostCount, heard := 0 }

/-- The refresh of an entry by a valid frame (R3). -/
def refreshPeer (now : Nat) (p : Peer) : Peer :=
  { p with lastHeard := now, heard := sat16 (p.heard + 1), state := .live }

/-- What a STATUS adds to the gap count (R180). -/
def seqGap (last carried : Nat) : Nat := (carried + 255 - last) % 256

/-- The sequence fields after a STATUS (R180). -/
def keepSequence (carried : Nat) (p : Peer) : Peer :=
  match p.lastSeq with
  | none => { p with lastSeq := some carried }
  | some l => { p with lastSeq := some carried, gapCount := sat16 (p.gapCount + seqGap l carried) }

/-- The STATUS part and the announced periods replaced (R3). -/
def storeStatus (bs : List Byte) (p : Peer) : Peer :=
  { p with statusPart := some (decodeStatus bs), statusPeriod := carriedPeriod bs, lostCount := carriedLost bs }

/-- An arriving frame's contents stored in its refreshed entry (R3, R4). -/
def storeParts (k : FrameKind) (f : RxFrame) (now : Nat) (p : Peer) : Peer :=
  match k with
  | .status => keepSequence f.seq.toNat (storeStatus f.payload p)
  | .alert => storeStatus f.payload p
  | .helm => if helmEvent f.payload then { p with helmPart := some (decodeHelm now f.payload) } else p
  | .fuel => { p with fuelPart := some (decodeFuel now f.payload) }

/-- The entry of a sender, created where it has none (R2). -/
def admitPeer (n : Nat) (s : State) : State :=
  match peerOf n s with
  | some _ => s
  | none => { s with cvu := { s.cvu with peers := insertPeer (newPeer s.cfg n) s.cvu.peers } }

/-! ## Nominal sums and notices (R9, R3) -/

/-- R_nom part of an entry (R9). -/
def peerRated (p : Peer) : Nat :=
  match p.statusPart with
  | some st => st.rated
  | none => 0

/-- r_nom part of an entry (R9). -/
def peerNominal (p : Peer) : Nat :=
  match p.statusPart with
  | some st => st.rNom
  | none => 0

/-- The nominal sums follow the view (R9). -/
def keepSums (s : State) : State :=
  { s with
    cvu :=
      { s.cvu with
        powerNom := s.cfg.ratedTotal + (s.cvu.peers.map peerRated).sum
        rudderNom := s.cfg.nominalAuthority + (s.cvu.peers.map peerNominal).sum } }

/-- The SHU, the STC, the CPC and the FAU are notified of a change of the view (R3, R5, R6, R8). -/
def noticePeers (s : State) : State := fuelTotals (settle false (stcNotice (recompute s)))

/-- The SHU and the STC are notified of a new effective order (R16, R17). -/
def noticeOrder (s : State) : State := stcNotice (recompute s)

/-! ## Own claim (R10 to R13) -/

/-- Claim-eligible (R10). -/
def claimEligible (s : State) : Bool :=
  s.cfg.helmCapable && decide (s.svp.panelState = .current) && s.svp.panel.takeCommand &&
    decide (s.svp.mode = .running)

/-- The contents of an own HELM at this moment (R11). -/
def helmContents (s : State) : HelmContents :=
  { rank := s.cfg.rank, periodUnits := s.cfg.helmUnits, d := s.svp.panel.lever, delta := s.svp.panel.tiller
    order := s.cvu.ownOrder, releaseSet := s.svp.panel.releaseSet, remakeSet := s.svp.panel.remakeSet }

/-- A HELM placed while CLAIMING (R11). -/
def sendHelm (s : State) : State :=
  placeHelm (helmContents s) false { s with cvu := { s.cvu with lastHelm := some (helmContents s) } }

/-- The yield frame: the contents of the last HELM placed while CLAIMING (R13). -/
def sendYield (s : State) : State :=
  match s.cvu.lastHelm with
  | some h => placeHelm h true s
  | none => s

/-- The own claim state R10 gives now. -/
def claimNow (s : State) : Claim :=
  if claimEligible s then (if s.cvu.followed = some s.cfg.station then .claiming else .shadowed) else .notClaiming

/-- The claim state held becomes this one; the helm period runs in CLAIMING only. -/
def setClaim (c : Claim) (helmAt : Option Nat) (s : State) : State :=
  { s with cvu := { s.cvu with claim := c, helmAt := helmAt } }

/-- The own claim state evaluated again (R10, R11, R13). -/
def evalClaim (s : State) : State :=
  match s.cvu.claim, claimNow s with
  | .claiming, .claiming => s
  | .claiming, .shadowed => setClaim .shadowed none s
  | .claiming, .notClaiming =>
    if s.svp.mode = .running then sendYield (setClaim .notClaiming none s) else setClaim .notClaiming none s
  | _, .claiming => sendHelm (setClaim .claiming (some (s.now + s.cfg.helmPeriod)) s)
  | _, .shadowed => setClaim .shadowed none s
  | _, .notClaiming => setClaim .notClaiming none s

/-! ## The followed claimant (R14 to R18) -/

/-- A helm candidate: its rank and its station number. -/
structure Candidate where
  rank : Nat
  number : Nat
deriving DecidableEq, Repr

/-- The candidate a peer is, where it is one (R14). -/
def peerCandidate (p : Peer) : Option Candidate :=
  match p.helmPart with
  | some h => if counted p && !h.expired && !h.yielded then some { rank := h.rank, number := p.number } else none
  | none => none

/-- The candidate set, self first where claim-eligible (R14). -/
def candidates (s : State) : List Candidate :=
  (if claimEligible s then [{ rank := s.cfg.rank, number := s.cfg.station }] else []) ++
    s.cvu.peers.filterMap peerCandidate

/-- Candidate `a` is preferred to `b`: the lower rank, among equal ranks the lower number (R14). -/
def preferred (a b : Candidate) : Bool := decide (a.rank < b.rank ∨ (a.rank = b.rank ∧ a.number < b.number))

/-- The preferred candidate of a list. -/
def bestOf : List Candidate → Option Candidate
  | [] => none
  | c :: cs =>
    match bestOf cs with
    | some d => if preferred d c then some d else some c
    | none => some c

/-- The station R14 selects. -/
def selected (s : State) : Option Nat := (bestOf (candidates s)).map (·.number)

/-- The helm part held of a station. -/
def helmPartOf (n : Nat) (s : State) : Option HelmPart :=
  match peerOf n s with
  | some p => p.helmPart
  | none => none

/-- The order in force of a station: its D and δ, order number and sets; the panel's for self (R16, R17). -/
def ordersOf (n : Nat) (s : State) : Option HelmContents :=
  if n = s.cfg.station then some (helmContents s)
  else
    match helmPartOf n s with
    | some h =>
      some
        { rank := h.rank, periodUnits := h.period / 10, d := h.d, delta := h.delta, order := h.order
          releaseSet := h.releaseSet, remakeSet := h.remakeSet }
    | none => none

/-- The baseline a station's current orders give (R16). -/
def baselineOf (n : Nat) (h : HelmContents) : Baseline :=
  { claimant := n, order := h.order, releaseSet := h.releaseSet, remakeSet := h.remakeSet }

/-- A change of followed claimant to a station (R16). -/
def follow (n : Nat) (s : State) : State :=
  match ordersOf n s with
  | some h =>
    noticeOrder
      { s with
        cvu :=
          { s.cvu with
            followed := some n, helmState := .following, graceAt := none, effD := h.d, effDelta := h.delta
            baseline := some (baselineOf n h) } }
  | none => s

/-- The helm is lost (R18). -/
def loseHelm (s : State) : State :=
  raiseFlag .helmLost
    { s with
      cvu :=
        { s.cvu with
          followed := none, helmState := .grace, graceAt := some (s.now + s.cfg.graceTime * 1000)
          baseline := none } }

/-- The followed claimant selected anew, then the own claim state evaluated (R14, R16, R18, R10). -/
def reselect (s : State) : State :=
  evalClaim
    (if selected s = s.cvu.followed then s
    else
      match selected s with
      | some n => follow n s
      | none => loseHelm s)

/-- The effective order follows D and δ, notified where it changes (R17). -/
def takeEffective (d delta : Int) (s : State) : State :=
  if s.cvu.effD = d ∧ s.cvu.effDelta = delta then s
  else noticeOrder { s with cvu := { s.cvu with effD := d, effDelta := delta } }

/-! ## Convoy orders (R19, R20) -/

/-- A station newly named in a set. -/
def newlyIn (own : Nat) (before after : List Nat) : Bool := !before.contains own && after.contains own

/-- The requests an order passes to the CPC, in order: a withdrawal, a release request, a remake request unless a
release request is passed (R19). -/
def passOrders (own n : Nat) (b new : Baseline) (s : State) : State :=
  let withdrawn :=
    if newlyIn own new.releaseSet b.releaseSet then withdrawRelease (.helm n) s else s
  if newlyIn own b.releaseSet new.releaseSet then releaseRequest (.helm n) withdrawn
  else if newlyIn own b.remakeSet new.remakeSet then remakeOrder withdrawn
  else withdrawn

/-- The orders of the followed claimant `n` examined against the baseline (R19). -/
def examineOrders (n : Nat) (s : State) : State :=
  match s.cvu.baseline, ordersOf n s with
  | some b, some h =>
    if h.order = b.order then s
    else
      passOrders s.cfg.station n b (baselineOf n h)
        { s with cvu := { s.cvu with baseline := some (baselineOf n h), lastActed := some h.order } }
  | _, _ => s

/-- A helm event from the followed peer: effective order first, then its orders (R17, R19, R20). -/
def takeHelm (n : Nat) (s : State) : State :=
  if s.cvu.followed = some n then
    match helmPartOf n s with
    | some h => examineOrders n (takeEffective h.d h.delta s)
    | none => s
  else s

/-- The own order number advances: a HELM at once while CLAIMING, and the orders examined while self is followed
(R11, R12, R19). -/
def advanceOrder (s : State) : State :=
  let s1 := { s with cvu := { s.cvu with ownOrder := (s.cvu.ownOrder + 1) % 256 } }
  let s2 := if s1.cvu.claim = .claiming then sendHelm s1 else s1
  if s2.cvu.followed = some s2.cfg.station then examineOrders s2.cfg.station s2 else s2

/-! ## Arrival of a valid frame (R2 to R4) -/

/-- A kind that carries STATUS contents. -/
def carriesStatus : FrameKind → Bool
  | .status => true
  | .alert => true
  | .helm => false
  | .fuel => false

/-- The arrival changes the state of an entry, or creates one (R3). -/
def wakes (old : Option Peer) : Bool :=
  match old with
  | some p => decide (p.state ≠ .live)
  | none => true

/-- The entry was LOST (R14). -/
def wasLost (old : Option Peer) : Bool :=
  match old with
  | some p => decide (p.state = .lost)
  | none => false

/-- The entry with an arriving frame stored in it (R2 to R4). -/
def storeFrame (k : FrameKind) (f : RxFrame) (s : State) : State :=
  modPeer (RxFrame.sender f) (fun p => storeParts k f s.now (refreshPeer s.now p)) (admitPeer (RxFrame.sender f) s)

/-- The readers of the view told of an arrival (R3, R4). -/
def tellArrival (k : FrameKind) (woken : Bool) (s : State) : State :=
  let told := if carriesStatus k || woken then noticePeers (keepSums s) else s
  if k = .fuel then fuelTotals told else told

/-- A valid frame delivered to the CVU (R2 to R4, R14, R17, R19, R20).  The selection comes before the effective order, so
that a HELM by which its sender, the followed claimant, yields and the helm is lost leaves GRACE holding the D and δ from
before that frame, whatever it carries: the model's reading of R18 (notes/assumptions/28.md). -/
def deliverFrame (k : FrameKind) (f : RxFrame) (s : State) : State :=
  let n := RxFrame.sender f
  let old := peerOf n s
  let told := tellArrival k (wakes old) (storeFrame k f s)
  let event := decide (k = .helm) && helmEvent f.payload
  let chosen := if event || wasLost old then reselect told else told
  if event then takeHelm n chosen else chosen

/-! ## Ageing and removal (R5 to R8, R15) -/

/-- An entry removed (R8). -/
def removePeer (n : Nat) (s : State) : State :=
  noticePeers (reselect (keepSums
    { s with cvu := { s.cvu with peers := s.cvu.peers.filter fun p => decide (p.number ≠ n) } }))

/-- An entry becomes STALE (R5). -/
def markStale (n : Nat) (s : State) : State := noticePeers (modPeer n (fun p => { p with state := .stale }) s)

/-- An entry becomes LOST (R6). -/
def markLost (n : Nat) (s : State) : State :=
  reselect (noticePeers (raiseFlag .peerLost (modPeer n (fun p => { p with state := .lost }) s)))

/-- The last STATUS part carries departing = yes (R6). -/
def announcedDeparture (p : Peer) : Bool :=
  match p.statusPart with
  | some st => st.departing
  | none => false

/-- Meaning of STALE_EXPIRY (R5): acts on a LIVE entry whose stale expiry has passed. -/
def execStaleExpiry (t n : Nat) (s0 : State) : Host.Outcome State Fault Refusal :=
  let s := setClock t s0
  match peerOf n s with
  | some p => if p.state = .live ∧ staleAt p ≤ s.now then .next (markStale n s) else .next s
  | none => .next s

/-- Meaning of LOST_EXPIRY (R6): acts on a LIVE or STALE entry whose lost expiry has passed. -/
def execLostExpiry (t n : Nat) (s0 : State) : Host.Outcome State Fault Refusal :=
  let s := setClock t s0
  match peerOf n s with
  | some p =>
    if counted p = true ∧ lostAt p ≤ s.now then
      .next (if announcedDeparture p then removePeer n s else markLost n s)
    else .next s
  | none => .next s

/-- The helm part of an entry is no longer within its age (R15). -/
def expireHelm (p : Peer) : Peer := { p with helmPart := p.helmPart.map fun h => { h with expired := true } }

/-- Meaning of HELM_AGE_EXPIRY (R15): acts on a helm part whose age has just passed. -/
def execHelmAgeExpiry (t n : Nat) (s0 : State) : Host.Outcome State Fault Refusal :=
  let s := setClock t s0
  match helmPartOf n s with
  | some h =>
    if h.expired = false ∧ helmAgeAt h ≤ s.now then .next (reselect (modPeer n expireHelm s)) else .next s
  | none => .next s

/-- FORGET_PEER answered by R7's table. -/
def forgetAnswer (n : Nat) (s : State) : State :=
  match peerOf n s with
  | none => refuse .noEntry s
  | some p => if p.state = .lost then okAfter (removePeer n) s else refuse .notLost s

/-- Meaning of FORGET_PEER (R7). -/
def execForgetPeer (t : Nat) (n : Byte) (s : State) : Host.Outcome State Fault Refusal :=
  .next (inService (forgetAnswer n.toNat) (setClock t s))

/-! ## Timers of the CVU, and the mute (R11, R18, R24) -/

/-- The grace time ends (R18 step 4). -/
def endGrace (s : State) : State :=
  noticeOrder { s with cvu := { s.cvu with helmState := .noHelm, graceAt := none, effD := 0, effDelta := 0 } }

/-- Meaning of GRACE_EXPIRY (R18): acts when the grace timer has expired. -/
def execGraceExpiry (t : Nat) (s0 : State) : Host.Outcome State Fault Refusal :=
  let s := setClock t s0
  if due s.now s.cvu.graceAt then .next (endGrace s) else .next s

/-- Meaning of HELM_PERIOD_EXPIRY (R11): acts while CLAIMING, when the own helm period has expired. -/
def execHelmPeriodExpiry (t : Nat) (s0 : State) : Host.Outcome State Fault Refusal :=
  let s := setClock t s0
  if s.cvu.claim = .claiming ∧ due s.now s.cvu.helmAt = true then
    .next (sendHelm { s with cvu := { s.cvu with helmAt := restartTimer s.cfg.helmPeriod s.cvu.helmAt } })
  else .next s

/-- The station becomes muted (R24). -/
def mute (s : State) : State := shuNotice false { s with shu := { s.shu with muted := true } }

/-- Meaning of MUTE_EXPIRY (R24): acts on an un-muted station whose mute expiry has passed. -/
def execMuteExpiry (t : Nat) (s0 : State) : Host.Outcome State Fault Refusal :=
  let s := setClock t s0
  if s.shu.muted = false ∧ due s.now (muteAt s) = true then .next (mute s) else .next s

end Sys2Proof.Machine
end

