-- ==== Sys2Proof/Machine/Modes.lean ====
section
/-!
DEFINITION. The changes of station mode (R185): from JOINING to RUNNING at the join timer's expiry, and to SILENT on
a duplicate; what every block does on each; the meaning of JOIN_TIMER_EXPIRY.
-/

namespace Sys2Proof.Machine

/-- The station mode becomes another; the join timer runs in JOINING only (R185, R186). -/
def setMode (m : Mode) (joinAt : Option Nat) (s : State) : State :=
  { s with svp := { s.svp with mode := m, joinAt := joinAt } }

/-- The blocks notified of a change of mode that keeps their records: the CVU evaluates its claim (R21), the SHU the
contributing state and the share (R23, R28, R43), the STC its rudders (R66). -/
def noticeMode (s : State) : State := stcNotice (shuNotice true (reselect s))

/-- JOINING becomes RUNNING; the SVP places one ALERT after the blocks have been notified (R185). -/
def enterRunning (s : State) : State := placeAlert (noticeMode (setMode .running none s))

/-- The LIF's slots emptied and its transmitter stopped (R178). -/
def stopTransmitter (s : State) : State := { s with lif := { emptySlots s.lif with tx := none } }

/-- JOINING or RUNNING becomes SILENT (R178, R187). -/
def enterSilent (s : State) : State := noticeMode (setMode .silent none (stopTransmitter s))

/-- Meaning of JOIN_TIMER_EXPIRY (R186): acts in JOINING when the join timer has expired. -/
def execJoinTimerExpiry (t : Nat) (s0 : State) : Host.Outcome State Fault Refusal :=
  let s := setClock t s0
  if s.svp.mode = .joining ∧ due s.now s.svp.joinAt = true then .next (enterRunning s) else .next s

end Sys2Proof.Machine
end

