-- ==== Sys2Proof/Machine/Line.lean ====
section
/-!
DEFINITION. The events of the convoy line interface (chapter 9): frames received and their checks, the line going
idle, the course of an own transmission, suspension, the status timer.
-/

namespace Sys2Proof.Machine

/-! ## Receiving (R176 to R179) -/

/-- The LIF assembles what is on the line: its receiver is on, and the line has been idle since the receiver was
switched on or restarted and since the last frame or failure (R165, R176, R182). -/
def assembling (s : State) : Bool := receiverOn s.svp.mode && !s.lif.awaitIdle

/-- A frame seen on the line, whole or failed: the line is not idle, nothing more is assembled until it is (R165, R176),
and a frame of this station that had not got past its arbitration field was not the one on the line, so that it waits in
its slot: reached only where LINE_IDLE did not tell of the other start bit (R165, R170; notes/assumptions/6.md, 36.md). -/
def frameSeen (s : State) : State :=
  let tx := match s.lif.tx with
    | some x => if x.sealed.isSome then some x else none
    | none => none
  { s with lif := { s.lif with lineIdle := none, awaitIdle := true, tx := tx } }

/-- A frame that fails its framing, completeness or CRC check (R176, R181). -/
def countCrcError (s : State) : State :=
  { s with lif := { s.lif with crcErrors := sat16 (s.lif.crcErrors + 1) } }

/-- A frame that fails R177 (R181). -/
def countMalformed (s : State) : State :=
  { s with lif := { s.lif with malformed := sat16 (s.lif.malformed + 1) } }

/-- A valid frame (R179, R181). -/
def countReceived (s : State) : State :=
  { s with lif := { s.lif with receivedOk := sat16 (s.lif.receivedOk + 1) } }

/-- A frame with the own station number that this station did not send (R178, R187). -/
def duplicateFound (s : State) : State :=
  if transmitterOn s.svp.mode then enterSilent (raiseFlag .duplicate s) else raiseFlag .duplicate s

/-- A frame that has passed R176 and R177 (R178, R179). -/
def acceptFrame (k : FrameKind) (f : RxFrame) (s : State) : State :=
  if RxFrame.sender f = s.cfg.station then duplicateFound s else deliverFrame k f (countReceived s)

/-- An assembled frame, with its kind byte, put through the receive checks in order (R176 to R179); nothing is
received in CONFIGURING, nor before the line has been idle (R165). -/
def receiveFrame (kind : Nat) (f : RxFrame) (s : State) : State :=
  if assembling s then
    if f.crc ≠ frameCrc kind f then countCrcError (frameSeen s)
    else
      match kindOfByte kind with
      | some k => if headerOk kind f then acceptFrame k f (frameSeen s) else countMalformed (frameSeen s)
      | none => countMalformed (frameSeen s)
  else s

/-- Meaning of HELM_FRAME (R4, R179). -/
def execHelmFrame (t : Nat) (f : RxFrame) (s : State) : Host.Outcome State Fault Refusal :=
  .next (receiveFrame (FrameKind.code .helm) f (setClock t s))

/-- Meaning of STATUS_FRAME (R3, R179). -/
def execStatusFrame (t : Nat) (f : RxFrame) (s : State) : Host.Outcome State Fault Refusal :=
  .next (receiveFrame (FrameKind.code .status) f (setClock t s))

/-- Meaning of ALERT_FRAME (R3, R179). -/
def execAlertFrame (t : Nat) (f : RxFrame) (s : State) : Host.Outcome State Fault Refusal :=
  .next (receiveFrame (FrameKind.code .alert) f (setClock t s))

/-- Meaning of FUEL_FRAME (R4, R179). -/
def execFuelFrame (t : Nat) (f : RxFrame) (s : State) : Host.Outcome State Fault Refusal :=
  .next (receiveFrame (FrameKind.code .fuel) f (setClock t s))

/-- Meaning of MALFORMED (R177): a frame with a kind byte of its own. -/
def execMalformed (t : Nat) (kind : Byte) (f : RxFrame) (s : State) : Host.Outcome State Fault Refusal :=
  .next (receiveFrame kind.toNat f (setClock t s))

/-- Meaning of DUPLICATE (R178). -/
def execDuplicate (t : Nat) (k : FrameKind) (f : RxFrame) (s : State) : Host.Outcome State Fault Refusal :=
  .next (receiveFrame (FrameKind.code k) f (setClock t s))

/-- The part of a frame that a receiver switched on or restarted in mid-frame saw fails its check: counted once, while the
receiver goes on ignoring the line until it next sees it idle (R165, R176; notes/assumptions/6.md). -/
def failPart (s : State) : State := countCrcError { s with lif := { s.lif with midFrame := false } }

/-- What each framing or completeness fault brings about: the frame is discarded and counted once, and nothing more is
assembled or counted until the line has been idle (R176); so too the part of a frame that a receiver switched on in mid-frame
saw (R176). -/
def discardFrame (_cause : RxFault) (s : State) : State :=
  if assembling s then countCrcError (frameSeen s)
  else if receiverOn s.svp.mode && s.lif.midFrame then failPart s
  else s

/-- Meaning of CRC_ERROR (R176). -/
def execCrcError (t : Nat) (cause : RxFault) (s : State) : Host.Outcome State Fault Refusal :=
  .next (discardFrame cause (setClock t s))

/-! ## The line, arbitration, and the end of a transmission (R165, R169 to R175) -/

/-- The line has become idle, until the start bit of another station that may follow: the receiver assembles again, and
the transmitter starts a frame where it may (R165, R170, R176). -/
def lineBecomesIdle (otherStart : Option Nat) (s : State) : State :=
  if receiverOn s.svp.mode && s.lif.tx.isNone then
    tryStart
      { s with
        lif :=
          { s.lif with
            lineIdle := some { since := s.clock, otherStart := otherStart }, awaitIdle := false, midFrame := false } }
  else s

/-- Meaning of LINE_IDLE (R165, R170). -/
def execLineIdle (i : IdleLine) (s : State) : Host.Outcome State Fault Refusal :=
  .next (lineBecomesIdle i.otherStart (setClock i.since s))

/-- Arbitration lost: the station stands back and the slot keeps its frame (R169, R171). -/
def loseArbitration (x : Tx) (s : State) : State :=
  if x.sealed.isSome then s
  else { s with lif := { s.lif with tx := none, arbitrationLosses := sat16 (s.lif.arbitrationLosses + 1) } }

/-- Meaning of ARBITRATION_LOST (R171): acts on a frame in its arbitration field. -/
def execArbitrationLost (t : Nat) (s0 : State) : Host.Outcome State Fault Refusal :=
  let s := setClock t s0
  match s.lif.tx with
  | some x => .next (loseArbitration x s)
  | none => .next s

/-- The frame takes its sequence number, the counter rises, and the CRC is computed over the final contents
(R172). -/
def sealFrame (x : Tx) (s : State) : State :=
  if x.sealed.isSome then s
  else
    let seq := seqOf x.kind s.lif
    let l := setSeq x.kind ((seq + 1) % 256) s.lif
    { s with lif := { l with tx := some { x with sealed := some (seq, crc16 (txHead s.cfg.station x seq)) } } }

/-- Meaning of ARBITRATION_COMPLETE (R172): acts on a frame in its arbitration field. -/
def execArbitrationComplete (t : Nat) (s0 : State) : Host.Outcome State Fault Refusal :=
  let s := setClock t s0
  match s.lif.tx with
  | some x => .next (sealFrame x s)
  | none => .next s

/-- A transmission ends: its slot is emptied if it still holds the frame (R169). -/
def leaveLine (x : Tx) (l : Lif) : Lif :=
  if x.replaced then { l with tx := none } else { setSlot x.kind none l with tx := none }

/-- The own last-sent time recorded, the mute cleared and the SHU told (R173, R24). -/
def recordSend (s : State) : State :=
  shuNotice false
    { s with lif := { s.lif with lastSent := some s.now }, shu := { s.shu with muted := false } }

/-- A frame sent successfully (R173); the next frame begins on the idle line that follows it (R165, R176). -/
def finishSend (x : Tx) (s : State) : State :=
  let l := leaveLine x s.lif
  let ended := { s with lif := { l with awaitIdle := true, runCount := 0, transmittedOk := sat16 (l.transmittedOk + 1) } }
  if carriesStatus x.kind then recordSend ended else ended

/-- Meaning of SENT_SUCCESSFULLY (R173): acts on a frame that has completed its arbitration field. -/
def execSentSuccessfully (t : Nat) (s0 : State) : Host.Outcome State Fault Refusal :=
  let s := setClock t s0
  match s.lif.tx with
  | some x => if x.sealed.isSome then .next (finishSend x s) else .next s
  | none => .next s

/-- The suspension check (R175). -/
def suspendIfDue (s : State) : State :=
  if Config.suspensionRun ≤ s.lif.runCount then
    raiseFlag .lineSuspended
      { s with
        lif :=
          { s.lif with
            runCount := 0, suspensions := sat16 (s.lif.suspensions + 1)
            suspendedAt := some (s.now + Config.suspensionTime) } }
  else s

/-- A transmit error: the frame is abandoned and counted, and the LIF goes on assembling as a receiver (R174). -/
def abandonFrame (x : Tx) (s : State) : State :=
  let l := leaveLine x s.lif
  suspendIfDue
    { s with
      lif := { l with transmitErrors := sat16 (l.transmitErrors + 1), runCount := l.runCount + 1 } }

/-- Meaning of TRANSMIT_ERROR (R174): acts on a frame in transmission. -/
def execTransmitError (t : Nat) (s0 : State) : Host.Outcome State Fault Refusal :=
  let s := setClock t s0
  match s.lif.tx with
  | some x => .next (abandonFrame x s)
  | none => .next s

/-- Meaning of SUSPENSION_EXPIRY (R175): acts when the suspension timer has expired. -/
def execSuspensionExpiry (t : Nat) (s0 : State) : Host.Outcome State Fault Refusal :=
  let s := setClock t s0
  if due s.now s.lif.suspendedAt then .next (tryStart { s with lif := { s.lif with suspendedAt := none } })
  else .next s

/-- An expiry of the status timer: a STATUS is placed, the listening period is over, the timer restarted (R168). -/
def statusExpired (s : State) : State :=
  let placed := placeStatus s
  tryStart
    { placed with
      lif := { placed.lif with listening := false, statusAt := restartTimer s.cfg.statusPeriod s.lif.statusAt } }

/-- Meaning of STATUS_TIMER_EXPIRY (R168): acts when the status timer has expired. -/
def execStatusTimerExpiry (t : Nat) (s0 : State) : Host.Outcome State Fault Refusal :=
  let s := setClock t s0
  if due s.now s.lif.statusAt then .next (statusExpired s) else .next s

end Sys2Proof.Machine
end

