-- ==== Sys2Proof/Machine/StartCheck.lean ====
section
/-!
DEFINITION. The configuration image read as a configuration (11_formats.md, "The Configuration Image"), and the field
check of START in its order (R191, with R86, R110, R140, R156 and the ranges the chapters give).
-/

namespace Sys2Proof.Machine

/-! ## The image as a configuration -/

/-- A number that codes "none" as 0. -/
def optNumber (n : Nat) : Option Nat := if n = 0 then none else some n

/-- The gauge kind a code byte names (an unlisted code fails its check and is read as UNUSED). -/
def kindOfCode (b : Nat) : GaugeKind :=
  match b with
  | 1 => .rpm | 2 => .flow | 3 => .angle | 4 => .load | 5 => .level | 6 => .xferMeter | 7 => .bunkerMeter
  | _ => .unused

/-- The edge a code byte names. -/
def edgeOfCode (b : Nat) : Edge := if b = 1 then .falling else .rising

/-- The safe level a code byte names. -/
def safeOfCode (b : Nat) : SafeLevel :=
  match b with
  | 1 => .high
  | 2 => .float
  | _ => .low

/-- The assignment a code byte and a shaft or winch number name. -/
def assignmentOfCode (b n : Nat) : Assignment :=
  match b with
  | 1 => .governor n | 2 => .clutchAhead n | 3 => .clutchAstern n | 4 => .rudderPort n | 5 => .rudderStbd n
  | 6 => .winchHaul n | 7 => .winchPayout n | 8 => .transferPump | _ => .unused

/-- A shaft item, 81 bytes. -/
def parseShaft (b : List Byte) : ShaftCfg :=
  { rated := u16 b 0, astern := u16 b 2, limited := u16 b 4, rampUp := u16 b 6, rampDown := u16 b 8
    rampEmergency := u16 b 10, dwell := u16 b 12, releaseThreshold := u16 b 14, stopRpm := u16 b 16
    tolerance := u16 b 18, deviationTime := u16 b 20, pulsesPerRev := u16 b 22
    curve := (List.range 17).map fun i => u16 b (24 + 2 * i)
    dutyIdle := u16 b 58, dutyMax := u16 b 60, gRud := u16 b 62, thetaMax := u16 b 64, deadband := u8 b 66
    kp := u16 b 67, minDuty := u16 b 69, stallTime := u16 b 71, dayTank := u8 b 73, kFlow := u32 b 74
    quantum := u8 b 78, specific := u16 b 79 }

/-- A winch item, 39 bytes. -/
def parseWinch (b : List Byte) : WinchCfg :=
  { target := if u8 b 0 = 0 then .tow else .station (u8 b 0)
    partFloor := u16 b 1, tSlack := u16 b 3, tLo := u16 b 5, tMake := u16 b 7, tHi := u16 b 9, tRender := u16 b 11
    partArm := u16 b 13, f0 := u32 b 15, fFs := u32 b 19, tFs := u16 b 23, haulTimeout := u32 b 25
    haulPulse := u16 b 29, releaseWait := u32 b 31, releaseHold := u16 b 35, unsensed := u16 b 37 }

/-- A tank item, 40 bytes.  The top-up source of a STORAGE tank has no effect (R110). -/
def parseTank (b : List Byte) : TankCfg :=
  { role := if u8 b 0 = 1 then .storage else .day
    capacity := u32 b 1, opening := u32 b 5, reserve := u32 b 9, cutoff := u32 b 13, low := u32 b 17
    high := u32 b 21, source := optNumber (u8 b 25), derate := u16 b 26, fEmpty := u32 b 28, fFull := u32 b 32
    tolerance := u32 b 36 }

/-- A gauge channel item, 10 bytes. -/
def parseChan (b : List Byte) : ChanCfg :=
  { kind := kindOfCode (u8 b 0), binding := optNumber (u8 b 1), edge := edgeOfCode (u8 b 2), count := u16 b 3
    interval := u16 b 5, window := u16 b 7, deadCount := u8 b 9 }

/-- A drive line item, 4 bytes. -/
def parseLine (b : List Byte) : LineCfg :=
  { assignment := assignmentOfCode (u8 b 0) (u8 b 1), enabled := decide (u8 b 2 = 1), safe := safeOfCode (u8 b 3) }

/-- The bytes of item `i`, from 0, of a block whose items of `size` bytes begin at `base`. -/
def itemBytes (bs : List Byte) (base size i : Nat) : List Byte := (bs.drop (base + size * i)).take size

/-- The whole image as a configuration. -/
def parseImage (bs : List Byte) : Cfg :=
  { station := u8 bs 0, rank := u8 bs 1, helmCapable := decide (u8 bs 2 = 1), statusPeriod := u16 bs 3
    helmUnits := u8 bs 5, lostCount := u8 bs 6, graceTime := u8 bs 7, fuelPeriod := u8 bs 8, controlStep := u8 bs 9
    lateral := s8 bs 10, gDiff := u16 bs 11, minMade := u8 bs 13, balance := u32 bs 14, reserveLevel := u32 bs 18
    shafts := (List.range (min 3 (u8 bs 22))).map fun i => parseShaft (itemBytes bs 23 81 i)
    winches := (List.range (min 4 (u8 bs 266))).map fun i => parseWinch (itemBytes bs 267 39 i)
    kx := u32 bs 424, kb := u32 bs 428
    tanks := (List.range (min 6 (u8 bs 423))).map fun i => parseTank (itemBytes bs 432 40 i)
    chans := (List.range 24).map fun i => parseChan (itemBytes bs 672 10 i)
    drivePeriod := u8 bs 912, deadZone := u8 bs 913
    lines := (List.range 24).map fun i => parseLine (itemBytes bs 914 4 i) }

/-! ## The field check (R191) -/

/-- One condition of the check with what a failure reports: block, field position, item number. -/
structure Check where
  block : Nat
  field : Nat
  item : Nat
  ok : Bool
deriving DecidableEq, Repr

/-- A range. -/
def within (lo hi x : Nat) : Bool := decide (lo ≤ x) && decide (x ≤ hi)

/-- The STATION block.  Its helm-capable byte is 0 for no and 1 for yes, and any other value fails: R191 gives "No or yes" and
chapter 11 lists no codes for the field, so the codes are the model's choice (notes/assumptions/11.md). -/
def stationChecks (bs : List Byte) : List Check :=
  [ ⟨1, 1, 0, within 1 6 (u8 bs 0)⟩, ⟨1, 2, 0, within 1 6 (u8 bs 1)⟩, ⟨1, 3, 0, within 0 1 (u8 bs 2)⟩,
    ⟨1, 4, 0, within 100 1000 (u16 bs 3)⟩, ⟨1, 5, 0, within 5 50 (u8 bs 5)⟩, ⟨1, 6, 0, within 5 30 (u8 bs 6)⟩,
    ⟨1, 7, 0, within 1 30 (u8 bs 7)⟩, ⟨1, 8, 0, within 1 60 (u8 bs 8)⟩, ⟨1, 9, 0, within 20 200 (u8 bs 9)⟩ ]

/-- The CONVOY block: its minimum made count does not exceed a winch count of 1 or more. -/
def convoyChecks (bs : List Byte) : List Check :=
  [ ⟨2, 1, 0, decide (-30 ≤ s8 bs 10) && decide (s8 bs 10 ≤ 30)⟩, ⟨2, 2, 0, within 0 1000 (u16 bs 11)⟩,
    ⟨2, 3, 0, within 1 4 (u8 bs 13)⟩, ⟨2, 3, 0, decide (u8 bs 266 = 0) || decide (u8 bs 13 ≤ u8 bs 266)⟩,
    ⟨2, 4, 0, within 0 1200000 (u32 bs 14)⟩, ⟨2, 5, 0, within 0 1200000 (u32 bs 18)⟩ ]

/-- A curve is non-decreasing. -/
def nonDecreasing : List Nat → Bool
  | x :: y :: l => decide (x ≤ y) && nonDecreasing (y :: l)
  | _ => true

/-- Curve non-decreasing with T[16] above T[0] (R59). -/
def curveOk (l : List Nat) : Bool := nonDecreasing l && decide (l.getD 0 0 < l.getD 16 0)

/-- One shaft item, number `n`. -/
def shaftItemChecks (n : Nat) (c : ShaftCfg) : List Check :=
  [ ⟨3, 1, n, within 50 4000 c.rated⟩, ⟨3, 2, n, within 0 1000 c.astern⟩, ⟨3, 3, n, within 300 1000 c.limited⟩,
    ⟨3, 4, n, within 10 4000 c.rampUp⟩, ⟨3, 5, n, within 10 4000 c.rampDown⟩,
    ⟨3, 6, n, decide (c.rampEmergency ≤ 20000)⟩, ⟨3, 6, n, decide (c.rampDown ≤ c.rampEmergency)⟩,
    ⟨3, 7, n, within 1000 15000 c.dwell⟩, ⟨3, 8, n, decide (c.releaseThreshold ≤ c.rated)⟩,
    ⟨3, 9, n, within 50 1000 c.stopRpm⟩, ⟨3, 9, n, decide (c.stopRpm < c.curve.getD 0 0)⟩,
    ⟨3, 10, n, within 10 500 c.tolerance⟩, ⟨3, 11, n, within 500 30000 c.deviationTime⟩,
    ⟨3, 12, n, within 1 256 c.pulsesPerRev⟩, ⟨3, 13, n, curveOk c.curve⟩, ⟨3, 14, n, within 0 1000 c.dutyIdle⟩,
    ⟨3, 14, n, decide (c.dutyIdle < c.dutyMax ∧ c.dutyMax ≤ 1000)⟩,
    ⟨3, 16, n, within 0 1500 c.gRud⟩, ⟨3, 17, n, within 50 450 c.thetaMax⟩, ⟨3, 18, n, within 2 100 c.deadband⟩,
    ⟨3, 19, n, within 1 1000 c.kp⟩, ⟨3, 20, n, within 0 1000 c.minDuty⟩, ⟨3, 21, n, within 500 30000 c.stallTime⟩,
    ⟨3, 22, n, within 1 6 c.dayTank⟩, ⟨3, 23, n, within 1 100000 c.kFlow⟩, ⟨3, 24, n, within 1 100 c.quantum⟩,
    ⟨3, 25, n, within 50 500 c.specific⟩ ]

/-- Checks of items numbered from `n`. -/
def itemChecks {α : Type} (f : Nat → α → List Check) : Nat → List α → List Check
  | _, [] => []
  | n, x :: xs => f n x ++ itemChecks f (n + 1) xs

/-- The SHAFTS block. -/
def shaftChecks (bs : List Byte) (c : Cfg) : List Check :=
  ⟨3, 1, 0, within 1 3 (u8 bs 22)⟩ :: itemChecks shaftItemChecks 1 c.shafts

/-- A winch's target: TOW, or a station 1 to 6 other than the own one (R86). -/
def targetOk (own : Nat) : Target → Bool
  | .tow => true
  | .station n => within 1 6 n && decide (n ≠ own)

/-- One winch item (R83, R84, R86). -/
def winchItemChecks (own n : Nat) (c : WinchCfg) : List Check :=
  [ ⟨4, 1, n, targetOk own c.target⟩,
    ⟨4, 2, n, decide (c.partFloor < c.tSlack ∧ c.tSlack < c.tLo ∧ c.tLo < c.tMake ∧ c.tMake < c.tHi ∧ c.tHi < c.tRender)⟩,
    ⟨4, 4, n, decide (c.tLo < c.partArm ∧ c.partArm < c.tRender)⟩, ⟨4, 7, n, decide (c.tRender ≤ c.tFs)⟩,
    ⟨4, 9, n, decide (c.f0 < c.fFs ∧ c.fFs ≤ 10000000)⟩, ⟨4, 11, n, within 10 20000 c.tFs⟩,
    ⟨4, 12, n, within 5000 600000 c.haulTimeout⟩, ⟨4, 13, n, within 100 5000 c.haulPulse⟩,
    ⟨4, 14, n, within 1000 120000 c.releaseWait⟩, ⟨4, 15, n, within 500 60000 c.releaseHold⟩,
    ⟨4, 16, n, within 500 1000 c.unsensed⟩ ]

/-- How many channels of a kind are bound to an item. -/
def boundCount (k : GaugeKind) (b : Option Nat) (c : Cfg) : Nat :=
  (c.chans.filter fun x => decide (x.kind = k ∧ x.binding = b)).length

/-- How many lines have an assignment. -/
def lineCount (a : Assignment) (c : Cfg) : Nat := (c.lines.filter fun x => decide (x.assignment = a)).length

/-- The WINCHES block.  A haul or pay-out line that a winch has twice, or not at all, fails here with field 0 and the
winch number: the model's reading of R86's "one drive line" (notes/assumptions/11.md). -/
def winchChecks (bs : List Byte) (c : Cfg) : List Check :=
  ⟨4, 1, 0, within 0 4 (u8 bs 266)⟩ :: itemChecks (winchItemChecks c.station) 1 c.winches ++
    (numbers c.winches.length).map (fun n => ⟨4, 0, n, decide (boundCount .load (some n) c = 1)⟩) ++
    (numbers c.winches.length).map fun n =>
      ⟨4, 0, n, decide (lineCount (.winchHaul n) c = 1 ∧ lineCount (.winchPayout n) c = 1)⟩

/-- A top-up source, if given, is another configured tank (R110). -/
def sourceOk (count n : Nat) : Option Nat → Bool
  | some s => within 1 count s && decide (s ≠ n)
  | none => true

/-- One tank item, with its role's code byte (R109, R110). -/
def tankItemChecks (count n : Nat) (rc : Nat × TankCfg) : List Check :=
  let c := rc.2
  let storage := decide (c.role = .storage)
  [ ⟨5, 1, n, within 0 1 rc.1⟩, ⟨5, 2, n, within 1000 200000000 c.capacity⟩,
    ⟨5, 3, n, decide (c.opening ≤ c.capacity)⟩, ⟨5, 5, n, decide (c.cutoff < c.high ∧ c.high ≤ c.capacity)⟩,
    ⟨5, 5, n, storage || decide (c.cutoff < c.reserve ∧ c.reserve ≤ c.low ∧ c.low < c.high)⟩,
    ⟨5, 8, n, storage || sourceOk count n c.source⟩, ⟨5, 9, n, storage || within 200 1000 c.derate⟩,
    ⟨5, 12, n, decide (c.tolerance ≤ c.capacity)⟩ ]

/-- The tank of a number is a DAY tank. -/
def isDayTank (n : Nat) (c : Cfg) : Bool :=
  match getN c.tanks n with
  | some t => decide (t.role = .day)
  | none => false

/-- The TANKS block; B exceeds Rv here (R110, R191). -/
def tankChecks (bs : List Byte) (c : Cfg) : List Check :=
  let roles := (List.range c.tanks.length).map fun i => u8 (itemBytes bs 432 40 i) 0
  ⟨5, 1, 0, within 1 6 (u8 bs 423)⟩ :: ⟨5, 2, 0, within 1 100000 c.kx⟩ :: ⟨5, 3, 0, within 1 100000 c.kb⟩ ::
    itemChecks (tankItemChecks c.tanks.length) 1 (List.zip roles c.tanks) ++
    itemChecks (fun n s => [⟨5, 0, n, isDayTank s.dayTank c⟩]) 1 c.shafts ++
    [⟨5, 0, 0, decide (c.reserveLevel < c.balance)⟩]

/-- A binding names a configured item of the kind's sort, or none where the kind has none (R140). -/
def bindingOk (c : Cfg) (k : GaugeKind) (b : Nat) : Bool :=
  match k with
  | .rpm | .flow | .angle => within 1 c.shafts.length b
  | .load => within 1 c.winches.length b
  | .level => within 1 c.tanks.length b
  | .xferMeter | .bunkerMeter | .unused => decide (b = 0)

/-- One gauge channel item, from its bytes (R138, R140). -/
def chanItemChecks (c : Cfg) (n : Nat) (b : List Byte) : List Check :=
  let k := kindOfCode (u8 b 0)
  let free := decide (k = .unused)
  [ ⟨6, 1, n, within 0 7 (u8 b 0)⟩, ⟨6, 2, n, bindingOk c k (u8 b 1)⟩, ⟨6, 3, n, within 0 1 (u8 b 2)⟩,
    ⟨6, 3, n, decide (k ≠ .angle) || decide (u8 b 2 = 0)⟩, ⟨6, 4, n, free || within 1 4096 (u16 b 3)⟩,
    ⟨6, 5, n, free || within 10 60000 (u16 b 5)⟩, ⟨6, 6, n, free || within 5 10000 (u16 b 7)⟩,
    ⟨6, 7, n, free || within 1 8 (u8 b 9)⟩ ]

/-- One channel of a kind for each shaft. -/
def perShaft (k : GaugeKind) (c : Cfg) : List Check :=
  (numbers c.shafts.length).map fun n => ⟨6, 0, n, decide (boundCount k (some n) c = 1)⟩

/-- At most one LEVEL channel for a tank, with its calibration (R110); both are reported with field 0 and the tank number,
the model's choice for the calibration (notes/assumptions/11.md). -/
def levelOk (c : Cfg) (n : Nat) (t : TankCfg) : Bool :=
  let bound := boundCount .level (some n) c
  decide (bound ≤ 1) && (decide (bound = 0) || decide (t.fEmpty < t.fFull ∧ t.fFull ≤ 500000))

/-- At most one item satisfies `p`: every further one fails with its own number. -/
def atMostOne {α : Type} (block : Nat) (p : α → Bool) : Nat → Bool → List α → List Check
  | _, _, [] => []
  | n, seen, x :: xs => ⟨block, 0, n, !(seen && p x)⟩ :: atMostOne block p (n + 1) (seen || p x) xs

/-- The GAUGES block (R140, R110). -/
def gaugeChecks (bs : List Byte) (c : Cfg) : List Check :=
  itemChecks (chanItemChecks c) 1 ((List.range 24).map fun i => itemBytes bs 672 10 i) ++
    perShaft .rpm c ++ perShaft .flow c ++ perShaft .angle c ++
    itemChecks (fun n t => [⟨6, 0, n, levelOk c n t⟩]) 1 c.tanks ++
    atMostOne 6 (fun x => decide (x.kind = .xferMeter)) 1 false c.chans ++
    atMostOne 6 (fun x => decide (x.kind = .bunkerMeter)) 1 false c.chans

/-- The number a drive line item carries is one its assignment may name (R156). -/
def driveNumberOk (c : Cfg) (code n : Nat) : Bool :=
  if within 1 5 code then within 1 c.shafts.length n
  else if within 6 7 code then within 1 c.winches.length n
  else true

/-- One drive line item, from its bytes (R155, R156).  An assignment that names a shaft or winch not configured fails at the
number, field 2: the model's choice, which neither R156 nor R191 makes (notes/assumptions/11.md). -/
def lineItemChecks (c : Cfg) (n : Nat) (b : List Byte) : List Check :=
  [ ⟨7, 1, n, within 0 8 (u8 b 0)⟩, ⟨7, 2, n, driveNumberOk c (u8 b 0) (u8 b 1)⟩, ⟨7, 3, n, within 0 1 (u8 b 2)⟩,
    ⟨7, 4, n, within 0 2 (u8 b 3)⟩ ]

/-- No assignment other than UNUSED is given to more than one line: each later line fails with its own number. -/
def noneTwice : Nat → List Assignment → List LineCfg → List Check
  | _, _, [] => []
  | n, seen, x :: xs =>
    ⟨7, 0, n, decide (x.assignment = .unused) || !seen.contains x.assignment⟩ ::
      noneTwice (n + 1) (x.assignment :: seen) xs

/-- A shaft has one line of each of its five assignments (R156). -/
def fiveLines (c : Cfg) (s : Nat) : Bool :=
  [Assignment.governor s, .clutchAhead s, .clutchAstern s, .rudderPort s, .rudderStbd s].all fun a =>
    decide (lineCount a c = 1)

/-- The DRIVES block (R156, R110). -/
def driveChecks (bs : List Byte) (c : Cfg) : List Check :=
  ⟨7, 1, 0, within 1 50 c.drivePeriod⟩ :: ⟨7, 2, 0, within 0 100 c.deadZone⟩ ::
    itemChecks (lineItemChecks c) 1 ((List.range 24).map fun i => itemBytes bs 914 4 i) ++
    noneTwice 1 [] c.lines ++ (numbers c.shafts.length).map (fun s => ⟨7, 0, s, fiveLines c s⟩) ++
    atMostOne 7 (fun x => decide (x.assignment = .transferPump)) 1 false c.lines

/-- Every condition of the field check, in the order it is made (R191). -/
def allChecks (bs : List Byte) : List Check :=
  let c := parseImage bs
  stationChecks bs ++ convoyChecks bs ++ shaftChecks bs c ++ winchChecks bs c ++ tankChecks bs c ++ gaugeChecks bs c ++
    driveChecks bs c

/-- The first condition that fails (R191). -/
def firstFailure (bs : List Byte) : Option Check := (allChecks bs).find? fun k => !k.ok

/-! ## The CRC of the image (R190) -/

/-- The whole image as its 1024 bytes. -/
def wholeImage (m : List Host.Cell) : List Byte := imageBytes Config.imageLength 0 m

/-- CRC-16 over every byte before the trailer. -/
def computedCrc (bs : List Byte) : BitVec 16 := crc16 (bs.take 1022)

/-- The trailer, high byte first. -/
def trailerOf (bs : List Byte) : Nat := u16 bs 1022

end Sys2Proof.Machine
end

