-- ==== Sys2Proof/Machine/Start.lean ====
section
/-!
DEFINITION. START, RESTART, and the two resets (R190 to R193, R199, and the reset rules of every block).
-/

namespace Sys2Proof.Machine

/-! ## Gauge requests at START and RESTART (R153, R154) -/

/-- A channel in use joins the queue and its interval timer is started. -/
def startChan (s : State) (n : Nat) : State :=
  match getN s.cfg.chans n with
  | some k =>
    if inUse k then joinQueue n (modChan n (fun c => { c with intervalAt := some (s.now + k.interval) }) s) else s
  | none => s

/-- Every channel in use joins in ascending number; then the engines take (R153, R154). -/
def startChans (s : State) : State := takeAll ((numbers 24).foldl startChan s)

/-! ## START (R192) -/

/-- The SVP, LIF, CVU and DLU at START: configuration in force, JOINING, join timer, status timer and listening
period, the receiver switched on, perhaps in mid-frame, and waiting for an idle line, nominal sums, period timer (R157, R165, R168, R186, R192,
R9). -/
def startBase (c : Cfg) (s : State) : State :=
  keepSums
    { s with
      cfg := c
      svp := { s.svp with mode := .joining, joinAt := some (s.now + c.lostTime) }
      lif :=
        { s.lif with
          statusAt := some (s.now + c.statusPeriod), listening := true, awaitIdle := true, midFrame := true }
      dlu := { s.dlu with periodAt := some (s.now + c.drivePeriod) } }

/-- A shaft record at START (R64): the commanded rpm and duty of P = 0, control-step timer started. -/
def startShaft (now step : Nat) (c : ShaftCfg) : Shaft := retune c { stepAt := some (now + step) }

/-- The records of the SFC, STC, CPC and FAU at START, one for each configured item (R45, R65, R83, R109, R114,
R136 step 1). -/
def startRecords (s : State) : State :=
  { s with
    sfc := s.cfg.shafts.map (startShaft s.now s.cfg.controlStep)
    stc := { s.stc with rudders := s.cfg.shafts.map fun _ => {}, ownNominal := s.cfg.nominalAuthority }
    cpc := { s.cpc with winches := s.cfg.winches.map fun _ => {} }
    fau :=
      { s.fau with
        tanks := s.cfg.tanks.map fun t => { raw := (t.opening : Int) }
        burns := s.cfg.shafts.map fun _ => {}
        fuelAt := some (s.now + s.cfg.fuelPeriod * 1000) } }

/-- The first writes: each governor line its idle duty, each winch line 0 (R60, R108, R164). -/
def firstWrites (s : State) : State :=
  (numbers s.cpc.winches.length).foldl (fun q n => writeWinch n q)
    ((numbers s.sfc.length).foldl (fun q n => writeGovernor n q) s)

/-- The FAU at START: bands reported, own aboard and φ, top-up check (R136 steps 2 to 5). -/
def startFuel (s : State) : State := topUp (weightStep ((numbers s.fau.tanks.length).foldl (fun q n => bandStep n q) s))

/-- START accepted: the configuration in force and every block's start-up (R192). -/
def startUp (c : Cfg) (s : State) : State :=
  startChans (startFuel (stcNotice (settle false (shuNotice true (firstWrites (startRecords (startBase c s)))))))

/-- Reply data of CRC_MISMATCH: the computed CRC, then the trailer (R190, R201). -/
def crcReply (bs : List Byte) : List Byte := be 2 (computedCrc bs).toNat ++ be 2 (trailerOf bs)

/-- START answered in CONFIGURING (R190 to R192). -/
def startAnswer (s : State) : State :=
  let bs := wholeImage s.svp.image
  if (computedCrc bs).toNat ≠ trailerOf bs then refuseWith .crcMismatch (crcReply bs) s
  else
    match firstFailure bs with
    | some k => refuseWith .configInvalid (be 1 k.block ++ be 1 k.field ++ be 1 k.item) s
    | none => okAfter (startUp (parseImage bs)) s

/-- Meaning of START (R190). -/
def execStart (t : Nat) (s0 : State) : Host.Outcome State Fault Refusal :=
  let s := setClock t s0
  .next (if configuring s then startAnswer s else replyStatus .notNow s)

/-! ## RESTART (R193) -/

/-- The LIF after RESTART (R182): a frame being assembled is discarded and the receiver waits for idle, as after
START: an idle line is reported by LINE_IDLE (notes/assumptions/6.md). -/
def restartLine (now : Nat) (c : Cfg) (l : Lif) : Lif :=
  { lineIdle := none, awaitIdle := true, midFrame := true, seqAlert := l.seqAlert, seqHelm := l.seqHelm, seqStatus := l.seqStatus
    seqFuel := l.seqFuel, statusAt := some (now + c.statusPeriod), listening := true }

/-- The CVU after RESTART: only the own order number is kept (R22). -/
def restartView (v : Cvu) : Cvu := { ownOrder := v.ownOrder }

/-- The SHU after RESTART, before contributing is evaluated: departing no, muted, no shortfall, E, S and S' of 0
(R44, R24, R25). -/
def restartShare (u : Shu) : Shu :=
  { contributing := u.contributing, cAhead := u.cAhead, cAstern := u.cAstern, phi := u.phi }

/-- A gauge channel record after RESTART: health and last outcome are kept (R154). -/
def restartChan (c : Chan) : Chan := { health := c.health, last := c.last }

/-- The SVP, LIF, CVU and SHU at RESTART, the gauges abandoned, and a pull-off ended RESTARTED (R22, R44, R101,
R154, R182, R193). -/
def restartBase (s : State) : State :=
  keepSums
    (endPullOff .restarted
      { s with
        svp := { s.svp with mode := .joining, startCause := .restart, joinAt := some (s.now + s.cfg.lostTime) }
        lif := restartLine s.now s.cfg s.lif
        cvu := restartView s.cvu
        shu := restartShare s.shu
        pgu := { chans := s.pgu.chans.map restartChan } })

/-- A transfer and a bunkering in flight end with reason RESTART, and the top-up check is made (R137). -/
def restartFuel (s : State) : State :=
  let s1 := if s.fau.transfer.running then stopTransfer .restart s else s
  topUp (if s1.fau.bunker.running then endBunker .restart s1 else s1)

/-- RESTART acted on (R193): the view is empty, the SHU, STC, CPC and FAU are told, the gauges begin again. -/
def restartAll (s : State) : State :=
  startChans (restartFuel (fuelTotals (settle false (stcNotice (shuNotice true (restartBase s))))))

/-- Meaning of RESTART (R193). -/
def execRestart (t : Nat) (s : State) : Host.Outcome State Fault Refusal :=
  .next (inService (okAfter restartAll) (setClock t s))

/-! ## The resets (R185, R188, R199) -/

/-- The state after a reset with its cause and the strap pins: every block as reset leaves it.  The queue of waiting
commands, and the model's counter of choices, are not the part's. -/
def afterReset (c : StartCause) (straps : BitVec 2) (s : State) : State :=
  { State.reset with
    pending := s.pending, draws := s.draws
    svp := { State.reset.svp with startCause := c, straps := straps } }

/-- Meaning of POWER_ON (R199). -/
def execPowerOn (straps : BitVec 2) (s : State) : Host.Outcome State Fault Refusal := .next (afterReset .powerOn straps s)

/-- Meaning of PIN_RESET (R185, R199). -/
def execPinReset (straps : BitVec 2) (s : State) : Host.Outcome State Fault Refusal := .next (afterReset .pin straps s)

end Sys2Proof.Machine
end

