-- ==== Sys2Proof/Machine/Port.lean ====
section
/-!
DEFINITION. The service port's own requests (chapter 10): writes broken off and ill-formed, CONFIG_WRITE, PANEL and
the panel timeout, DEPART, CLEAR_ATTENTION.
-/

namespace Sys2Proof.Machine

/-! ## Writes (R183, R184, R189) -/

/-- Meaning of WRITE_BROKEN_OFF (R183): the write is discarded, no request is taken, the reply is unchanged. -/
def execWriteBrokenOff (t : Nat) (s : State) : Host.Outcome State Fault Refusal := .next (setClock t s)

/-- A write answered BAD_REQUEST, with no effect of any kind; a write of the address alone is no request, and a write
that spells a request is not this command (R183, R184). -/
def badWrite (t : Nat) (bytes : List Byte) (s : State) : State :=
  if bytes = [] then s else if (decodeRequest t bytes).isSome then s else replyStatus .badRequest s

/-- Meaning of BAD_REQUEST (R184). -/
def execBadRequest (t : Nat) (bytes : List Byte) (s : State) : Host.Outcome State Fault Refusal :=
  .next (badWrite t bytes (setClock t s))

/-- Bytes written into the image at an offset. -/
def writeImage (offset : Nat) (data : List Byte) (s : State) : State :=
  { s with svp := { s.svp with image := imageWrite s.svp.image offset data } }

/-- CONFIG_WRITE answered (R184, R189, R201). -/
def configAnswer (offset : Nat) (data : List Byte) (s : State) : State :=
  if data = [] ∨ 32 < data.length then replyStatus .badRequest s
  else if configuring s = false then replyStatus .notNow s
  else if Config.imageLength < offset + data.length then refuse .offset s
  else okAfter (writeImage offset data) s

/-- Meaning of CONFIG_WRITE (R189, R201): the offset is the page × 32. -/
def execConfigWrite (t : Nat) (page : BitVec 7) (data : List Byte) (s : State) : Host.Outcome State Fault Refusal :=
  .next (configAnswer (page.toNat * 32) data (setClock t s))

/-! ## The panel record (R194, R195) -/

/-- The panel fields a PANEL request carries (R194, 11_formats.md). -/
def panelOf (lever tiller : BitVec 16) (flags release remake : Byte) : Panel :=
  { lever := clampInt (-1000) 1000 lever.toInt
    tiller := clampInt (-350) 350 tiller.toInt
    takeCommand := flags.getLsbD 0
    localMode := flags.getLsbD 1
    releaseSet := stationSet release
    remakeSet := stationSet remake
    releaseOwn := flags.getLsbD 2
    remakeOwn := flags.getLsbD 3
    partedAck := flags.getLsbD 4 }

/-- The panel fields after a panel timeout (R194). -/
def panelTimedOut (p : Panel) : Panel :=
  { localMode := p.localMode, releaseSet := p.releaseSet, remakeSet := p.remakeSet }

/-- First part of a hand-on: lever and local mode to the SHU, tiller and local mode to the STC, lever and tiller to
the CVU for the effective order while self is followed.  `own` is false at a panel timeout, whose zeros do not enter
the effective order (R18, R195). -/
def handOnLever (old new : Panel) (own : Bool) (s : State) : State :=
  let s1 := if old.lever ≠ new.lever ∨ old.localMode ≠ new.localMode then shuNotice true s else s
  let s2 := if old.tiller ≠ new.tiller ∨ old.localMode ≠ new.localMode then stcNotice s1 else s1
  if own = true ∧ (old.lever ≠ new.lever ∨ old.tiller ≠ new.tiller) ∧ s2.cvu.followed = some s2.cfg.station then
    takeEffective new.lever new.tiller s2
  else s2

/-- Take-command to the CVU (R10, R14). -/
def handOnClaim (old new : Panel) (s : State) : State := if old.takeCommand = new.takeCommand then s else reselect s

/-- A change of either set to the CVU (R12). -/
def handOnSets (old new : Panel) (s : State) : State :=
  if old.releaseSet = new.releaseSet ∧ old.remakeSet = new.remakeSet then s else advanceOrder s

/-- Release-own passing either way, to the CPC (R98). -/
def handOnRelease (old new : Panel) (s : State) : State :=
  if old.releaseOwn = new.releaseOwn then s
  else if new.releaseOwn then releaseRequest .panel s else withdrawRelease .panel s

/-- Parted-acknowledge, then release-own, then remake-own, to the CPC (R92, R98, R104). -/
def handOnCouplings (old new : Panel) (s : State) : State :=
  let s1 := if !old.partedAck && new.partedAck then panelAcknowledge s else s
  let s2 := handOnRelease old new s1
  if !old.remakeOwn && new.remakeOwn then remakeOwn s2 else s2

/-- Each field that differs handed on, in the order of R194. -/
def handOnPanel (old new : Panel) (own : Bool) (s : State) : State :=
  handOnCouplings old new (handOnSets old new (handOnClaim old new (handOnLever old new own s)))

/-- A PANEL request taken (R194). -/
def takePanel (new : Panel) (s : State) : State :=
  handOnPanel s.svp.panel new true
    { s with
      svp :=
        { s.svp with panel := new, panelState := .current, panelAt := some (s.now + Config.panelTimeout) } }

/-- Meaning of PANEL (R194). -/
def execPanel (t : Nat) (lever tiller : BitVec 16) (flags release remake : Byte) (s : State) :
    Host.Outcome State Fault Refusal :=
  .next (inService (okAfter (takePanel (panelOf lever tiller flags release remake))) (setClock t s))

/-- The panel record times out (R195). -/
def timeOutPanel (s : State) : State :=
  handOnPanel s.svp.panel (panelTimedOut s.svp.panel) false
    (raiseFlag .panelLost
      { s with
        svp := { s.svp with panel := panelTimedOut s.svp.panel, panelState := .timedOut, panelAt := none } })

/-- Meaning of PANEL_TIMEOUT (R195): acts while the record is CURRENT, when its timeout has expired. -/
def execPanelTimeout (t : Nat) (s0 : State) : Host.Outcome State Fault Refusal :=
  let s := setClock t s0
  if s.svp.panelState = .current ∧ due s.now s.svp.panelAt = true then .next (timeOutPanel s) else .next s

/-! ## Departure and attention flags (R196, R197) -/

/-- The departing flag becomes yes (R25, R197). -/
def setDeparting (s : State) : State := shuNotice false { s with shu := { s.shu with departing := true } }

/-- Meaning of DEPART (R197). -/
def execDepart (t : Nat) (s : State) : Host.Outcome State Fault Refusal :=
  .next (inService (okAfter setDeparting) (setClock t s))

/-- The flags still set, as a two-byte mask. -/
def flagBytes (s : State) : List Byte := be 2 s.svp.flags.toNat

/-- CLEAR_ATTENTION answered: OK in every mode, with the flags still set (R196). -/
def clearAnswer (mask : BitVec 16) (s : State) : State := replyOk (flagBytes (clearFlags mask s)) (clearFlags mask s)

/-- Meaning of CLEAR_ATTENTION (R196). -/
def execClearAttention (t : Nat) (mask : BitVec 16) (s : State) : Host.Outcome State Fault Refusal :=
  .next (clearAnswer mask (setClock t s))

end Sys2Proof.Machine
end

