-- ==== Sys2Proof/Machine/Reports.lean ====
section
/-!
DEFINITION. The READ requests (R1, R45, R65, R83, R109, R132, R138, R162, R198): the data of each reply, encoded as
R201 gives.  An absent optional field is its presence byte 0 followed by zeros in the field's place, as READ_JOURNAL's
layout shows it (notes/assumptions/9.md); field order and widths not written out in 11_formats.md are those of
notes/assumptions/10.md.
-/

namespace Sys2Proof.Machine

/-! ## Encodings (R201) -/

/-- An optional number of `w` bytes. -/
def optBytes (w : Nat) (x : Option Nat) : List Byte := beBool x.isSome ++ be w (x.getD 0)

/-- An optional signed number of `w` bytes. -/
def optIntBytes (w : Nat) (x : Option Int) : List Byte := beBool x.isSome ++ beInt w (x.getD 0)

/-- A number in a 4-byte field for which the spec gives no upper bound; what the field carries for a value that does not
fit is open (Config.fieldOverflow, notes/assumptions/31.md). -/
def wide (x : Nat) : List Byte := be 4 (if x < 2 ^ 32 then x else (Config.fieldOverflow x).toNat)

/-- A signed volume in a 4-byte field, likewise open where it does not fit (notes/assumptions/31.md). -/
def wideInt (x : Int) : List Byte :=
  if -(2 ^ 31) ≤ x ∧ x < 2 ^ 31 then beInt 4 x else be 4 (Config.fieldOverflow x).toNat

/-- A time stamp on the station timebase. -/
def stampBytes (t : Nat) : List Byte := be 6 t

/-- Time left to an expiry; one that has passed is carried as 0. -/
def leftBytes (now e : Nat) : List Byte := be 4 (e - now)

/-- Time left on a timer that may be idle. -/
def timerBytes (now : Nat) (e : Option Nat) : List Byte := optBytes 4 (e.map (· - now))

/-- A list preceded by its count byte. -/
def listBytes {α : Type} (f : α → List Byte) (l : List α) : List Byte := be 1 l.length ++ l.flatMap f

/-- A two-byte mask, bit 0 for the first condition. -/
def maskBytes (l : List Bool) : List Byte := be 2 (l.foldr (fun b acc => (if b then 1 else 0) + 2 * acc) 0)

/-- Code of a direction: AHEAD, ASTERN, none, in the order of R35 and R45. -/
def wayCode : Option Way → Nat
  | some .ahead => 0
  | some .astern => 1
  | none => 2

/-! ## READ_STATION (R198) -/

/-- Codes of the start cause (R188), panel state (R194), claim state (R10) and helm state (R17). -/
def causeCode : StartCause → Nat
  | .powerOn => 0 | .pin => 1 | .restart => 2

/-- Code of the panel state. -/
def panelCode : PanelState → Nat
  | .absent => 0 | .current => 1 | .timedOut => 2

/-- Code of the own claim state. -/
def claimCode : Claim → Nat
  | .notClaiming => 0 | .claiming => 1 | .shadowed => 2

/-- Code of the helm state. -/
def helmCode : HelmState → Nat
  | .following => 0 | .grace => 1 | .noHelm => 2

/-- Station group. -/
def stationGroup (s : State) : List Byte :=
  be 1 s.cfg.station ++ be 1 (modeCode s.svp.mode) ++ be 1 (causeCode s.svp.startCause) ++ be 4 s.stationTime ++
    timerBytes s.now s.svp.joinAt ++ flagBytes s

/-- Panel group. -/
def panelGroup (s : State) : List Byte :=
  let p := s.svp.panel
  beInt 2 p.lever ++ beInt 2 p.tiller ++ beBool p.takeCommand ++ beBool p.localMode ++ setByte p.releaseSet ++
    setByte p.remakeSet ++ beBool p.releaseOwn ++ beBool p.remakeOwn ++ beBool p.partedAck ++
    be 1 (panelCode s.svp.panelState) ++ timerBytes s.now s.svp.panelAt

/-- Helm group. -/
def helmGroup (s : State) : List Byte :=
  let v := s.cvu
  be 1 (claimCode v.claim) ++ be 1 (v.followed.getD 0) ++ be 1 (helmCode v.helmState) ++ beInt 2 v.effD ++
    beInt 2 v.effDelta ++ timerBytes s.now v.graceAt ++ be 1 v.ownOrder ++
    optBytes 1 (v.baseline.map (·.claimant)) ++ optBytes 1 v.lastActed

/-- Code of the shortfall state: R37 lists yes, then no (R201). -/
def shortfallCode (shortfall : Bool) : Nat := if shortfall then 0 else 1

/-- Sums and share group; the conditions of contributing that fail are a mask in the order of R23. -/
def shareGroup (s : State) : List Byte :=
  let u := s.shu
  be 4 s.cvu.powerNom ++ be 4 s.cvu.rudderNom ++ be 2 s.stc.k ++ beBool u.contributing ++
    maskBytes ((contributingConditions s).map (!·)) ++ beBool u.departing ++ be 4 u.demand ++
    be 1 (wayCode u.demandWay) ++ be 2 u.share ++ be 2 u.biased ++ be 1 (shortfallCode u.shortfall) ++ be 4 u.deficit

/-- Occupancy of a slot: empty, waiting, in transmission (R169). -/
def slotCode (k : FrameKind) (l : Lif) : Nat :=
  match slotOf k l, l.tx with
  | none, _ => 0
  | some _, some x => if x.kind = k ∧ x.replaced = false then 2 else 1
  | some _, none => 1

/-- Line group (R181).  That the slots and the own sequence counters stand in the order ALERT, HELM, STATUS, FUEL, as fields of
their own with no count byte, is the model's choice (notes/assumptions/10.md). -/
def lineGroup (s : State) : List Byte :=
  let l := s.lif
  be 2 l.receivedOk ++ be 2 l.crcErrors ++ be 2 l.malformed ++ be 2 l.transmittedOk ++ be 2 l.transmitErrors ++
    be 2 l.arbitrationLosses ++ be 2 l.suspensions ++ be 1 l.runCount ++ beBool l.suspendedAt.isSome ++
    timerBytes s.now l.suspendedAt ++ be 1 (slotCode .alert l) ++ be 1 (slotCode .helm l) ++
    be 1 (slotCode .status l) ++ be 1 (slotCode .fuel l) ++ be 1 l.seqAlert ++ be 1 l.seqHelm ++ be 1 l.seqStatus ++
    be 1 l.seqFuel ++ beBool l.listening ++ optBytes 6 l.lastSent

/-- Reply data of READ_STATION. -/
def stationData (s : State) : List Byte :=
  stationGroup s ++ panelGroup s ++ helmGroup s ++ shareGroup s ++ be 1 (summaryCode s.cpc.summary) ++
    beBool s.cpc.parted ++ lineGroup s

/-! ## READ_PEERS (R1, R198) -/

/-- Code of a peer state. -/
def peerCode : PeerState → Nat
  | .live => 0 | .stale => 1 | .lost => 2

/-- A STATUS part as an optional group. -/
def statusPartBytes (x : Option StatusPart) : List Byte :=
  let st := x.getD
    { mode := .configuring, contributing := false, summary := .free, parted := false, departing := false, rated := 0
      cAhead := 0, cAstern := 0, phi := 0, rNom := 0, rLive := 0, dirs := [], followed := none }
  beBool x.isSome ++ be 1 (modeCode st.mode) ++ beBool st.contributing ++ be 1 (summaryCode st.summary) ++
    beBool st.parted ++ beBool st.departing ++ be 2 st.rated ++ be 2 st.cAhead ++ be 2 st.cAstern ++ be 2 st.phi ++
    be 2 st.rNom ++ be 2 st.rLive ++ listBytes (fun d => be 1 (dirCode d)) st.dirs ++ be 1 (st.followed.getD 0)

/-- A helm part as an optional group; the helm period takes its width in a HELM frame, one byte of 10 ms units
(11_formats.md, R201). -/
def helmPartBytes (x : Option HelmPart) : List Byte :=
  let h := x.getD
    { rank := 0, period := 0, yielded := false, d := 0, delta := 0, order := 0, releaseSet := [], remakeSet := []
      lastHelm := 0 }
  beBool x.isSome ++ be 1 h.rank ++ be 1 (h.period / 10) ++ beBool h.yielded ++ beInt 2 h.d ++ beInt 2 h.delta ++
    be 1 h.order ++ setByte h.releaseSet ++ setByte h.remakeSet ++ stampBytes h.lastHelm

/-- A fuel part as an optional group. -/
def fuelPartBytes (x : Option FuelPart) : List Byte :=
  let f := x.getD { aboard := 0, burn := 0, reserve := false, lastFuel := 0 }
  beBool x.isSome ++ be 4 f.aboard ++ be 2 f.burn ++ beBool f.reserve ++ stampBytes f.lastFuel

/-- One peer entry, with its expiries as times left: stale, lost, and where a helm part is held its helm age.  That these
are the expiries R198 means, and their order, is the model's choice (notes/assumptions/10.md). -/
def peerBytes (now : Nat) (p : Peer) : List Byte :=
  be 1 p.number ++ be 1 (peerCode p.state) ++ stampBytes p.lastHeard ++ be 2 p.statusPeriod ++ be 1 p.lostCount ++
    statusPartBytes p.statusPart ++ optBytes 1 p.lastSeq ++ be 2 p.gapCount ++ be 2 p.heard ++
    helmPartBytes p.helmPart ++ fuelPartBytes p.fuelPart ++ leftBytes now (staleAt p) ++ leftBytes now (lostAt p) ++
    timerBytes now (p.helmPart.map helmAgeAt)

/-- Reply data of READ_PEERS. -/
def peersData (s : State) : List Byte := listBytes (peerBytes s.now) s.cvu.peers

/-! ## READ_SHAFTS, READ_RUDDERS (R45, R65) -/

/-- Code of an engine state. -/
def engineCode : Engine → Nat
  | .running => 0 | .limited => 1 | .stopped => 2 | .fuelOut => 3

/-- Code of a deviation class. -/
def deviationCode : Deviation → Nat
  | .low => 0 | .within => 1

/-- One shaft record, and last in it whether emergency applied at its last control step (R48): R45 does not list that
field, and its place is the model's choice (notes/assumptions/10.md). -/
def shaftBytes (now : Nat) (r : Shaft) : List Byte :=
  be 1 (dirCode r.dir) ++ be 2 r.p ++ be 2 r.target ++ be 1 (wayCode r.targetWay) ++ be 2 r.aAhead ++
    be 2 r.aAstern ++ timerBytes now r.dwellAt ++ be 1 (engineCode r.engine) ++
    optBytes 1 (r.deviation.map deviationCode) ++ timerBytes now r.deviationAt ++ optBytes 2 (r.lastRpm.map (·.1)) ++
    stampBytes ((r.lastRpm.map (·.2)).getD 0) ++ be 2 r.commanded ++ be 2 r.duty ++ beBool r.emergency

/-- Reply data of READ_SHAFTS. -/
def shaftsData (s : State) : List Byte := listBytes (shaftBytes s.now) s.sfc

/-- Code of a rudder state. -/
def rudderCode : RudderState → Nat
  | .following => 0 | .parked => 1 | .stalled => 2 | .sensorLost => 3

/-- Code of a drive direction. -/
def driveCode : Drive → Nat
  | .port => 0 | .stbd => 1 | .stop => 2

/-- One rudder record. -/
def rudderBytes (now : Nat) (r : Rudder) : List Byte :=
  be 1 (rudderCode r.state) ++ optIntBytes 2 r.theta ++ beInt 2 r.setPoint ++ be 1 (driveCode r.drive) ++
    be 2 r.duty ++ timerBytes now r.stallAt ++ optIntBytes 2 r.reference

/-- Reply data of READ_RUDDERS: the records, k, own nominal and live authority, r_nom and r_live, the last in 2 bytes for
its range 0 to 27 000 (R68, R201). -/
def ruddersData (s : State) : List Byte :=
  listBytes (rudderBytes s.now) s.stc.rudders ++ be 2 s.stc.k ++ be 2 s.stc.ownNominal ++ be 2 s.stc.ownLive ++
    be 4 s.cvu.rudderNom ++ be 2 s.stc.rLive

/-! ## READ_WINCHES (R83) -/

/-- A wire's target: 0 for TOW, else the station. -/
def targetCode : Target → Nat
  | .tow => 0
  | .station n => n

/-- Code of a winch state. -/
def winchCode : WinchState → Nat
  | .slack => 0 | .hauling => 1 | .made => 2 | .rendering => 3 | .releasing => 4 | .parted => 5

/-- Code of a release phase. -/
def phaseCode : Phase → Nat
  | .payingOut => 0 | .holding => 1

/-- Code of a fault note. -/
def noteCode : Note → Nat
  | .none => 0 | .haulTimeout => 1 | .unsensed => 2

/-- One winch record. -/
def winchBytes (now : Nat) (cw : WinchCfg × Winch) : List Byte :=
  let w := cw.2
  be 1 (targetCode cw.1.target) ++ be 1 (winchCode w.state) ++ optBytes 1 (w.phase.map phaseCode) ++ beBool w.pulse ++
    optBytes 2 w.tension ++ optBytes 2 w.previous ++ timerBytes now w.timerAt ++ be 1 (noteCode w.note)

/-- Code of a pull-off's origin: HELM, PANEL. -/
def originCode : Origin → Nat
  | .helm _ => 0 | .panel => 1

/-- The claimant of a HELM origin, 0 otherwise. -/
def originClaimant : Option PullOff → Nat
  | some p => (match p.origin with | .helm n => n | .panel => 0)
  | none => 0

/-- The pull-off state, its origin with the claimant in a byte of its own, and the time left; how the claimant is carried
is the model's choice (notes/assumptions/10.md). -/
def pullOffBytes (now : Nat) (p : Option PullOff) : List Byte :=
  beBool p.isSome ++ optBytes 1 (p.map fun x => originCode x.origin) ++ be 1 (originClaimant p) ++
    timerBytes now (p.map (·.expiry))

/-- One make-up record. -/
def makeUpBytes (r : List MakeUp) : List Byte := listBytes (fun m => be 1 (targetCode m.target) ++ beBool m.made) r

/-- Code of the last coupling outcome, in the order of R105. -/
def outcomeCode : CouplingOutcome → Nat
  | .none => 0 | .released => 1 | .withdrawn => 2 | .timedOut => 3 | .parted => 4 | .restarted => 5
  | .releaseIgnoredActive => 6 | .releaseIgnoredFree => 7 | .remakeStarted => 8 | .remakeNothing => 9
  | .stackEmpty => 10 | .remakeIgnoredPullOff => 11

/-- Reply data of READ_WINCHES: the records, then what R83 names with them.  The depth of the make-up stack (R102) is the count
byte of its list and no byte of its own: the model's choice (notes/assumptions/10.md). -/
def winchesData (s : State) : List Byte :=
  listBytes (winchBytes s.now) (List.zip s.cfg.winches s.cpc.winches) ++ be 1 (summaryCode s.cpc.summary) ++
    beBool s.cpc.parted ++ be 2 s.cpc.fCpl ++ pullOffBytes s.now s.cpc.pullOff ++ listBytes makeUpBytes s.cpc.stack ++
    be 1 (outcomeCode s.cpc.outcome) ++ be 4 s.cpc.outcomeAt

/-! ## READ_TANKS (R109, R113, R114, R120, R126, R134) -/

/-- Code of a band. -/
def bandCode : Band → Nat
  | .normal => 0 | .reserve => 1 | .cutoff => 2

/-- Code of a movement in flight. -/
def movementCode : Movement → Nat
  | .none => 0 | .transferSrc => 1 | .transferDst => 2 | .bunker => 3

/-- A value a DAY tank has and a STORAGE tank has not. -/
def dayOnly (c : TankCfg) (x : Nat) : Option Nat := if c.role = .day then some x else none

/-- A level calibration, present when a LEVEL channel is bound to the tank (R109). -/
def calibrationBytes (bound : Bool) (c : TankCfg) : List Byte :=
  beBool bound ++ be 4 (if bound then c.fEmpty else 0) ++ be 4 (if bound then c.fFull else 0)

/-- Tank `n`.  The imbalance takes 6 bytes, as the raw balance it is formed from does: the model's choice
(notes/assumptions/10.md). -/
def tankBytes (s : State) (n : Nat) : List Byte :=
  match getN s.cfg.tanks n, getN s.fau.tanks n with
  | some c, some t =>
    be 1 (if c.role = .storage then 1 else 0) ++ be 4 c.capacity ++ beInt 6 t.raw ++ be 4 (contentOf c t) ++
      beInt 6 (imbalanceOf c t) ++ be 4 c.reserve ++ be 4 c.cutoff ++ be 4 c.low ++ be 4 c.high ++
      optBytes 1 (dayOnly c (bandCode t.band)) ++ optBytes 1 (if c.role = .day then c.source else none) ++
      optBytes 1 (dayOnly c (if t.hold then 1 else 0)) ++ calibrationBytes (chanOf .level (some n) s).isSome c ++
      be 4 c.tolerance ++ optBytes 4 (t.sounding.map (·.1)) ++ be 4 ((t.sounding.map (·.2)).getD 0) ++
      be 2 t.run ++ beBool t.reported ++ be 1 (movementCode t.movement)
  | _, _ => []

/-- Code of a transfer's origin. -/
def transferOriginCode : TransferOrigin → Nat
  | .auto => 0 | .host => 1

/-- The transfer record; source and destination are present while RUNNING (R120). -/
def transferBytes (x : Transfer) : List Byte :=
  let present (n : Nat) : Option Nat := if x.running then some n else none
  beBool x.running ++ optBytes 1 (x.origin.map transferOriginCode) ++ optBytes 1 (present x.source) ++
    optBytes 1 (present x.destination) ++ optBytes 4 x.requested ++ wide x.moved ++ be 2 x.residue

/-- The bunker record (R126).  While IDLE its tank and volume are those of the last bunkering, 0 before the first, the tank
as a plain byte: the model's choice (notes/assumptions/33.md). -/
def bunkerBytes (b : Bunker) : List Byte := beBool b.running ++ be 1 b.tank ++ wide b.volume ++ be 2 b.residue

/-- One engine burn record, with its estimated flag (R114). -/
def burnBytes (cb : ShaftCfg × Burn) : List Byte :=
  let c := cb.1
  let b := cb.2
  be 1 c.dayTank ++ be 4 c.kFlow ++ be 1 c.quantum ++ be 2 c.specific ++ be 2 b.residue ++ wide b.sinceBooked ++
    wide b.estimated ++ beBool b.estimating ++ wide b.lastRate ++ beBool (decide (0 < b.estimated))

/-- Reply data of READ_TANKS. -/
def tanksData (s : State) : List Byte :=
  be 1 s.fau.tanks.length ++ (numbers s.fau.tanks.length).flatMap (tankBytes s) ++ transferBytes s.fau.transfer ++
    bunkerBytes s.fau.bunker ++ listBytes burnBytes (List.zip s.cfg.shafts s.fau.burns) ++ be 4 s.fau.aboard ++
    wide s.fau.convoyAboard ++ wide s.fau.convoyBurn ++ be 2 s.fau.endurance ++ be 4 s.fau.lostIncluded

/-! ## READ_GAUGES (R138) -/

/-- Code of a gauge kind (11_formats.md). -/
def gaugeCode : GaugeKind → Nat
  | .unused => 0 | .rpm => 1 | .flow => 2 | .angle => 3 | .load => 4 | .level => 5 | .xferMeter => 6
  | .bunkerMeter => 7

/-- Code of a request state. -/
def reqCode : ReqState → Nat
  | .idle => 0 | .queued => 1 | .measuring => 2

/-- Code of an outcome. -/
def measCode : Outcome → Nat
  | .complete => 0 | .partialCount => 1 | .noPulse => 2

/-- One channel record. -/
def chanBytes (kc : ChanCfg × Chan) : List Byte :=
  let k := kc.1
  let c := kc.2
  be 1 (gaugeCode k.kind) ++ optBytes 1 k.binding ++ be 1 (if k.edge = .falling then 1 else 0) ++ be 2 k.count ++
    be 2 k.interval ++ be 2 k.window ++ be 1 k.deadCount ++ be 1 (reqCode c.req) ++
    be 1 (if c.health = .dead then 1 else 0) ++ be 2 c.noPulse ++ be 2 c.overrun ++
    optBytes 1 (c.last.map fun x => measCode x.1) ++ stampBytes ((c.last.map (·.2)).getD 0)

/-- Code of an engine's phase. -/
def enginePhaseCode : EnginePhase → Nat
  | .arming => 1 | .counting => 2 | .high => 3 | .low => 4

/-- One gauge engine: its state, IDLE coded 0, and the channel it holds, as an optional field: an IDLE engine holds none (R138),
and is carried with the presence byte 0 and a channel of 0.  R138, R143 and R201 do not mark the channel as optional: the
model's choice (notes/assumptions/10.md). -/
def gaugeEngineBytes (e : Option Meas) : List Byte :=
  (match e with
    | some m => be 1 (enginePhaseCode m.phase)
    | none => be 1 0) ++ optBytes 1 (e.map (·.chan))

/-- Reply data of READ_GAUGES.  The 24 channel records and the six engines, sets of a fixed number that R138 does not call lists,
are taken as lists of R201, each with its count byte: the model's choice (notes/assumptions/10.md). -/
def gaugesData (s : State) : List Byte :=
  listBytes chanBytes (List.zip s.cfg.chans s.pgu.chans) ++ listBytes gaugeEngineBytes s.pgu.engines ++
    listBytes (fun n => be 1 n) s.pgu.queue

/-! ## READ_JOURNAL (R132) -/

/-- Code of an entry's kind (11_formats.md). -/
def entryCode : EntryKind → Nat
  | .burn => 1 | .transfer => 2 | .bunker => 3 | .rebase => 4 | .discrepancy => 5

/-- Code of an end reason; 0 where absent (11_formats.md). -/
def endCode : Option EndReason → Nat
  | some .done => 1 | some .destHigh => 2 | some .sourceLow => 3 | some .meterDead => 4 | some .aborted => 5
  | some .restart => 6 | some .stopped => 7 | none => 0

/-- One journal entry, 17 bytes. -/
def entryBytes (e : Entry) : List Byte :=
  be 4 e.serial ++ be 4 e.time ++ be 1 (entryCode e.kind) ++ be 1 e.tank ++ be 1 (e.other.getD 0) ++
    wideInt e.volume ++ be 1 (endCode e.reason) ++ beBool e.estimated

/-- The entries a READ_JOURNAL returns: up to 6 with a serial at or above the one named, oldest first. -/
def journalSlice (fromSerial : Nat) (j : List Entry) : List Entry :=
  (j.filter fun e => decide (fromSerial ≤ e.serial)).take 6

/-- Reply data of READ_JOURNAL. -/
def journalData (fromSerial : Nat) (s : State) : List Byte :=
  optBytes 4 (s.fau.journal.head?.map (·.serial)) ++ be 4 s.fau.nextSerial ++
    listBytes entryBytes (journalSlice fromSerial s.fau.journal)

/-! ## READ_LINE (R162) -/

/-- Code and number of an assignment (11_formats.md). -/
def assignmentCode : Assignment → Nat × Nat
  | .unused => (0, 0) | .governor s => (1, s) | .clutchAhead s => (2, s) | .clutchAstern s => (3, s)
  | .rudderPort s => (4, s) | .rudderStbd s => (5, s) | .winchHaul w => (6, w) | .winchPayout w => (7, w)
  | .transferPump => (8, 0)

/-- Code of a safe level (11_formats.md). -/
def safeCode : SafeLevel → Nat
  | .low => 0 | .high => 1 | .float => 2

/-- Code of the output state: SAFE, DUTY. -/
def outputCode : Option LineOutput → Nat
  | some (.duty _) => 1
  | some (.safe _) => 0
  | none => 0

/-- Reply data of READ_LINE for line `n`. -/
def lineData (n : Nat) (c : LineCfg) (l : Line) (s : State) : List Byte :=
  be 1 (assignmentCode c.assignment).1 ++ be 1 (assignmentCode c.assignment).2 ++ beBool c.enabled ++
    be 1 (safeCode c.safe) ++ be 1 (outputCode (lineOutput n s)) ++ optBytes 2 l.requested ++ optBytes 2 l.pendingDuty ++
    optBytes 2 l.applied ++ optBytes 6 l.offTime ++ optBytes 6 l.holdAt ++ optBytes 1 (partnerLine n s.cfg) ++
    be 2 l.overrides ++ be 1 s.cfg.drivePeriod ++ be 1 s.cfg.deadZone

/-- READ_LINE answered (R162). -/
def lineAnswer (n : Nat) (s : State) : State :=
  match getN s.cfg.lines n, getN s.dlu.lines n with
  | some c, some l => replyOk (lineData n c l s) s
  | _, _ => refuse .noLine s

/-! ## Meanings -/

/-- A report: OK with its data, nothing else changed (R198). -/
def report (data : State → List Byte) (s : State) : State := replyOk (data s) s

/-- Meaning of READ_STATION (R198). -/
def execReadStation (t : Nat) (s : State) : Host.Outcome State Fault Refusal := .next (report stationData (setClock t s))

/-- Meaning of READ_PEERS (R198). -/
def execReadPeers (t : Nat) (s : State) : Host.Outcome State Fault Refusal := .next (report peersData (setClock t s))

/-- Meaning of READ_SHAFTS (R45). -/
def execReadShafts (t : Nat) (s : State) : Host.Outcome State Fault Refusal := .next (report shaftsData (setClock t s))

/-- Meaning of READ_RUDDERS (R65). -/
def execReadRudders (t : Nat) (s : State) : Host.Outcome State Fault Refusal := .next (report ruddersData (setClock t s))

/-- Meaning of READ_WINCHES (R83). -/
def execReadWinches (t : Nat) (s : State) : Host.Outcome State Fault Refusal := .next (report winchesData (setClock t s))

/-- Meaning of READ_TANKS (R109). -/
def execReadTanks (t : Nat) (s : State) : Host.Outcome State Fault Refusal := .next (report tanksData (setClock t s))

/-- Meaning of READ_GAUGES (R138). -/
def execReadGauges (t : Nat) (s : State) : Host.Outcome State Fault Refusal := .next (report gaugesData (setClock t s))

/-- Meaning of READ_JOURNAL (R132). -/
def execReadJournal (t : Nat) (serial : BitVec 32) (s : State) : Host.Outcome State Fault Refusal :=
  .next (report (journalData serial.toNat) (setClock t s))

/-- Meaning of READ_LINE (R162). -/
def execReadLine (t : Nat) (line : Byte) (s : State) : Host.Outcome State Fault Refusal :=
  .next (lineAnswer line.toNat (setClock t s))

end Sys2Proof.Machine
end

