-- ==== Sys2Proof/Machine/Dispatch.lean ====
section
/-!
DEFINITION. The dispatch: one arm for each command of spec/opcode_table.json, in its order, each one call of the
command's meaning.
-/

namespace Sys2Proof.Machine

def exec (i : Instr) (s : State) : Host.Outcome State Fault Refusal :=
  match i with
  | .powerOn straps => Sys2Proof.Machine.execPowerOn straps s
  | .pinReset straps => Sys2Proof.Machine.execPinReset straps s
  | .writeBrokenOff t => Sys2Proof.Machine.execWriteBrokenOff t s
  | .badRequest t bytes => Sys2Proof.Machine.execBadRequest t bytes s
  | .configWrite t page data => Sys2Proof.Machine.execConfigWrite t page data s
  | .start t => Sys2Proof.Machine.execStart t s
  | .restart t => Sys2Proof.Machine.execRestart t s
  | .panel t lever tiller flags release remake => Sys2Proof.Machine.execPanel t lever tiller flags release remake s
  | .depart t => Sys2Proof.Machine.execDepart t s
  | .forgetPeer t n => Sys2Proof.Machine.execForgetPeer t n s
  | .transferStart t source destination volume => Sys2Proof.Machine.execTransferStart t source destination volume s
  | .transferAbort t => Sys2Proof.Machine.execTransferAbort t s
  | .bunkerStart t tank => Sys2Proof.Machine.execBunkerStart t tank s
  | .bunkerStop t => Sys2Proof.Machine.execBunkerStop t s
  | .rebase t tank => Sys2Proof.Machine.execRebase t tank s
  | .clearParted t => Sys2Proof.Machine.execClearParted t s
  | .rudderRetry t rudder => Sys2Proof.Machine.execRudderRetry t rudder s
  | .clearAttention t mask => Sys2Proof.Machine.execClearAttention t mask s
  | .readStation t => Sys2Proof.Machine.execReadStation t s
  | .readPeers t => Sys2Proof.Machine.execReadPeers t s
  | .readShafts t => Sys2Proof.Machine.execReadShafts t s
  | .readRudders t => Sys2Proof.Machine.execReadRudders t s
  | .readWinches t => Sys2Proof.Machine.execReadWinches t s
  | .readTanks t => Sys2Proof.Machine.execReadTanks t s
  | .readGauges t => Sys2Proof.Machine.execReadGauges t s
  | .readJournal t serial => Sys2Proof.Machine.execReadJournal t serial s
  | .readLine t line => Sys2Proof.Machine.execReadLine t line s
  | .helmFrame t f => Sys2Proof.Machine.execHelmFrame t f s
  | .statusFrame t f => Sys2Proof.Machine.execStatusFrame t f s
  | .alertFrame t f => Sys2Proof.Machine.execAlertFrame t f s
  | .fuelFrame t f => Sys2Proof.Machine.execFuelFrame t f s
  | .crcError t cause => Sys2Proof.Machine.execCrcError t cause s
  | .malformed t kind f => Sys2Proof.Machine.execMalformed t kind f s
  | .duplicate t kind f => Sys2Proof.Machine.execDuplicate t kind f s
  | .lineIdle x => Sys2Proof.Machine.execLineIdle x s
  | .arbitrationLost t => Sys2Proof.Machine.execArbitrationLost t s
  | .arbitrationComplete t => Sys2Proof.Machine.execArbitrationComplete t s
  | .sentSuccessfully t => Sys2Proof.Machine.execSentSuccessfully t s
  | .transmitError t => Sys2Proof.Machine.execTransmitError t s
  | .suspensionExpiry t => Sys2Proof.Machine.execSuspensionExpiry t s
  | .statusTimerExpiry t => Sys2Proof.Machine.execStatusTimerExpiry t s
  | .helmPeriodExpiry t => Sys2Proof.Machine.execHelmPeriodExpiry t s
  | .staleExpiry t n => Sys2Proof.Machine.execStaleExpiry t n s
  | .lostExpiry t n => Sys2Proof.Machine.execLostExpiry t n s
  | .helmAgeExpiry t n => Sys2Proof.Machine.execHelmAgeExpiry t n s
  | .graceExpiry t => Sys2Proof.Machine.execGraceExpiry t s
  | .muteExpiry t => Sys2Proof.Machine.execMuteExpiry t s
  | .controlStep t shaft => Sys2Proof.Machine.execControlStep t shaft s
  | .dwellExpiry t shaft => Sys2Proof.Machine.execDwellExpiry t shaft s
  | .deviationExpiry t shaft => Sys2Proof.Machine.execDeviationExpiry t shaft s
  | .stallExpiry t rudder => Sys2Proof.Machine.execStallExpiry t rudder s
  | .haulTimeoutExpiry t winch => Sys2Proof.Machine.execHaulTimeoutExpiry t winch s
  | .haulPulseExpiry t winch => Sys2Proof.Machine.execHaulPulseExpiry t winch s
  | .releaseWaitExpiry t winch => Sys2Proof.Machine.execReleaseWaitExpiry t winch s
  | .releaseHoldExpiry t winch => Sys2Proof.Machine.execReleaseHoldExpiry t winch s
  | .pullOffTimerExpiry t => Sys2Proof.Machine.execPullOffTimerExpiry t s
  | .fuelPeriodExpiry t => Sys2Proof.Machine.execFuelPeriodExpiry t s
  | .intervalExpiry t chan => Sys2Proof.Machine.execIntervalExpiry t chan s
  | .periodEdge t chan edge => Sys2Proof.Machine.execPeriodEdge t chan edge s
  | .dutyEdge t chan edge => Sys2Proof.Machine.execDutyEdge t chan edge s
  | .periodWindowExpiry t chan => Sys2Proof.Machine.execPeriodWindowExpiry t chan s
  | .dutyWindowExpiry t chan => Sys2Proof.Machine.execDutyWindowExpiry t chan s
  | .periodStart t => Sys2Proof.Machine.execPeriodStart t s
  | .joinTimerExpiry t => Sys2Proof.Machine.execJoinTimerExpiry t s
  | .panelTimeout t => Sys2Proof.Machine.execPanelTimeout t s

end Sys2Proof.Machine
end

