-- ==== Sys2Proof/Machine/Tick.lean ====
section
/-!
DEFINITION. The part's own clock (R188): on an empty queue the timebase moves on to its next moment, and the expiries
that have fallen due are queued as the commands of spec/opcode_table.json (notes/assumptions/2.md).  Where several have
fallen due the order is a free value (notes/assumptions/3.md).
-/

namespace Sys2Proof.Machine

/-! ## What has fallen due -/

/-- A command, if its timer has expired. -/
def dueOne (b : Bool) (c : Instr) : List Instr := if b then [c] else []

/-- Expiries of the SVP, the LIF and the FAU's period timer. -/
def duePort (s : State) : List Instr :=
  let t := s.clock
  dueOne (decide (s.svp.mode = .joining) && due s.now s.svp.joinAt) (.joinTimerExpiry t) ++
    dueOne (decide (s.svp.panelState = .current) && due s.now s.svp.panelAt) (.panelTimeout t) ++
    dueOne (due s.now s.lif.suspendedAt) (.suspensionExpiry t) ++
    dueOne (due s.now s.lif.statusAt) (.statusTimerExpiry t) ++ dueOne (due s.now s.fau.fuelAt) (.fuelPeriodExpiry t)

/-- Expiries of one peer entry (R5, R6, R15). -/
def duePeer (s : State) (p : Peer) : List Instr :=
  dueOne (decide (p.state = .live) && decide (staleAt p ≤ s.now)) (.staleExpiry s.clock p.number) ++
    dueOne (counted p && decide (lostAt p ≤ s.now)) (.lostExpiry s.clock p.number) ++
    match p.helmPart with
    | some h => dueOne (!h.expired && decide (helmAgeAt h ≤ s.now)) (.helmAgeExpiry s.clock p.number)
    | none => []

/-- Expiries of the CVU and of the mute (R11, R18, R24). -/
def dueView (s : State) : List Instr :=
  s.cvu.peers.flatMap (duePeer s) ++
    dueOne (decide (s.cvu.claim = .claiming) && due s.now s.cvu.helmAt) (.helmPeriodExpiry s.clock) ++
    dueOne (due s.now s.cvu.graceAt) (.graceExpiry s.clock) ++
    dueOne (!s.shu.muted && due s.now (muteAt s)) (.muteExpiry s.clock)

/-- Expiries of shaft `n` (R47, R52, R56). -/
def dueShaft (s : State) (n : Nat) : List Instr :=
  match getN s.sfc n with
  | some r =>
    dueOne (due s.now r.stepAt) (.controlStep s.clock n) ++ dueOne (due s.now r.dwellAt) (.dwellExpiry s.clock n) ++
      dueOne (due s.now r.deviationAt) (.deviationExpiry s.clock n)
  | none => []

/-- The stall expiry of rudder `n` (R78). -/
def dueRudder (s : State) (n : Nat) : List Instr :=
  match getN s.stc.rudders n with
  | some r => dueOne (due s.now r.stallAt) (.stallExpiry s.clock n)
  | none => []

/-- The command of a winch's phase timer, by its state (R83). -/
def winchTimer (t n : Nat) (w : Winch) : List Instr :=
  match w.state, w.phase with
  | .hauling, _ => [.haulTimeoutExpiry t n]
  | .made, _ => [.haulPulseExpiry t n]
  | .releasing, some .payingOut => [.releaseWaitExpiry t n]
  | .releasing, some .holding => [.releaseHoldExpiry t n]
  | _, _ => []

/-- Expiries of winch `n` (R88, R89, R93). -/
def dueWinch (s : State) (n : Nat) : List Instr :=
  match getN s.cpc.winches n with
  | some w => if due s.now w.timerAt then winchTimer s.clock n w else []
  | none => []

/-- The interval expiry of gauge channel `n` (R141). -/
def dueChan (s : State) (n : Nat) : List Instr :=
  match getN s.pgu.chans n with
  | some c => dueOne (due s.now c.intervalAt) (.intervalExpiry s.clock n)
  | none => []

/-- The window expiry of the measurement a gauge engine holds, by the mode its channel is measured in (R139, R145, R147). -/
def dueWindow (s : State) : Option Meas → List Instr
  | some m =>
    match getN s.cfg.chans m.chan with
    | some k =>
      dueOne (decide (m.windowAt ≤ s.clock))
        (if k.kind = .angle then .dutyWindowExpiry s.clock m.chan else .periodWindowExpiry s.clock m.chan)
    | none => []
  | none => []

/-- Every expiry that has fallen due. -/
def dueCommands (s : State) : List Instr :=
  duePort s ++ dueView s ++ (numbers s.sfc.length).flatMap (dueShaft s) ++
    (numbers s.stc.rudders.length).flatMap (dueRudder s) ++ (numbers s.cpc.winches.length).flatMap (dueWinch s) ++
    dueOne (due s.now (s.cpc.pullOff.map (·.expiry))) (.pullOffTimerExpiry s.clock) ++
    (numbers s.pgu.chans.length).flatMap (dueChan s) ++ s.pgu.engines.flatMap (dueWindow s) ++
    dueOne (due s.now s.dlu.periodAt) (.periodStart s.clock)

/-! ## The order of coincident expiries -/

/-- A list without its item at an index, from 0. -/
def dropAt {α : Type} : Nat → List α → List α
  | _, [] => []
  | 0, _ :: xs => xs
  | i + 1, x :: xs => x :: dropAt i xs

/-- A list in an order the free values choose, from draw number `d` on.  No draw is made for a last item. -/
def shuffle : Nat → Nat → List Instr → List Instr
  | 0, _, l => l
  | fuel + 1, d, l =>
    match l with
    | [] => []
    | [c] => [c]
    | _ =>
      let i := Config.coincidence d % l.length
      (l[i]?).toList ++ shuffle fuel (d + 1) (dropAt i l)

/-! ## A tick -/

/-- The earliest window expiry after a moment, among the engines, or the moment given (R143). -/
def earliestWindow (clock : Nat) (limit : Nat) (l : List (Option Meas)) : Nat :=
  l.foldl
    (fun best e =>
      match e with
      | some m => if clock < m.windowAt ∧ m.windowAt < best then m.windowAt else best
      | none => best) limit

/-- The next moment of the timebase: the next whole millisecond, or a window expiry before it. -/
def nextMoment (s : State) : Nat := earliestWindow s.clock ((s.now + 1) * 1000) s.pgu.engines

/-- The timebase moves on, and what has fallen due is queued. -/
def tick (s : State) : State :=
  let s1 := { s with clock := nextMoment s }
  let l := dueCommands s1
  { s1 with pending := shuffle l.length s1.draws l, draws := s1.draws + (l.length - 1) }

end Sys2Proof.Machine
end

