-- ==== Sys2Proof/Safety.lean ====
section
/-!
DEFINITION. What counts as a safe run, in the terms the statements use: what CONFIGURING holds, the canonical form of the
image, the peer table, the gauge queue, the journal, the pairs of drive lines, the release interlock; what is written to the
drive lines, the direction state of a shaft, the share and the split, and the timers that have expired, in the words of their
rules; and the classes of commands the frame statements speak of.
-/

namespace Sys2Proof.Machine

/-! ## Classes of commands -/

/-- A power-on or a pin reset. -/
def isReset : Instr → Bool
  | .powerOn _ => true
  | .pinReset _ => true
  | _ => false

/-- The microsecond at which a command is taken; absent for the two resets. -/
def timeOf : Instr → Option Nat
  | .powerOn _ | .pinReset _ => none
  | .writeBrokenOff t | .badRequest t _ | .configWrite t _ _ | .start t | .restart t | .panel t _ _ _ _ _ | .depart t
  | .forgetPeer t _ | .transferStart t _ _ _ | .transferAbort t | .bunkerStart t _ | .bunkerStop t | .rebase t _
  | .clearParted t | .rudderRetry t _ | .clearAttention t _ | .readStation t | .readPeers t | .readShafts t
  | .readRudders t | .readWinches t | .readTanks t | .readGauges t | .readJournal t _ | .readLine t _
  | .helmFrame t _ | .statusFrame t _ | .alertFrame t _ | .fuelFrame t _ | .crcError t _ | .malformed t _ _
  | .duplicate t _ _ | .arbitrationLost t | .arbitrationComplete t | .sentSuccessfully t
  | .transmitError t | .suspensionExpiry t | .statusTimerExpiry t | .helmPeriodExpiry t | .staleExpiry t _
  | .lostExpiry t _ | .helmAgeExpiry t _ | .graceExpiry t | .muteExpiry t | .controlStep t _ | .dwellExpiry t _
  | .deviationExpiry t _ | .stallExpiry t _ | .haulTimeoutExpiry t _ | .haulPulseExpiry t _ | .releaseWaitExpiry t _
  | .releaseHoldExpiry t _ | .pullOffTimerExpiry t | .fuelPeriodExpiry t | .intervalExpiry t _ | .periodEdge t _ _
  | .dutyEdge t _ _ | .periodWindowExpiry t _ | .dutyWindowExpiry t _ | .periodStart t | .joinTimerExpiry t
  | .panelTimeout t => some t
  | .lineIdle i => some i.since

/-- A request of the service port, whose reply it changes (R184). -/
def isRequest : Instr → Bool
  | .badRequest _ _ | .configWrite _ _ _ | .start _ | .restart _ | .panel _ _ _ _ _ _ | .depart _ | .forgetPeer _ _
  | .transferStart _ _ _ _ | .transferAbort _ | .bunkerStart _ _ | .bunkerStop _ | .rebase _ _ | .clearParted _
  | .rudderRetry _ _ | .clearAttention _ _ | .readStation _ | .readPeers _ | .readShafts _ | .readRudders _
  | .readWinches _ | .readTanks _ | .readGauges _ | .readJournal _ _ | .readLine _ _ => true
  | _ => false

/-- A frame assembled off the line, whatever it turns out to be. -/
def isFrame : Instr → Bool
  | .helmFrame _ _ | .statusFrame _ _ | .alertFrame _ _ | .fuelFrame _ _ | .malformed _ _ _ | .duplicate _ _ _ => true
  | _ => false

/-- The kind byte and the frame a command carries (R166, R178). -/
def carriedFrame : Instr → Option (Nat × RxFrame)
  | .helmFrame _ f => some (FrameKind.code .helm, f)
  | .statusFrame _ f => some (FrameKind.code .status, f)
  | .alertFrame _ f => some (FrameKind.code .alert, f)
  | .fuelFrame _ f => some (FrameKind.code .fuel, f)
  | .malformed _ k f => some (k.toNat, f)
  | .duplicate _ k f => some (FrameKind.code k, f)
  | _ => none

/-- A command that carries an intact frame with the number of station `own` (R176 to R178). -/
def ownFrame (c : Instr) (own : Nat) : Bool :=
  match carriedFrame c with
  | some (k, f) => decide (f.crc = frameCrc k f) && headerOk k f && decide (RxFrame.sender f = own)
  | none => false

/-- A command that may change the peer table: a frame, an ageing expiry, FORGET_PEER, RESTART. -/
def touchesPeers : Instr → Bool
  | .staleExpiry _ _ | .lostExpiry _ _ | .helmAgeExpiry _ _ | .forgetPeer _ _ | .restart _ => true
  | c => isFrame c

/-- A command that may change the gauge records: a gauge event, START, RESTART. -/
def touchesGauges : Instr → Bool
  | .intervalExpiry _ _ | .periodEdge _ _ _ | .dutyEdge _ _ _ | .periodWindowExpiry _ _ | .dutyWindowExpiry _ _
  | .start _ | .restart _ => true
  | _ => false

/-- A command that may change a tank, the journal, the transfer or the bunker record (chapter 6). -/
def touchesBooks : Instr → Bool
  | .start _ | .restart _ | .transferStart _ _ _ _ | .transferAbort _ | .bunkerStart _ _ | .bunkerStop _ | .rebase _ _
  | .controlStep _ _ | .periodEdge _ _ _ | .periodWindowExpiry _ _ => true
  | _ => false

/-- The command of an intact frame of a kind. -/
def frameCommand (k : FrameKind) (t : Nat) (f : RxFrame) : Instr :=
  match k with
  | .alert => .alertFrame t f
  | .helm => .helmFrame t f
  | .status => .statusFrame t f
  | .fuel => .fuelFrame t f

/-- A command that is NOT_NOW in CONFIGURING: every request but CONFIG_WRITE, START, CLEAR_ATTENTION and the reads
(R184, "Requests"). -/
def serviceOnly : Instr → Bool
  | .restart _ | .panel _ _ _ _ _ _ | .depart _ | .forgetPeer _ _ | .transferStart _ _ _ _ | .transferAbort _
  | .bunkerStart _ _ | .bunkerStop _ | .rebase _ _ | .clearParted _ | .rudderRetry _ _ => true
  | _ => false

/-! ## CONFIGURING holds what reset left (R22, R44, R64, R82, R108, R136, R153, R164, R182, R192) -/

/-- In CONFIGURING no configuration is in force, the panel record is ABSENT, every SVP timer is idle, and every other
block is as reset leaves it. -/
def AsReset (s : State) : Prop :=
  s.svp.mode = .configuring →
    s.cfg = {} ∧ s.svp.panel = {} ∧ s.svp.panelState = .absent ∧ s.svp.panelAt = none ∧ s.svp.joinAt = none ∧
      s.lif = {} ∧ s.cvu = {} ∧ s.shu = {} ∧ s.sfc = [] ∧ s.stc = {} ∧ s.cpc = {} ∧ s.fau = {} ∧ s.pgu = {} ∧
      s.dlu = {}

/-! ## The peer table (R1) -/

/-- Entries in ascending station number, numbers 1 to 6, none the own number. -/
def PeersOk (own : Nat) (l : List Peer) : Prop :=
  (l.map (·.number)).Pairwise (· < ·) ∧ ∀ p ∈ l, 1 ≤ p.number ∧ p.number ≤ 6 ∧ p.number ≠ own

/-- The peer table is as R1 gives it. -/
def PeerTableOk (s : State) : Prop := AsReset s ∧ PeersOk s.cfg.station s.cvu.peers

/-! ## The gauge queue and engines (R142) -/

/-- The channels under measurement. -/
def heldChans (s : State) : List Nat := s.pgu.engines.filterMap fun e => e.map (·.chan)

/-- A channel record has a request state. -/
def hasReq (r : ReqState) (n : Nat) (s : State) : Prop := ∃ c, getN s.pgu.chans n = some c ∧ c.req = r

/-- Each channel is at most once in the queue or under measurement, never both, and its request state says which. -/
def GaugesOk (s : State) : Prop :=
  AsReset s ∧ s.pgu.chans.length = 24 ∧ s.pgu.engines.length = 6 ∧ s.pgu.queue.Nodup ∧ (heldChans s).Nodup ∧
    ∀ n, (n ∈ s.pgu.queue ↔ hasReq .queued n s) ∧ (n ∈ heldChans s ↔ hasReq .measuring n s)

/-! ## The journal (R131) -/

/-- At most 128 entries, in ascending, consecutive serial order, the next serial one above the last. -/
def JournalOk (s : State) : Prop :=
  s.fau.journal.length ≤ 128 ∧ s.fau.journal.length < s.fau.nextSerial ∧ s.fau.nextSerial ≤ Config.serialMax + 1 ∧
    s.fau.journal.map (·.serial) =
      (List.range s.fau.journal.length).map fun i => s.fau.nextSerial - s.fau.journal.length + i

/-! ## Complementary pairs (R156 to R160) -/

/-- A pending duty above 0. -/
def pendingAbove0 (l : Line) : Bool :=
  match l.pendingDuty with
  | some (_ + 1) => true
  | _ => false

/-- No assignment other than UNUSED is given to more than one line (R156). -/
def AssignedOnce (cfg : Cfg) : Prop :=
  ∀ n m x y, getN cfg.lines n = some x → getN cfg.lines m = some y → x.assignment = y.assignment →
    x.assignment ≠ .unused → n = m

/-- The two lines of a pair: not both driven, not both with a pending duty above 0, and a held line waits for a turn-on
of its own while its partner is off. -/
def PairOk (cfg : Cfg) (n p : Nat) (a b : Line) : Prop :=
  (lineDriven n cfg a && lineDriven p cfg b) = false ∧ (pendingAbove0 a && pendingAbove0 b) = false ∧
    (a.holdAt.isSome = true → pendingAbove0 a = true ∧ lineDriven p cfg b = false)

/-- Every pair of lines is in order. -/
def PairsOk (s : State) : Prop :=
  AsReset s ∧ AssignedOnce s.cfg ∧
    ∀ n p a b, partnerLine n s.cfg = some p → getN s.dlu.lines n = some a → getN s.dlu.lines p = some b →
      PairOk s.cfg n p a b

/-! ## The release interlock (R100) -/

/-- Winch `n` is RELEASING. -/
def isReleasing (n : Nat) (s : State) : Bool :=
  match getN s.cpc.winches n with
  | some w => decide (w.state = .releasing)
  | none => false

/-! ## Writes to drive lines (R158) -/

/-- From `s` to `u` the duty `v` has been written to the line of an assignment, where one has it: requested, and on an
enabled line pending, a hold ended by a 0. -/
def Written (a : Assignment) (v : Nat) (s u : State) : Prop :=
  ∀ p l, lineOf a s.cfg = some p → getN s.dlu.lines p = some l →
    ∃ x, getN u.dlu.lines p = some x ∧ x.requested = some v ∧
      (lineEnabled p s.cfg = true → x.pendingDuty = some v ∧ (v = 0 → x.holdAt = none))

/-- The line of an assignment is in `u` as it was in `s`: nothing has been written to it. -/
def LineKept (a : Assignment) (s u : State) : Prop :=
  ∀ p, lineOf a s.cfg = some p → getN u.dlu.lines p = getN s.dlu.lines p

/-- The valve lines of winch `n`, `w` before and `q` now, stand at `haul` and `payout`: noted as last written, and written
where they were not (R94). -/
def Valves (n haul payout : Nat) (w q : Winch) (s u : State) : Prop :=
  q.haulWritten = some haul ∧ q.payoutWritten = some payout ∧
    (w.haulWritten ≠ some haul → Written (.winchHaul n) haul s u) ∧
    (w.payoutWritten ≠ some payout → Written (.winchPayout n) payout s u)

/-- The valve lines of winch `n`, `w` before and `q` now, stand as the table of R94 gives them for `q`. -/
def ValvesByState (n : Nat) (w q : Winch) (s u : State) : Prop :=
  Valves n (if q.state = .hauling ∨ (q.state = .made ∧ q.pulse = true) then 1000 else 0)
    (if q.state = .rendering ∨ q.state = .releasing then 1000 else 0) w q s u

/-- The valve lines of winch `n` are as they were, `w` before and `q` now. -/
def ValvesKept (n : Nat) (w q : Winch) (s u : State) : Prop :=
  q.haulWritten = w.haulWritten ∧ q.payoutWritten = w.payoutWritten ∧ LineKept (.winchHaul n) s u ∧
    LineKept (.winchPayout n) s u

/-- The drive lines of shaft `n`, `r` before and `q` now: both clutch lines written for the new direction state on a change of
it, and where `first` holds, and otherwise left alone (R61, R64); the governor line written where the duty is not the one last
written, and otherwise left alone (R60). -/
def ShaftLines (n : Nat) (first : Prop) (r q : Shaft) (s u : State) : Prop :=
  (q.dir ≠ r.dir ∨ first →
    q.clutchWritten = true ∧ Written (.clutchAhead n) (if q.dir = .ahead then 1000 else 0) s u ∧
      Written (.clutchAstern n) (if q.dir = .astern then 1000 else 0) s u) ∧
    (q.dir = r.dir → ¬first →
      q.clutchWritten = r.clutchWritten ∧ LineKept (.clutchAhead n) s u ∧ LineKept (.clutchAstern n) s u) ∧
    q.dutyWritten = some q.duty ∧ (r.dutyWritten ≠ some q.duty → Written (.governor n) q.duty s u) ∧
    (r.dutyWritten = some q.duty → LineKept (.governor n) s u)

/-! ## The direction state of a shaft (R50, R51) -/

/-- The direction state and the dwell timer of a shaft, `r` before a control step or a delivery and `q` after it.  In NEUTRAL with
a nonzero target and an engine RUNNING or LIMITED it takes the target's direction (R50); at P 0 with a nonzero target against
its engagement it goes to DWELL, the timer started at `now` (R51); otherwise both are as they were. -/
def DirectionSettled (now : Nat) (mode : Mode) (c : ShaftCfg) (r q : Shaft) : Prop :=
  let engages := r.dir = .neutral ∧ q.target ≠ 0 ∧ (q.engine = .running ∨ q.engine = .limited) ∧ mode ≠ .configuring
  let reverses := q.p = 0 ∧ q.target ≠ 0 ∧
    ((r.dir = .ahead ∧ q.targetWay = some .astern) ∨ (r.dir = .astern ∧ q.targetWay = some .ahead))
  (engages → q.targetWay = some .ahead → q.dir = .ahead ∧ q.dwellAt = r.dwellAt) ∧
    (engages → q.targetWay = some .astern → q.dir = .astern ∧ q.dwellAt = r.dwellAt) ∧
    (reverses → q.dir = .dwell ∧ q.dwellAt = some (now + c.dwell)) ∧
    ((¬engages ∨ q.targetWay = none) → ¬reverses → q.dir = r.dir ∧ q.dwellAt = r.dwellAt)

/-! ## Rudders beside one that changes (R66, R78) -/

/-- What rudder `x` keeps in `y` while another rudder changes: angle, drive, stall check and what was written; in a fault
state also its state and set-point; a FOLLOWING rudder its state under a steering order; a PARKED one its state and
set-point without one. -/
def rudderKept (s : State) (x y : Rudder) : Prop :=
  y.theta = x.theta ∧ y.drive = x.drive ∧ y.duty = x.duty ∧ y.stallAt = x.stallAt ∧ y.reference = x.reference ∧
    y.portWritten = x.portWritten ∧ y.stbdWritten = x.stbdWritten ∧
    ((x.state = .stalled ∨ x.state = .sensorLost) → y.state = x.state ∧ y.setPoint = x.setPoint) ∧
    (x.state = .following → steeringOrder s = true → y.state = .following) ∧
    (x.state = .parked → steeringOrder s = false → y.state = .parked ∧ y.setPoint = x.setPoint)

/-! ## What the notices leave in force (R23, R28 to R43, R66 to R71, R95, R97) -/

/-- The seven conditions of R23 hold. -/
def SevenHold (u : State) : Prop :=
  u.svp.mode = .running ∧ u.cpc.summary = .made ∧ u.cpc.parted = false ∧ u.cpc.pullOff = none ∧
    u.shu.departing = false ∧ u.svp.panel.localMode = false ∧ u.shu.muted = false

/-- Availability of an own shaft ahead or astern: rated power × f_eng × f_fuel × f_cpl / 1 000 000 000, and × the astern
factor / 1000 (R29 to R32). -/
def ruleAvail (u : State) (w : Way) (c : ShaftCfg) (r : Shaft) : Nat :=
  let engine := match r.engine with
    | .running => 1000 | .limited => c.limited | .stopped => 0 | .fuelOut => 0
  let fuel := match getN u.cfg.tanks c.dayTank, getN u.fau.tanks c.dayTank with
    | some k, some t => (match t.band with | .normal => 1000 | .reserve => k.derate | .cutoff => 0)
    | _, _ => 0
  let ahead := c.rated * engine * fuel * u.cpc.fCpl / 1000000000
  match w with
  | .ahead => ahead
  | .astern => ahead * c.astern / 1000

/-- The availabilities of the own shafts in a direction, in shaft order; their sum is the capacity (R33). -/
def ruleAvails (u : State) (w : Way) : List Nat := List.zipWith (ruleAvail u w) u.cfg.shafts u.sfc

/-- The contributor set of a direction: self and every LIVE or STALE peer whose STATUS part says contributing and RUNNING,
with C held to 12 000 and φ to 500..1000, each but those whose C or weight is 0 (R36). -/
def ruleMembers (u : State) (w : Way) : List Member :=
  let peer : Peer → Option Member := fun p =>
    match p.statusPart with
    | some st =>
      if p.state ≠ .lost ∧ st.contributing = true ∧ st.mode = .running then
        let c := min 12000 (match w with | .ahead => st.cAhead | .astern => st.cAstern)
        some { number := p.number, c := c, w := c * max 500 (min 1000 st.phi) / 1000 }
      else none
    | none => none
  let own := (ruleAvails u w).sum
  ({ number := u.cfg.station, c := own, w := own * u.shu.phi / 1000 } :: u.cvu.peers.filterMap peer).filter
    fun m => decide (m.c ≠ 0 ∧ m.w ≠ 0)

/-- In the order of R38 member `i` comes no later than member `j`: C_i × w_j < C_j × w_i, or equal products and the lower
station number first. -/
def VisitedFirst (i j : Member) : Prop :=
  i.c * j.w < j.c * i.w ∨ (i.c * j.w = j.c * i.w ∧ i.number ≤ j.number)

/-- Er × w / Wr, truncated, for a member of `ms`, once the members `done` have taken their capacities from the demand `e`: Er
is `e` less their capacities, and Wr the sum of all weights less theirs (R38). -/
def rulePart (e : Nat) (ms done : List Member) (m : Member) : Nat :=
  (e - (done.map (·.c)).sum) * m.w / ((ms.map (·.w)).sum - (done.map (·.w)).sum)

/-- R38's walk over the members `ms`, in the order of C/w: each of `full` takes its capacity, which its part reaches, and the walk
stops at the first of `rest`, whose part is below its capacity. -/
def WalkStops (e : Nat) (ms full rest : List Member) : Prop :=
  (full ++ rest).Perm ms ∧ (full ++ rest).Pairwise VisitedFirst ∧
    (∀ done m left, full = done ++ m :: left → m.c ≤ rulePart e ms done m) ∧
    ∃ m left, rest = m :: left ∧ rulePart e ms full m < m.c

/-- Member `m` of `ms` takes `x` of the demand `e`: its capacity where ΣC ≤ e (R37) and where the walk passes it, and otherwise its
part with the Er and Wr of the stopping point (R38). -/
def RuleTake (e : Nat) (ms : List Member) (m : Member) (x : Nat) : Prop :=
  ((ms.map (·.c)).sum ≤ e → x = m.c) ∧
    (e < (ms.map (·.c)).sum → ∃ full rest, WalkStops e ms full rest ∧
      ((m ∈ full ∧ x = m.c) ∨ (m ∈ rest ∧ x = rulePart e ms full m)))

/-- The target of shaft `n` with availability `a` among the availabilities `as`, whose sum is C_dir (R40): S' × A / C_dir,
truncated, and of the remainder as much as brings it to `a`, after every shaft with a larger A_dir, or an equal one and a
lower number, has had as much as brings that shaft to its own. -/
def ruleTarget (biased : Nat) (as : List Nat) (n a : Nat) : Nat :=
  let base : Nat → Nat := fun x => biased * x / as.sum
  let remainder := biased - (as.map base).sum
  let earlier := ((numbers as.length).map fun m =>
    let x := (getN as m).getD 0
    if a < x ∨ (x = a ∧ m < n) then x - base x else 0).sum
  base a + min (a - base a) (remainder - earlier)

/-- The share S and the biased share S' are 0 and there is no shortfall (R36, R37). -/
def NoShare (u : State) : Prop :=
  u.shu.share = 0 ∧ u.shu.biased = 0 ∧ u.shu.shortfall = false ∧ u.shu.deficit = 0

/-- Every own shaft with its target `f n`, which carries the direction `w` where it is not 0. -/
def Targets (u : State) (w : Option Way) (f : Nat → ShaftCfg → Shaft → Option Nat) : Prop :=
  ∀ n c q, getN u.cfg.shafts n = some c → getN u.sfc n = some q →
    some q.target = f n c q ∧ (q.target ≠ 0 → q.targetWay = w)

/-- The share computation's results are those of the inputs in force: capacities and availabilities, and by local mode, by
contribution or by neither the demand and its direction, S, S', shortfall and deficit, and the targets delivered, a target
of 0 with the shaft's engagement (R32 to R43). -/
def ShareInForce (u : State) : Prop :=
  u.shu.cAhead = (ruleAvails u .ahead).sum ∧ u.shu.cAstern = (ruleAvails u .astern).sum ∧
    (∀ n c q, getN u.cfg.shafts n = some c → getN u.sfc n = some q →
      q.aAhead = ruleAvail u .ahead c q ∧ q.aAstern = ruleAvail u .astern c q ∧
        (q.target = 0 → q.targetWay = engagedWay q.dir)) ∧
    (let lever := u.svp.panel.lever
    let isLocal := u.svp.mode = .running ∧ u.svp.panel.localMode = true
    (isLocal →
      NoShare u ∧
        (0 ≤ lever → Targets u (some .ahead) fun _ c q => some (lever.natAbs * ruleAvail u .ahead c q / 1000)) ∧
        (lever < 0 → Targets u (some .astern) fun _ c q => some (lever.natAbs * ruleAvail u .astern c q / 1000))) ∧
    (¬isLocal → (u.svp.mode ≠ .running ∨ u.shu.contributing = false) →
      NoShare u ∧ Targets u none fun _ _ _ => some 0) ∧
    (¬isLocal → u.svp.mode = .running → u.shu.contributing = true →
      u.shu.demand = u.cvu.effD.natAbs * u.cvu.powerNom / 1000 ∧
      (u.cvu.effD = 0 → u.shu.demandWay = none ∧ NoShare u ∧ Targets u none fun _ _ _ => some 0) ∧
      ∀ w, ((w = .ahead ∧ 0 < u.cvu.effD) ∨ (w = .astern ∧ u.cvu.effD < 0)) →
        let own := (ruleAvails u w).sum
        let ms := ruleMembers u w
        let b := max (-300) (min 300 (Int.tdiv (-(u.cvu.effDelta * u.cfg.lateral * u.cfg.gDiff)) 35000))
        u.shu.demandWay = some w ∧
        ((∀ m ∈ ms, m.number ≠ u.cfg.station) → NoShare u ∧ Targets u none fun _ _ _ => some 0) ∧
        ((∃ m ∈ ms, m.number = u.cfg.station) →
          (∃ m ∈ ms, m.number = u.cfg.station ∧ RuleTake u.shu.demand ms m u.shu.share) ∧
          (u.shu.biased : Int) = max 0 (min (own : Int) (Int.tdiv (u.shu.share * (1000 + b)) 1000)) ∧
          u.shu.shortfall = decide ((ms.map (·.c)).sum < u.shu.demand) ∧
          u.shu.deficit = u.shu.demand - (ms.map (·.c)).sum ∧
          Targets u (some w) fun n c q => some (ruleTarget u.shu.biased (ruleAvails u w) n (ruleAvail u w c q)))))

/-- The steering figures are those of the inputs in force: a rudder in service is FOLLOWING with a steering order and PARKED
without, the own live authority, r_live and k, and the set-point of each FOLLOWING rudder (R66 to R71). -/
def SteeringInForce (u : State) : Prop :=
  let order := u.shu.contributing = true ∨ (u.svp.mode = .running ∧ u.svp.panel.localMode = true)
  let peer : Peer → Nat := fun p =>
    match p.statusPart with
    | some st => if p.state ≠ .lost ∧ st.contributing = true then min 4500 st.rLive else 0
    | none => 0
  let aim : ShaftCfg → Int → Int := fun c x =>
    max (-(c.thetaMax : Int)) (min c.thetaMax (Int.tdiv (x * c.gRud) 1000000))
  u.stc.ownLive =
      ((List.zip u.cfg.shafts (List.zip u.stc.rudders u.sfc)).map fun x =>
        if x.2.1.state = .following ∧ x.2.2.dir ≠ .astern then x.1.gRud else 0).sum ∧
    u.stc.rLive = (if u.shu.contributing = true then u.stc.ownLive else 0) + (u.cvu.peers.map peer).sum ∧
    u.stc.k = (if u.stc.rLive = 0 then 1000 else max 1000 (min 1500 (u.cvu.rudderNom * 1000 / u.stc.rLive))) ∧
    ∀ n r, getN u.stc.rudders n = some r →
      (r.state = .following → order) ∧ (r.state = .parked → ¬order) ∧
      ∀ c, getN u.cfg.shafts n = some c → r.state = .following →
        r.setPoint =
          aim c (if u.shu.contributing = true then u.cvu.effDelta * u.stc.k else u.svp.panel.tiller * 1000)

/-- A winch counts: MADE or RENDERING, to TOW or to a LIVE or STALE neighbour whose last STATUS part says MADE (R95). -/
def ruleCounts (u : State) (cw : WinchCfg × Winch) : Bool :=
  decide (cw.2.state = .made ∨ cw.2.state = .rendering) &&
    match cw.1.target with
    | .tow => true
    | .station n =>
      match peerOf n u with
      | some p => decide (p.state ≠ .lost) && p.statusPart.any fun st => decide (st.summary = .made)
      | none => false

/-- The factor of a counting winch (R97). -/
def ruleFactor (cw : WinchCfg × Winch) : Nat :=
  if cw.2.state = .rendering then 500
  else
    match cw.2.tension with
    | none => cw.1.unsensed
    | some t => if t ≤ cw.1.tHi then 1000 else 1000 - 500 * (t - cw.1.tHi) / (cw.1.tRender - cw.1.tHi)

/-- The summary is that of the counting winches, and f_cpl the least of their factors, 1000 when none counts (R95, R97). -/
def CouplingInForce (u : State) : Prop :=
  let l := (List.zip u.cfg.winches u.cpc.winches).filter (ruleCounts u)
  u.cpc.summary = (if l.length = 0 then .free else if l.length < u.cfg.minMade then .loose else .made) ∧
    u.cpc.fCpl ≤ 1000 ∧ (∀ cw ∈ l, u.cpc.fCpl ≤ ruleFactor cw) ∧
    (u.cpc.fCpl = 1000 ∨ ∃ cw ∈ l, u.cpc.fCpl = ruleFactor cw)

/-- From `s` to `u` an ALERT has been placed for a change of summary: it carries what is in force in `u` (R96). -/
def SummaryAlert (s u : State) : Prop :=
  u.cpc.summary ≠ s.cpc.summary → (u.svp.mode = .joining ∨ u.svp.mode = .running) →
    u.lif.slotAlert = some (statusPayload u)

/-! ## Own frames (R167, R200) -/

/-- The payload of an own STATUS or ALERT says what `u` holds, each field at its offset and modulo its width. -/
def StatusBytes (p : List Byte) (u : State) : Prop :=
  let bit : Bool → Nat → Nat := fun b n => if b then n else 0
  let dir : Nat → Nat := fun n =>
    match getN u.sfc n with
    | some r => (match r.dir with | .neutral => 0 | .ahead => 1 | .astern => 2 | .dwell => 3)
    | none => 0
  p.length = 24 ∧
    u8 p 0 = (match u.svp.mode with | .configuring => 0 | .joining => 1 | .running => 2 | .silent => 3) ∧
    u8 p 1 = bit u.shu.contributing 1 + bit u.shu.departing 2 + bit u.cpc.parted 4 ∧
    u8 p 2 = (match u.cpc.summary with | .free => 0 | .loose => 1 | .made => 2) ∧
    u8 p 3 = u.cfg.lostCount % 256 ∧ u16 p 4 = u.cfg.statusPeriod % 65536 ∧
    u16 p 6 = (u.cfg.shafts.map (·.rated)).sum % 65536 ∧ u16 p 8 = u.shu.cAhead % 65536 ∧
    u16 p 10 = u.shu.cAstern % 65536 ∧ u16 p 12 = u.shu.phi % 65536 ∧ u16 p 14 = u.stc.ownNominal % 65536 ∧
    u16 p 16 = u.stc.ownLive % 65536 ∧ u8 p 18 = u.sfc.length % 256 ∧ u8 p 19 = dir 1 ∧ u8 p 20 = dir 2 ∧
    u8 p 21 = dir 3 ∧ u8 p 22 = u.cvu.followed.getD 0 % 256 ∧ u8 p 23 = 0

/-- The payload of an own HELM, its yield as `yielded` says, carries the contents `h` (R11, R13). -/
def HelmCarries (p : List Byte) (yielded : Bool) (h : HelmContents) : Prop :=
  p.length = 12 ∧ u8 p 0 = h.rank % 256 ∧ u8 p 1 = h.periodUnits % 256 ∧ u8 p 2 = (if yielded then 1 else 0) ∧
    (-32768 ≤ h.d → h.d < 32768 → s16 p 3 = h.d) ∧ (-32768 ≤ h.delta → h.delta < 32768 → s16 p 5 = h.delta) ∧
    u8 p 7 = h.order % 256 ∧ (∀ b, h.releaseSet = stationSet b → stationSet (p.getD 8 0) = stationSet b) ∧
    (∀ b, h.remakeSet = stationSet b → stationSet (p.getD 9 0) = stationSet b) ∧ u16 p 10 = 0

/-- The payload of an own HELM without yield says what the panel record and the own order number of `u` hold (R11). -/
def HelmBytes (p : List Byte) (u : State) : Prop :=
  HelmCarries p false
    { rank := u.cfg.rank, periodUnits := u.cfg.helmUnits, d := u.svp.panel.lever, delta := u.svp.panel.tiller
      order := u.cvu.ownOrder, releaseSet := u.svp.panel.releaseSet, remakeSet := u.svp.panel.remakeSet }

/-- The payload of an own FUEL says what `u` holds: the own total aboard, the own burn rate up to 65535, and whether a DAY tank
is in RESERVE or CUTOFF (R112, R133). -/
def FuelBytes (p : List Byte) (u : State) : Prop :=
  p.length = 8 ∧ u32 p 0 = u.fau.aboard % 4294967296 ∧ u16 p 4 = min u.fau.burn 65535 ∧
    ((∃ n c k, getN u.cfg.tanks n = some c ∧ getN u.fau.tanks n = some k ∧ c.role = .day ∧ k.band ≠ .normal) →
      u8 p 6 = 1) ∧
    ((∀ n c k, getN u.cfg.tanks n = some c → getN u.fau.tanks n = some k → c.role = .day → k.band = .normal) →
      u8 p 6 = 0) ∧ u8 p 7 = 0

/-! ## The selection of the followed claimant (R10, R11, R13 to R18) -/

/-- What an entry adds to R_nom: nothing without a STATUS part (R9). -/
def ratedOf (p : Peer) : Nat := (p.statusPart.map (·.rated)).getD 0

/-- What an entry adds to r_nom (R9). -/
def nominalOf (p : Peer) : Nat := (p.statusPart.map (·.rNom)).getD 0

/-- The own station is claim-eligible (R10). -/
def Eligible (s : State) : Prop :=
  s.cfg.helmCapable = true ∧ s.svp.panelState = .current ∧ s.svp.panel.takeCommand = true ∧ s.svp.mode = .running

/-- Station `n` is a helm candidate of this rank: self while claim-eligible, or a LIVE or STALE entry whose helm part is within
its helm age and did not yield (R14). -/
def HelmCandidate (s : State) (rank n : Nat) : Prop :=
  (Eligible s ∧ n = s.cfg.station ∧ rank = s.cfg.rank) ∨
    ∃ p h, p ∈ s.cvu.peers ∧ p.number = n ∧ p.state ≠ .lost ∧ p.helmPart = some h ∧ h.expired = false ∧
      h.yielded = false ∧ h.rank = rank

/-- Station `n` is the preferred candidate: every other has a higher rank, or an equal rank and a higher number (R14). -/
def Preferred (s : State) (n : Nat) : Prop :=
  ∃ rank, HelmCandidate s rank n ∧
    ∀ r m, HelmCandidate s r m → (r = rank ∧ m = n) ∨ rank < r ∨ (rank = r ∧ n < m)

/-- `u` has the order `d`, `delta` of station `n` in force, with its order number and sets as the baseline (R16, R17). -/
def FollowsOrder (n : Nat) (d delta : Int) (order : Nat) (releaseSet remakeSet : List Nat) (u : State) : Prop :=
  u.cvu.effD = d ∧ u.cvu.effDelta = delta ∧
    u.cvu.baseline = some { claimant := n, order := order, releaseSet := releaseSet, remakeSet := remakeSet }

/-- The followed claimant, the helm state and the effective order of `u` are those that the selection made in `s` leaves: the
preferred candidate followed, newly with its D, δ and baseline; with no candidate the helm lost, D and δ held, the baseline
absent and the grace timer started; nothing changed where the same station is selected (R14, R16, R18). -/
def HelmSelected (s u : State) : Prop :=
  (∀ n, Preferred s n →
    u.cvu.followed = some n ∧ flagSet .helmLost u = flagSet .helmLost s ∧
    (s.cvu.followed ≠ some n →
      u.cvu.helmState = .following ∧ u.cvu.graceAt = none ∧
      (n = s.cfg.station →
        FollowsOrder n s.svp.panel.lever s.svp.panel.tiller s.cvu.ownOrder s.svp.panel.releaseSet s.svp.panel.remakeSet u) ∧
      (∀ p h, peerOf n s = some p → p.helmPart = some h →
        FollowsOrder n h.d h.delta h.order h.releaseSet h.remakeSet u) ∧
      (s.svp.mode ≠ .configuring → ShareInForce u ∧ SteeringInForce u))) ∧
    ((∀ r n, ¬HelmCandidate s r n) →
      u.cvu.followed = none ∧ u.cvu.effD = s.cvu.effD ∧ u.cvu.effDelta = s.cvu.effDelta ∧
      (s.cvu.followed ≠ none →
        u.cvu.helmState = .grace ∧ u.cvu.baseline = none ∧ u.cvu.graceAt = some (s.now + s.cfg.graceTime * 1000) ∧
          flagSet .helmLost u = true) ∧
      (s.cvu.followed = none → flagSet .helmLost u = flagSet .helmLost s)) ∧
    ((s.cvu.followed = none ∧ (∀ r n, ¬HelmCandidate s r n)) ∨ (∃ n, s.cvu.followed = some n ∧ Preferred s n) →
      u.cvu.helmState = s.cvu.helmState ∧ u.cvu.graceAt = s.cvu.graceAt ∧ u.cvu.effD = s.cvu.effD ∧
        u.cvu.effDelta = s.cvu.effDelta ∧ u.cvu.baseline = s.cvu.baseline)

/-- The own claim state of `u` is that of R10 after the selection made in `s`, and the HELM slot has what the passage places: on
entry to CLAIMING a HELM with the values in force and the helm period from now; on leaving it in RUNNING for want of
eligibility the yield frame of the last HELM placed; otherwise nothing (R10, R11, R13). -/
def ClaimSettled (s u : State) : Prop :=
  (u.cvu.claim = .claiming ↔ Eligible s ∧ u.cvu.followed = some s.cfg.station) ∧
    (u.cvu.claim = .notClaiming ↔ ¬Eligible s) ∧
    (u.cvu.claim = .claiming → s.cvu.claim ≠ .claiming →
      u.cvu.helmAt = some (s.now + s.cfg.helmUnits * 10) ∧ ∃ p, u.lif.slotHelm = some p ∧ HelmBytes p s) ∧
    (s.cvu.claim = .claiming → u.cvu.claim = .notClaiming → s.svp.mode = .running → ∀ h, s.cvu.lastHelm = some h →
      ∃ p, u.lif.slotHelm = some p ∧ HelmCarries p true h) ∧
    (u.cvu.claim ≠ .claiming → u.cvu.helmAt = none) ∧
    ((s.cvu.claim = .claiming ∧ u.cvu.claim ≠ .notClaiming) ∨ (s.cvu.claim ≠ .claiming ∧ u.cvu.claim ≠ .claiming) →
      u.lif.slotHelm = s.lif.slotHelm)

/-- The followed claimant has been selected anew, and the own claim evaluated (R10, R14). -/
def SelectedAnew (s u : State) : Prop := HelmSelected s u ∧ ClaimSettled s u

/-! ## Hauls asked, and a pull-off completed (R87, R93, R100, R102, R103) -/

/-- Winch `n` is SLACK with its load channel OK, so that a haul request makes it HAULING (R87). -/
def canHaul (n : Nat) (s : State) : Prop :=
  (∃ w, getN s.cpc.winches n = some w ∧ w.state = .slack) ∧ (getN s.cfg.winches n).isSome = true ∧
    boundDead .load (some n) s = false

/-- Haul requests have been made to the winches `p` names: each SLACK one HAULING with its haul line on and its pay-out line off,
or left with METER_FAULT where its load channel is DEAD, every other winch in its state, its valve lines left alone; the
outcome says whether one became HAULING (R87, R94, R103, R104). -/
def HaulsAsked (p : Nat → Prop) (s u : State) : Prop :=
  (∀ n w c, getN s.cpc.winches n = some w → getN s.cfg.winches n = some c →
    ∃ q, getN u.cpc.winches n = some q ∧ q.tension = w.tension ∧
      (p n → canHaul n s →
        q.state = .hauling ∧ q.note = .none ∧ q.timerAt = some (s.now + c.haulTimeout) ∧ Valves n 1000 0 w q s u) ∧
      (p n → w.state = .slack → boundDead .load (some n) s = true →
        q.state = .slack ∧ q.timerAt = w.timerAt ∧ flagSet .meterFault u = true ∧ ValvesKept n w q s u) ∧
      ((¬p n ∨ w.state ≠ .slack) →
        q.state = w.state ∧ q.note = w.note ∧ q.timerAt = w.timerAt ∧ ValvesKept n w q s u)) ∧
    ((∃ n, p n ∧ canHaul n s) → u.cpc.outcome = .remakeStarted) ∧
    ((∀ n, p n → ¬canHaul n s) → u.cpc.outcome = .remakeNothing) ∧ u.cpc.outcomeAt = s.stationTime

/-- A pull-off has completed between `s` and `u`: no pull-off, outcome RELEASED, the make-up record on the stack where it shows
a winch as made, every MADE or RENDERING winch RELEASING with its haul line off and its pay-out line on (R93, R94, R100,
R102). -/
def Released (s u : State) : Prop :=
  u.cpc.pullOff = none ∧ u.cpc.outcome = .released ∧ u.cpc.outcomeAt = s.stationTime ∧
    (let record := (List.zip s.cfg.winches s.cpc.winches).map fun cw =>
      ({ target := cw.1.target, made := decide (cw.2.state = .made ∨ cw.2.state = .rendering) } : MakeUp)
    u.cpc.stack = if record.any (·.made) then (record :: s.cpc.stack).take 4 else s.cpc.stack) ∧
    ∀ n w c, getN s.cpc.winches n = some w → getN s.cfg.winches n = some c →
      (w.state = .made ∨ w.state = .rendering) →
      ∃ q, getN u.cpc.winches n = some q ∧ q.state = .releasing ∧ q.pulse = false ∧ Valves n 0 1000 w q s u ∧
        (w.tension.isSome = true →
          q.phase = some .payingOut ∧ q.timerAt = some (s.now + c.releaseWait)) ∧
        (w.tension = none → q.phase = some .holding ∧ q.timerAt = some (s.now + c.releaseHold))

/-! ## The start of a transmission (R165, R170) -/

/-- The line is idle for a frame that would begin now, its start bit in the bit time `b`: with bit times of 4 µs from the moment
the line became idle, the next of them, which is no later than the start bit of another station, if one is to come (R165,
R170). -/
def OwnStartBit (b : Nat) (s : State) : Prop :=
  ∃ i, s.lif.lineIdle = some i ∧ b = i.since + (s.clock - i.since + 3) / 4 * 4 ∧ ∀ o, i.otherStart = some o → b ≤ o

/-- The frame of kind `k` with payload `p` is the one with the lowest class in the slots (R166, R170). -/
def LowestFrame (k : FrameKind) (p : List Byte) (l : Lif) : Prop :=
  slotOf k l = some p ∧ ∀ j, FrameKind.cls j < FrameKind.cls k → slotOf j l = none

/-- The transmitter was offered the line in `w` and left `u`: where it may start and a slot is filled, a copy of the frame of the
lowest class is in transmission and the line is no longer idle; otherwise nothing has changed, and what waits in a slot goes
on waiting (R169, R170). -/
def OffersLine (w u : State) : Prop :=
  let may := (w.svp.mode = .joining ∨ w.svp.mode = .running) ∧ w.lif.listening = false ∧ w.lif.suspendedAt = none ∧
    w.lif.tx = none
  (∀ b k p, may → OwnStartBit b w → LowestFrame k p w.lif →
    u = { w with lif := { w.lif with tx := some { kind := k, payload := p, startAt := b }, lineIdle := none } }) ∧
    ((¬may ∨ (∀ b, ¬OwnStartBit b w) ∨ ∀ j, slotOf j w.lif = none) → u = w)

/-! ## Top-up and the stop of a transfer (R122, R125) -/

/-- DAY tank `d` asks for top-up from tank `a` (R125). -/
def wantsTopUp (s : State) (d a : Nat) : Prop :=
  ∃ c k, getN s.cfg.tanks d = some c ∧ getN s.fau.tanks d = some k ∧ c.role = .day ∧ c.source = some a ∧
    contentOf c k < c.low ∧ k.hold = false ∧ k.movement = .none ∧ movementOf a s = .none ∧
    cutoffOf a s < content a s

/-- The first of R122's conditions on a booking that holds for a transfer with these raw balances of source and
destination. -/
def stopDue (tr : Transfer) (cs cd : TankCfg) (src dst : Int) : Option EndReason :=
  let v := (max 0 (min (cs.capacity : Int) src)).toNat
  let w := (max 0 (min (cd.capacity : Int) dst)).toNat
  if (tr.requested.any fun q => decide (q ≤ tr.moved)) = true then some .done
  else if (tr.origin = some .auto ∧ cd.high ≤ w) ∨ (tr.origin = some .host ∧ tr.requested = none ∧ cd.capacity ≤ w) then
    some .destHigh
  else if v ≤ cs.cutoff then some .sourceLow
  else none

/-- A running transfer or bunkering of `s` has stopped with a reason in `w`, which the top-up check has not yet seen: the
movement's journal entry is `e`, and METER_FAULT is raised with METER_DEAD alone (R122, R127). -/
def MovementStopped (reason : EndReason) (e : Entry) (s w : State) : Prop :=
  w.fau.journal.getLast? = some e ∧ w.fau.nextSerial = s.fau.nextSerial + 1 ∧
    (∀ f, flagSet f w = (flagSet f s || decide (f = .meterFault ∧ reason = .meterDead))) ∧
    (∀ m x, getN s.fau.tanks m = some x → ∃ y, getN w.fau.tanks m = some y ∧ y.raw = x.raw) ∧
    w = { s with fau := w.fau, dlu := w.dlu, svp := { s.svp with flags := w.svp.flags } }

/-! ## What has expired -/

/-- A timer held as its expiry is running and has reached it. -/
def Reached (now : Nat) (e : Option Nat) : Prop := ∃ m, e = some m ∧ m ≤ now

/-- The window of the measurement of channel `n` is over, the channel being of a kind that `p` takes (R143). -/
def WindowOver (p : GaugeKind → Prop) (n : Nat) (u : State) : Prop :=
  ∃ k m, getN u.cfg.chans n = some k ∧ p k.kind ∧ some m ∈ u.pgu.engines ∧ m.chan = n ∧ m.windowAt ≤ u.clock

/-- Winch `n` is in a state that `p` takes, and its phase timer is over (R83). -/
def PhaseOver (p : Winch → Prop) (n : Nat) (u : State) : Prop :=
  ∃ w, getN u.cpc.winches n = some w ∧ p w ∧ Reached u.now w.timerAt

/-- The command is the expiry, taken at the clock of `u`, of a timer of `u` that has reached it; no other command is. -/
def HasExpired (u : State) (c : Instr) : Prop :=
  timeOf c = some u.clock ∧
    match c with
    | .joinTimerExpiry _ => u.svp.mode = .joining ∧ Reached u.now u.svp.joinAt
    | .panelTimeout _ => u.svp.panelState = .current ∧ Reached u.now u.svp.panelAt
    | .suspensionExpiry _ => Reached u.now u.lif.suspendedAt
    | .statusTimerExpiry _ => Reached u.now u.lif.statusAt
    | .fuelPeriodExpiry _ => Reached u.now u.fau.fuelAt
    | .staleExpiry _ n =>
      ∃ p ∈ u.cvu.peers, p.number = n ∧ p.state = .live ∧ p.lastHeard + 3 * p.statusPeriod ≤ u.now
    | .lostExpiry _ n =>
      ∃ p ∈ u.cvu.peers, p.number = n ∧ p.state ≠ .lost ∧ p.lastHeard + p.lostCount * p.statusPeriod ≤ u.now
    | .helmAgeExpiry _ n =>
      ∃ p ∈ u.cvu.peers, p.number = n ∧ ∃ h, p.helmPart = some h ∧ h.expired = false ∧ h.lastHelm + 3 * h.period ≤ u.now
    | .helmPeriodExpiry _ => u.cvu.claim = .claiming ∧ Reached u.now u.cvu.helmAt
    | .graceExpiry _ => Reached u.now u.cvu.graceAt
    | .muteExpiry _ =>
      u.shu.muted = false ∧ ∃ e, u.lif.lastSent = some e ∧ e + u.cfg.lostCount * u.cfg.statusPeriod ≤ u.now
    | .controlStep _ n => ∃ r, getN u.sfc n = some r ∧ Reached u.now r.stepAt
    | .dwellExpiry _ n => ∃ r, getN u.sfc n = some r ∧ Reached u.now r.dwellAt
    | .deviationExpiry _ n => ∃ r, getN u.sfc n = some r ∧ Reached u.now r.deviationAt
    | .stallExpiry _ n => ∃ r, getN u.stc.rudders n = some r ∧ Reached u.now r.stallAt
    | .haulTimeoutExpiry _ n => PhaseOver (fun w => w.state = .hauling) n u
    | .haulPulseExpiry _ n => PhaseOver (fun w => w.state = .made) n u
    | .releaseWaitExpiry _ n => PhaseOver (fun w => w.state = .releasing ∧ w.phase = some .payingOut) n u
    | .releaseHoldExpiry _ n => PhaseOver (fun w => w.state = .releasing ∧ w.phase = some .holding) n u
    | .pullOffTimerExpiry _ => ∃ p, u.cpc.pullOff = some p ∧ p.expiry ≤ u.now
    | .intervalExpiry _ n => ∃ k, getN u.pgu.chans n = some k ∧ Reached u.now k.intervalAt
    | .periodWindowExpiry _ n => WindowOver (· ≠ .angle) n u
    | .dutyWindowExpiry _ n => WindowOver (· = .angle) n u
    | .periodStart _ => Reached u.now u.dlu.periodAt
    | _ => False

/-! ## Modes (R185) -/

/-- A command may take the station with number `own` from one mode to another; to SILENT only an intact frame with that
number takes it (R178, R185, R187). -/
def modeMay (c : Instr) (own : Nat) (a b : Mode) : Prop :=
  a = b ∨ (isReset c = true ∧ b = .configuring) ∨
    (match c with
      | .start _ => a = .configuring ∧ b = .joining
      | .restart _ => a ≠ .configuring ∧ b = .joining
      | .joinTimerExpiry _ => a = .joining ∧ b = .running
      | _ => ownFrame c own = true ∧ (a = .joining ∨ a = .running) ∧ b = .silent)

end Sys2Proof.Machine
end

