-- ==== Sys2Proof/Certificates/Slice0/Obligations.lean ====
section
/-!
DEFINITION. The statements for the provers.  Each says in its docstring which rules of spec/ it rests on.  Times are read as
the commands carry them: `t` is the microsecond at which a command is taken, `setClock t s` the state at that moment.
-/

open Sys2Proof Sys2Proof.Machine

/-! ## The machine as a whole -/

/-- One step takes the command at the front of the queue and runs it with the queue's rest. -/
def Obligations.StepRunsFrontCommand : Prop :=
  ∀ (c : Instr) (rest : List Instr) (s : State), s.pending = c :: rest → step s = exec c { s with pending := rest }

/-- On an empty queue the part's own clock moves on, to the next whole millisecond or to an earlier measurement window and
never past one.  The command of a timer is then queued exactly when that timer has reached its expiry, for each kind of
timer, and once where no station has two entries and no channel two engines; nothing else is queued, and nothing else changes
but the model's counter of draws.  The model's choice (notes/assumptions/2.md, 3.md and 22.md). -/
def Obligations.EmptyQueueTicks : Prop :=
  ∀ s : State, s.pending = [] →
    ∃ t, step s = .next t ∧ s.clock < t.clock ∧ t.clock ≤ (s.now + 1) * 1000 ∧
      (∀ m, some m ∈ s.pgu.engines → s.clock < m.windowAt → t.clock ≤ m.windowAt) ∧
      (t.clock = (s.now + 1) * 1000 ∨ ∃ m, some m ∈ s.pgu.engines ∧ t.clock = m.windowAt) ∧
      (∀ c, c ∈ t.pending ↔ HasExpired t c) ∧
      ((s.cvu.peers.map (·.number)).Nodup → (heldChans s).Nodup → t.pending.Nodup) ∧
      t.draws = s.draws + (t.pending.length - 1) ∧ t.pending.Perm (dueCommands { s with clock := t.clock }) ∧
      t = { s with clock := t.clock, pending := t.pending, draws := t.draws }

/-- The state after reset meets every invariant of this file. -/
def Obligations.ResetMeetsInvariants : Prop :=
  imageWf State.reset.svp.image = true ∧ AsReset State.reset ∧ PeerTableOk State.reset ∧ GaugesOk State.reset ∧
    JournalOk State.reset ∧ PairsOk State.reset ∧ State.reset.pending = []

/-- Every step keeps the image within its 1024 bytes and in the canonical form in which this model holds it: addresses
strictly rising, no byte of 0 listed.  That form is the model's choice (notes/assumptions/18.md); the 1024 bytes are
R189's. -/
def Obligations.ImageCanonicalKept : Prop :=
  ∀ s t : State, imageWf s.svp.image = true → step s = .next t → imageWf t.svp.image = true

/-- In CONFIGURING every block holds what reset left (R22, R44, R64, R82, R108, R136, R153, R164, R182, R192, R199). -/
def Obligations.ConfiguringHoldsResetState : Prop :=
  ∀ s t : State, AsReset s → step s = .next t → AsReset t

/-- The peer table stays in ascending station number, numbers 1 to 6, without the own number (R1). -/
def Obligations.PeerTableKept : Prop :=
  ∀ s t : State, PeerTableOk s → step s = .next t → PeerTableOk t

/-- Each channel stays at most once in the queue or under measurement, never both, as its request state says (R142). -/
def Obligations.GaugeQueueKept : Prop :=
  ∀ s t : State, GaugesOk s → step s = .next t → GaugesOk t

/-- The journal stays at most 128 entries long, its serials consecutive up to the last one given (R131). -/
def Obligations.JournalKept : Prop :=
  ∀ s t : State, JournalOk s → step s = .next t → JournalOk t

/-- The two lines of a complementary pair are never both driven (R159), nor both waiting with a duty above 0 (R158). -/
def Obligations.PairsNeverDrivenTogether : Prop :=
  ∀ s t : State, PairsOk s → step s = .next t → PairsOk t

/-- A winch begins to release only when every own shaft is at or below its release threshold (R100). -/
def Obligations.ReleaseInterlock : Prop :=
  ∀ (s t : State) (n : Nat), step s = .next t → isReleasing n s = false → isReleasing n t = true →
    shaftsDown t = true

/-- The station changes its mode only as R185 gives: a reset to CONFIGURING, START and RESTART to JOINING, the join timer to
RUNNING, an intact frame that carries the own number, and no other frame, to SILENT. -/
def Obligations.ModeChangesByTable : Prop :=
  ∀ (c : Instr) (s t : State), exec c s = .next t → modeMay c s.cfg.station s.svp.mode t.svp.mode

/-- A set attention flag is cleared by CLEAR_ATTENTION and by the resets alone (R196). -/
def Obligations.AttentionFlagsSticky : Prop :=
  ∀ (c : Instr) (s t : State) (i : Nat), exec c s = .next t → isReset c = false →
    (∀ u m, c ≠ .clearAttention u m) → s.svp.flags.getLsbD i = true → t.svp.flags.getLsbD i = true

/-- What every command leaves alone: the queue and the model's counter of choices; the timebase never goes back and a reset
sets it to 0; the image changes by CONFIG_WRITE and the resets alone, the configuration in force by START and the resets
alone.  That a time below the timebase is taken at the timebase, that the queue is the model's own and that `draws` counts
its choices are the model's (notes/assumptions/1.md, 21.md and 22.md). -/
def Obligations.CommandFrame : Prop :=
  ∀ (c : Instr) (s t : State), exec c s = .next t →
    t.pending = s.pending ∧ t.draws = s.draws ∧ t.clock = (match timeOf c with | some u => max s.clock u | none => 0) ∧
    (isReset c = false → (∀ u p d, c ≠ .configWrite u p d) → t.svp.image = s.svp.image) ∧
    (isReset c = false → (∀ u, c ≠ .start u) → t.cfg = s.cfg)

/-- What each block keeps: the reply through every command but the requests; the peer table, the gauge records, the fuel
books and the panel record through every command but those that concern them; what the drive lines carry through every
command but PERIOD_START; all but the resets. -/
def Obligations.BlockFrames : Prop :=
  ∀ (c : Instr) (s t : State), exec c s = .next t → isReset c = false →
    (isRequest c = false → t.svp.reply = s.svp.reply) ∧
    (touchesPeers c = false → t.cvu.peers = s.cvu.peers) ∧
    (touchesGauges c = false → t.pgu = s.pgu) ∧
    (touchesBooks c = false → t.fau.tanks = s.fau.tanks ∧ t.fau.journal = s.fau.journal ∧
      t.fau.nextSerial = s.fau.nextSerial ∧ t.fau.transfer = s.fau.transfer ∧ t.fau.bunker = s.fau.bunker) ∧
    ((∀ u l r f x y, c ≠ .panel u l r f x y) → (∀ u, c ≠ .panelTimeout u) →
      t.svp.panel = s.svp.panel ∧ t.svp.panelState = s.svp.panelState ∧ t.svp.panelAt = s.svp.panelAt) ∧
    ((∀ u, c ≠ .periodStart u) → t.dlu.lines.map (fun l => (l.applied, l.offTime, l.overrides)) =
      s.dlu.lines.map fun l => (l.applied, l.offTime, l.overrides)) ∧
    t.svp.straps = s.svp.straps

/-! ## Service port and start control (chapter 10) -/

/-- POWER_ON and PIN_RESET leave every block as reset leaves it: CONFIGURING, timebase 0, image all zeros, NO_REQUEST, panel
ABSENT, flags clear, with the start cause and the straps as read (R185, R199). -/
def Obligations.ResetsLeaveResetState : Prop :=
  ∀ (straps : BitVec 2) (s : State),
    exec (.powerOn straps) s = .next { State.reset with
      pending := s.pending, draws := s.draws
      svp := { State.reset.svp with startCause := .powerOn, straps := straps } } ∧
    exec (.pinReset straps) s = .next { State.reset with
      pending := s.pending, draws := s.draws
      svp := { State.reset.svp with startCause := .pin, straps := straps } } ∧
    State.reset.svp.mode = .configuring ∧ State.reset.clock = 0 ∧ (∀ a, imageRead State.reset.svp.image a = 0) ∧
    State.reset.svp.reply = { status := .noRequest, reason := none, data := [] } ∧
    State.reset.svp.panelState = .absent ∧ attnLow State.reset = false ∧ State.reset.cfg = {}

/-- Writes without effect: one broken off takes no request and leaves the reply; an ill-formed one is answered BAD_REQUEST; a
CONFIG_WRITE of a wrong length is BAD_REQUEST, outside CONFIGURING NOT_NOW, past the image's end REFUSED OFFSET (R183, R184,
R189). -/
def Obligations.WritesWithoutEffect : Prop :=
  ∀ (t : Nat) (s : State),
    exec (.writeBrokenOff t) s = .next (setClock t s) ∧
    (∀ bytes, bytes ≠ [] → decodeRequest t bytes = none →
      exec (.badRequest t bytes) s = .next (replyStatus .badRequest (setClock t s))) ∧
    (∀ page data, (data = [] ∨ 32 < data.length) →
      exec (.configWrite t page data) s = .next (replyStatus .badRequest (setClock t s))) ∧
    (∀ page data, data ≠ [] → data.length ≤ 32 → s.svp.mode ≠ .configuring →
      exec (.configWrite t page data) s = .next (replyStatus .notNow (setClock t s))) ∧
    (∀ (page : BitVec 7) (data : List Byte), data ≠ [] → data.length ≤ 32 → s.svp.mode = .configuring →
      1024 < page.toNat * 32 + data.length →
      exec (.configWrite t page data) s = .next (refuse .offset (setClock t s)))

/-- CONFIG_WRITE in CONFIGURING replaces the image bytes from page × 32 on and no others, and is answered OK (R189, R201). -/
def Obligations.ConfigWriteStores : Prop :=
  ∀ (t : Nat) (page : BitVec 7) (data : List Byte) (s : State), imageWf s.svp.image = true →
    s.svp.mode = .configuring → data ≠ [] → data.length ≤ 32 → page.toNat * 32 + data.length ≤ 1024 →
    ∃ u, exec (.configWrite t page data) s = .next u ∧
      u.svp.reply = { status := .ok, reason := none, data := [] } ∧
      (∀ a, imageRead u.svp.image a =
        if page.toNat * 32 ≤ a ∧ a < page.toNat * 32 + data.length then data.getD (a - page.toNat * 32) 0
        else imageRead s.svp.image a) ∧
      u = { s with
        clock := max s.clock t, svp := { s.svp with reply := u.svp.reply, image := u.svp.image } }

/-- START refused: NOT_NOW outside CONFIGURING, CRC_MISMATCH with the computed CRC and the trailer, CONFIG_INVALID with the
first condition that fails (R190, R191), by the block, field and item at which the model places it where R191 leaves the
place open (notes/assumptions/11.md). -/
def Obligations.StartRefused : Prop :=
  ∀ (t : Nat) (s : State),
    (s.svp.mode ≠ .configuring → exec (.start t) s = .next (replyStatus .notNow (setClock t s))) ∧
    (s.svp.mode = .configuring →
      (crc16 ((wholeImage s.svp.image).take 1022)).toNat ≠ u16 (wholeImage s.svp.image) 1022 →
      exec (.start t) s = .next (refuseWith .crcMismatch
        (be 2 (crc16 ((wholeImage s.svp.image).take 1022)).toNat ++ be 2 (u16 (wholeImage s.svp.image) 1022))
        (setClock t s))) ∧
    (∀ k, s.svp.mode = .configuring →
      (crc16 ((wholeImage s.svp.image).take 1022)).toNat = u16 (wholeImage s.svp.image) 1022 →
      firstFailure (wholeImage s.svp.image) = some k →
      exec (.start t) s = .next (refuseWith .configInvalid (be 1 k.block ++ be 1 k.field ++ be 1 k.item)
        (setClock t s)))

/-- START accepted: the configuration in force, JOINING with its timers, the nominal sums of the own station, every shaft
NEUTRAL at 0 with its governor line at the idle duty, every rudder PARKED at midships with k 1000, every winch SLACK with
its lines at 0, each tank at its opening volume, the status timer and the period timer started, no frame placed; the gauge
channels in use have requested in ascending number, the first six are taken by the engines, the rest wait, and each
interval timer runs (R9, R64, R82, R108, R136, R153, R157, R164, R168, R186, R192).  That the line is not idle and that the
receiver waits for it at every START is the model's choice (notes/assumptions/6.md): R165 says so only of a receiver
switched on while a frame is in progress. -/
def Obligations.StartAccepted : Prop :=
  ∀ (t : Nat) (s : State), AsReset s → s.svp.mode = .configuring →
    (crc16 ((wholeImage s.svp.image).take 1022)).toNat = u16 (wholeImage s.svp.image) 1022 →
    firstFailure (wholeImage s.svp.image) = none →
    ∃ u, exec (.start t) s = .next u ∧
      u.cfg = parseImage (wholeImage s.svp.image) ∧ u.svp.mode = .joining ∧
      u.svp.reply = { status := .ok, reason := none, data := [] } ∧ u.svp.startCause = s.svp.startCause ∧
      u.svp.joinAt = some (u.now + u.cfg.lostCount * u.cfg.statusPeriod) ∧
      u.lif =
        { statusAt := some (u.now + u.cfg.statusPeriod), listening := true, awaitIdle := true, midFrame := true } ∧
      u.cvu.peers = [] ∧ u.cvu.powerNom = (u.cfg.shafts.map (·.rated)).sum ∧
      u.cvu.rudderNom = (u.cfg.shafts.map (·.gRud)).sum ∧
      u.sfc.length = u.cfg.shafts.length ∧ (∀ r ∈ u.sfc, r.dir = .neutral ∧ r.p = 0) ∧
      u.cpc.winches.length = u.cfg.winches.length ∧ (∀ w ∈ u.cpc.winches, w.state = .slack) ∧
      u.fau.tanks.map (·.raw) = u.cfg.tanks.map (fun c => (c.opening : Int)) ∧
      u.fau.journal = [] ∧ u.fau.nextSerial = 1 ∧
      u.fau.fuelAt = some (u.now + u.cfg.fuelPeriod * 1000) ∧ u.dlu.periodAt = some (u.now + u.cfg.drivePeriod) ∧
      u.shu.contributing = false ∧ u.shu.muted = true ∧
      u.stc.rudders.length = u.cfg.shafts.length ∧
      (∀ r ∈ u.stc.rudders, r =
        { state := .parked, theta := none, setPoint := 0, drive := .stop, duty := 0, stallAt := none, reference := none
          portWritten := none, stbdWritten := none }) ∧
      u.stc.ownNominal = (u.cfg.shafts.map (·.gRud)).sum ∧ u.stc.ownLive = 0 ∧ u.stc.rLive = 0 ∧ u.stc.k = 1000 ∧
      (∀ n c, getN u.cfg.shafts n = some c → Written (.governor n) c.dutyIdle u u) ∧
      (∀ n c, getN u.cfg.winches n = some c → Written (.winchHaul n) 0 u u ∧ Written (.winchPayout n) 0 u u) ∧
      (let used := ((List.range 24).map (· + 1)).filter fun n =>
        match getN u.cfg.chans n with
        | some k => decide (k.kind ≠ .unused)
        | none => false
      u.pgu.queue = used.drop 6 ∧
        (∀ e, 1 ≤ e → e ≤ 6 →
          measOf e u = (used[e - 1]?).map fun n => { chan := n, windowAt := u.clock + windowOf n u * 1000 }) ∧
        ∀ n k, getN u.cfg.chans n = some k →
          getN u.pgu.chans n = some
            { req := if k.kind = .unused then .idle else if n ∈ used.take 6 then .measuring else .queued
              intervalAt := if k.kind = .unused then none else some (u.now + k.interval)
              health := .ok, noPulse := 0, overrun := 0, last := none })

/-- RESTART outside CONFIGURING: JOINING with start cause RESTART, the view empty, no helm followed, no claim, no pull-off, no
bunkering, muted and not departing; the configuration, the panel record, the own order number, the sequence counters, the
make-up stack, the channels' health and what the drive lines carry are kept (R22, R24, R25, R101, R137, R154, R182, R193).
That the line is not idle and that the receiver waits for it after every RESTART, also on a line idle all along, is the
model's choice (notes/assumptions/6.md): R165 says so only of a receiver restarted while a frame is in progress. -/
def Obligations.RestartReturnsToJoining : Prop :=
  ∀ (t : Nat) (s : State), s.svp.mode ≠ .configuring →
    ∃ u, exec (.restart t) s = .next u ∧ u.svp.mode = .joining ∧ u.svp.startCause = .restart ∧
      u.svp.reply = { status := .ok, reason := none, data := [] } ∧
      u.svp.joinAt = some (u.now + u.cfg.lostCount * u.cfg.statusPeriod) ∧ u.cfg = s.cfg ∧
      u.svp.panel = s.svp.panel ∧ u.svp.panelState = s.svp.panelState ∧ u.svp.panelAt = s.svp.panelAt ∧
      u.cvu.peers = [] ∧ u.cvu.followed = none ∧ u.cvu.helmState = .noHelm ∧ u.cvu.effD = 0 ∧ u.cvu.effDelta = 0 ∧
      u.cvu.claim = .notClaiming ∧ u.cvu.graceAt = none ∧ u.cvu.baseline = none ∧ u.cvu.ownOrder = s.cvu.ownOrder ∧
      u.lif = { awaitIdle := true, midFrame := true, seqAlert := s.lif.seqAlert, seqHelm := s.lif.seqHelm,
                seqStatus := s.lif.seqStatus, seqFuel := s.lif.seqFuel,
                slotAlert := u.lif.slotAlert, statusAt := some (u.now + u.cfg.statusPeriod), listening := true } ∧
      u.shu.departing = false ∧ u.shu.muted = true ∧ u.shu.contributing = false ∧ u.cpc.pullOff = none ∧
      (s.cpc.pullOff.isSome = true → u.cpc.outcome = .restarted) ∧ u.cpc.stack = s.cpc.stack ∧
      u.fau.bunker.running = false ∧ u.pgu.chans.map (·.health) = s.pgu.chans.map (·.health) ∧
      u.dlu.lines.map (·.applied) = s.dlu.lines.map (·.applied)

/-- A PANEL request outside CONFIGURING: answered OK, the record CURRENT for another 500 ms with the lever and the tiller
clamped and the switches and sets as carried; the own order number advances by one exactly when a set changes; a PANEL that
carries what the record holds only sets the timeout afresh (R12, R194, 11_formats.md).  Take-command going on has the followed
claimant selected anew, with self a candidate where helm-capable and RUNNING, and places a HELM on entry to CLAIMING (R10, R11,
R14); going off at a CLAIMING station it places the yield frame of the last HELM (R13); while CLAIMING lasts a change of a set
places a HELM at once, and a change of lever or tiller alone none (R11). -/
def Obligations.PanelTaken : Prop :=
  ∀ (t : Nat) (lever tiller : BitVec 16) (flags release remake : Byte) (s : State), s.svp.mode ≠ .configuring →
    (∃ u, exec (.panel t lever tiller flags release remake) s = .next u ∧
      u.svp.reply = { status := .ok, reason := none, data := [] } ∧
      u.svp.panel =
        { lever := clampInt (-1000) 1000 lever.toInt, tiller := clampInt (-350) 350 tiller.toInt
          takeCommand := flags.getLsbD 0, localMode := flags.getLsbD 1, releaseSet := stationSet release
          remakeSet := stationSet remake, releaseOwn := flags.getLsbD 2, remakeOwn := flags.getLsbD 3
          partedAck := flags.getLsbD 4 } ∧
      u.svp.panelState = .current ∧ u.svp.panelAt = some (u.now + 500) ∧
      u.cvu.ownOrder =
        if s.svp.panel.releaseSet = stationSet release ∧ s.svp.panel.remakeSet = stationSet remake then s.cvu.ownOrder
        else (s.cvu.ownOrder + 1) % 256) ∧
    (let fresh := { s with
        clock := max s.clock t
        svp :=
          { s.svp with
            panel := panelOf lever tiller flags release remake
            panelState := .current, panelAt := some (max s.clock t / 1000 + 500) } }
    let sameSets := s.svp.panel.releaseSet = stationSet release ∧ s.svp.panel.remakeSet = stationSet remake
    ∀ u, exec (.panel t lever tiller flags release remake) s = .next u →
      (s.svp.panel.takeCommand = false → flags.getLsbD 0 = true → s.cvu.followed ≠ some s.cfg.station →
        PeersOk s.cfg.station s.cvu.peers →
        (sameSets → SelectedAnew fresh u) ∧
        (s.cvu.claim ≠ .claiming → u.cvu.claim = .claiming →
          u.cvu.helmAt = some (u.now + u.cfg.helmUnits * 10) ∧ ∃ p, u.lif.slotHelm = some p ∧ HelmBytes p u)) ∧
      (s.svp.panel.takeCommand = true → flags.getLsbD 0 = false → s.svp.mode = .running → s.cvu.claim = .claiming →
        u.cvu.claim = .notClaiming ∧ u.cvu.helmAt = none ∧
        ∀ h, s.cvu.lastHelm = some h → ∃ p, u.lif.slotHelm = some p ∧ HelmCarries p true h) ∧
      (s.svp.panel.takeCommand = flags.getLsbD 0 → s.svp.mode = .running → s.cvu.claim = .claiming →
        u.cvu.claim = .claiming ∧ u.cvu.helmAt = s.cvu.helmAt ∧
        (sameSets → u.lif.slotHelm = s.lif.slotHelm) ∧
        (¬sameSets → ∃ p, u.lif.slotHelm = some p ∧ HelmBytes p u))) ∧
    (panelOf lever tiller flags release remake = s.svp.panel →
      exec (.panel t lever tiller flags release remake) s = .next { s with
        clock := max s.clock t
        svp :=
          { s.svp with
            panelState := .current, panelAt := some (max s.clock t / 1000 + 500)
            reply := { status := .ok, reason := none, data := [] } } })

/-- The panel timeout while CURRENT: TIMED_OUT, PANEL_LOST raised, lever, tiller and switches off, local mode, sets and the own
order number kept; a claiming station with no other candidate goes to GRACE with the effective order it held (R10, R12, R18,
R195); with take-command on, the followed claimant is selected anew, and a station that so leaves CLAIMING in RUNNING places the
yield frame, with the contents of its last HELM (R13, R14).  Before its moment, or in another panel state, nothing happens. -/
def Obligations.PanelTimesOut : Prop :=
  ∀ (t : Nat) (s : State),
    (s.svp.panelState = .current → due ((max s.clock t) / 1000) s.svp.panelAt = true →
      ∃ u, exec (.panelTimeout t) s = .next u ∧ u.svp.panelState = .timedOut ∧ u.svp.panelAt = none ∧
        u.svp.panel =
          { localMode := s.svp.panel.localMode, releaseSet := s.svp.panel.releaseSet
            remakeSet := s.svp.panel.remakeSet } ∧
        flagSet .panelLost u = true ∧ u.cvu.ownOrder = s.cvu.ownOrder ∧
        (s.svp.mode = .running → s.svp.panel.takeCommand = true → s.cvu.claim = .claiming →
          s.cvu.followed = some s.cfg.station → s.cvu.peers.filterMap peerCandidate = [] →
          u.cvu.claim = .notClaiming ∧ u.cvu.followed = none ∧ u.cvu.helmState = .grace ∧
            u.cvu.graceAt = some (u.now + u.cfg.graceTime * 1000) ∧ u.cvu.effD = s.cvu.effD ∧
            u.cvu.effDelta = s.cvu.effDelta ∧ flagSet .helmLost u = true) ∧
        (s.svp.panel.takeCommand = true → PeersOk s.cfg.station s.cvu.peers →
          SelectedAnew { s with
            clock := max s.clock t
            svp :=
              { s.svp with
                panelState := .timedOut, panelAt := none
                panel :=
                  { localMode := s.svp.panel.localMode, releaseSet := s.svp.panel.releaseSet
                    remakeSet := s.svp.panel.remakeSet } } } u) ∧
        (s.svp.panel.takeCommand = true → s.svp.mode = .running → s.cvu.claim = .claiming →
          u.cvu.claim = .notClaiming ∧
          ∀ h, s.cvu.lastHelm = some h → ∃ p, u.lif.slotHelm = some p ∧ HelmCarries p true h)) ∧
    ((s.svp.panelState ≠ .current ∨ due ((max s.clock t) / 1000) s.svp.panelAt = false) →
      exec (.panelTimeout t) s = .next (setClock t s))

/-- DEPART outside CONFIGURING is answered OK, sets the departing flag and takes the station out of contribution (R23, R25,
R197). -/
def Obligations.DepartWithdraws : Prop :=
  ∀ (t : Nat) (s : State), s.svp.mode ≠ .configuring →
    ∃ u, exec (.depart t) s = .next u ∧ u.svp.reply = { status := .ok, reason := none, data := [] } ∧
      u.shu.departing = true ∧ u.shu.contributing = false

/-- The requests that act only in service are answered NOT_NOW in CONFIGURING and have no effect (R184). -/
def Obligations.NotNowInConfiguring : Prop :=
  ∀ (c : Instr) (t : Nat) (s : State), serviceOnly c = true → timeOf c = some t → s.svp.mode = .configuring →
    exec c s = .next (replyStatus .notNow (setClock t s))

/-- CLEAR_ATTENTION is answered OK in every mode with the flags still set, clears the flags named and changes nothing else; the
ATTN pin is low while a flag is set (R196). -/
def Obligations.ClearAttentionAnswers : Prop :=
  ∀ (t : Nat) (mask : BitVec 16) (s : State),
    exec (.clearAttention t mask) s = .next { s with
      clock := max s.clock t
      svp :=
        { s.svp with
          flags := s.svp.flags &&& ~~~(mask.setWidth 14)
          reply :=
            { status := .ok, reason := none
              data := be 2 (s.svp.flags &&& ~~~(mask.setWidth 14)).toNat } } } ∧
    (attnLow s = true ↔ ∃ f : Flag, flagSet f s = true)

/-- The reads change nothing but the reply: each is answered OK in every mode with its own report of the state as it is taken,
READ_LINE of a line 1 to 24 with that line's, and a READ_LINE of another number is REFUSED NO_LINE (R162, R184, R198).  The
bytes of each report are those of notes/assumptions/9.md and 10.md. -/
def Obligations.ReportsChangeOnlyTheReply : Prop :=
  ∀ (t : Nat) (s : State),
    exec (.readStation t) s = .next (replyOk (stationData (setClock t s)) (setClock t s)) ∧
    exec (.readPeers t) s = .next (replyOk (peersData (setClock t s)) (setClock t s)) ∧
    exec (.readShafts t) s = .next (replyOk (shaftsData (setClock t s)) (setClock t s)) ∧
    exec (.readRudders t) s = .next (replyOk (ruddersData (setClock t s)) (setClock t s)) ∧
    exec (.readWinches t) s = .next (replyOk (winchesData (setClock t s)) (setClock t s)) ∧
    exec (.readTanks t) s = .next (replyOk (tanksData (setClock t s)) (setClock t s)) ∧
    exec (.readGauges t) s = .next (replyOk (gaugesData (setClock t s)) (setClock t s)) ∧
    (∀ n, exec (.readJournal t n) s = .next (replyOk (journalData n.toNat (setClock t s)) (setClock t s))) ∧
    (∀ n : Byte, s.cfg.lines.length = 24 → s.dlu.lines.length = 24 → 1 ≤ n.toNat → n.toNat ≤ 24 →
      ∃ c l, getN s.cfg.lines n.toNat = some c ∧ getN s.dlu.lines n.toNat = some l ∧
        exec (.readLine t n) s = .next (replyOk (lineData n.toNat c l (setClock t s)) (setClock t s))) ∧
    (∀ n : Byte, s.dlu.lines.length = 24 → (n.toNat = 0 ∨ 24 < n.toNat) →
      exec (.readLine t n) s = .next (refuse .noLine (setClock t s)))

/-- READ_JOURNAL: OK in every mode with the oldest serial or its absence, the next serial, and up to 6 entries from the serial
named, oldest first; the journal is left as it is (R132), in the layout of 11_formats.md (R201).  The zeros in the place of
an absent oldest serial are notes/assumptions/9.md, the next serial after the last one notes/assumptions/13.md, a volume
that does not fit its bytes notes/assumptions/31.md. -/
def Obligations.ReadJournalReplies : Prop :=
  ∀ (t : Nat) (from_ : BitVec 32) (s : State),
    exec (.readJournal t from_) s = .next (replyOk
      ((match s.fau.journal with
        | [] => [0, 0, 0, 0, 0]
        | e :: _ => 1 :: be 4 e.serial) ++
        be 4 s.fau.nextSerial ++
        be 1 ((s.fau.journal.filter fun e => decide (from_.toNat ≤ e.serial)).take 6).length ++
        ((s.fau.journal.filter fun e => decide (from_.toNat ≤ e.serial)).take 6).flatMap entryBytes)
      (setClock t s)) ∧
    (JournalOk s → (∀ e, s.fau.journal.head? = some e → from_.toNat ≤ e.serial) →
      (s.fau.journal.filter fun e => decide (from_.toNat ≤ e.serial)).take 6 = s.fau.journal.take 6) ∧
    (JournalOk s → s.fau.nextSerial ≤ from_.toNat →
      (s.fau.journal.filter fun e => decide (from_.toNat ≤ e.serial)).take 6 = []) ∧
    (∀ (c : Instr) (u v : State), exec (.readJournal t from_) s = .next u → isRequest c = false → isReset c = false →
      exec c u = .next v → v.svp.reply = u.svp.reply)

/-- JOIN_TIMER_EXPIRY in JOINING: RUNNING, the join timer idle, one ALERT in its slot with the contents in force, byte by byte;
otherwise nothing (R167, R185, R186, R200).  The station now contributes exactly when R23's seven conditions hold, and the
recompute made leaves the share, the targets and the steering figures that the inputs in force give (R23, R26, R28, R32 to
R43, R66 to R71). -/
def Obligations.JoinEnds : Prop :=
  ∀ (t : Nat) (s : State),
    (s.svp.mode = .joining → due (max s.clock t / 1000) s.svp.joinAt = true →
      ∃ u, exec (.joinTimerExpiry t) s = .next u ∧ u.svp.mode = .running ∧ u.svp.joinAt = none ∧
        u.lif.slotAlert = some (statusPayload u) ∧ StatusBytes (statusPayload u) u ∧
        (u.shu.contributing = true ↔ SevenHold u) ∧ ShareInForce u ∧ SteeringInForce u) ∧
    ((s.svp.mode ≠ .joining ∨ due (max s.clock t / 1000) s.svp.joinAt = false) →
      exec (.joinTimerExpiry t) s = .next (setClock t s))

/-! ## Convoy view (chapter 1) -/

/-- FORGET_PEER: NOT_NOW in CONFIGURING; NO_ENTRY without an entry, which the own number and numbers outside 1 to 6 never
have; NOT_LOST for a LIVE or STALE entry; a LOST entry is removed.  A frame of the station taken first makes the entry LIVE
and the request NOT_LOST; the request taken first, the frame makes a new entry (R7). -/
def Obligations.ForgetPeerAnswers : Prop :=
  ∀ (t : Nat) (n : Byte) (s : State),
    (s.svp.mode = .configuring → exec (.forgetPeer t n) s = .next (replyStatus .notNow (setClock t s))) ∧
    (s.svp.mode ≠ .configuring →
      (peerOf n.toNat s = none → exec (.forgetPeer t n) s = .next (refuse .noEntry (setClock t s))) ∧
      (PeersOk s.cfg.station s.cvu.peers → (n.toNat = s.cfg.station ∨ n.toNat = 0 ∨ 6 < n.toNat) →
        peerOf n.toNat s = none) ∧
      ∀ p, peerOf n.toNat s = some p →
        (p.state ≠ .lost → exec (.forgetPeer t n) s = .next (refuse .notLost (setClock t s))) ∧
        (p.state = .lost →
          ∃ u, exec (.forgetPeer t n) s = .next u ∧ u.svp.reply = { status := .ok, reason := none, data := [] } ∧
            peerOf n.toNat u = none ∧ ∀ m, m ≠ n.toNat → peerOf m u = peerOf m s) ∧
        ∀ (k : FrameKind) (t' : Nat) (f : RxFrame), wfFrame k f = true → RxFrame.sender f = n.toNat →
          n.toNat ≠ s.cfg.station → s.lif.awaitIdle = false → p.state = .lost →
          (∃ u q, exec (frameCommand k t' f) s = .next u ∧ peerOf n.toNat u = some q ∧ q.state = .live ∧
            exec (.forgetPeer t n) u = .next (refuse .notLost (setClock t u))) ∧
          ∃ u v q, exec (.forgetPeer t n) s = .next u ∧ exec (frameCommand k t' f) u = .next v ∧
            peerOf n.toNat v = some q ∧ q.state = .live ∧ q.heard = 1)

/-- An intact STATUS or ALERT of another station is stored: the entry is LIVE, its periods clamped, its STATUS part the carried
one with the rated total and the r_nom contribution capped, its other parts kept; a STATUS keeps the sequence fields by the
gap rule and an ALERT leaves them; R_nom and r_nom are summed anew; no other entry changes (R2, R3, R9, R179, R180).  The
share, the targets, the steering figures, the summary and f_cpl are then those of the view as it stands, and with no
pull-off in progress a change of summary has placed an ALERT (R28, R32 to R43, R67 to R71, R95 to R97). -/
def Obligations.StatusContentsStored : Prop :=
  ∀ (t : Nat) (k : FrameKind) (f : RxFrame) (s : State), (k = .status ∨ k = .alert) → wfFrame k f = true →
    s.svp.mode ≠ .configuring → s.lif.awaitIdle = false → RxFrame.sender f ≠ s.cfg.station →
    ∃ u p st, exec (frameCommand k t f) s = .next u ∧ peerOf (RxFrame.sender f) u = some p ∧
      p.statusPart = some st ∧ st = decodeStatus f.payload ∧ p.state = .live ∧ p.lastHeard = u.now ∧
      p.statusPeriod = max 100 (min 1000 (u16 f.payload 4)) ∧ p.lostCount = max 5 (min 30 (u8 f.payload 3)) ∧
      st.rated = min 12000 (u16 f.payload 6) ∧ st.cAhead = u16 f.payload 8 ∧ st.cAstern = u16 f.payload 10 ∧
      st.phi = u16 f.payload 12 ∧ st.rNom = min 4500 (u16 f.payload 14) ∧ st.rLive = u16 f.payload 16 ∧
      st.contributing = (f.payload.getD 1 0).getLsbD 0 ∧ st.departing = (f.payload.getD 1 0).getLsbD 1 ∧
      st.parted = (f.payload.getD 1 0).getLsbD 2 ∧
      (match peerOf (RxFrame.sender f) s with
        | none =>
          p.heard = 1 ∧ p.gapCount = 0 ∧ p.lastSeq = (if k = .status then some f.seq.toNat else none) ∧
            p.helmPart = none ∧ p.fuelPart = none
        | some o =>
          p.heard = min (o.heard + 1) 65535 ∧ p.helmPart = o.helmPart ∧ p.fuelPart = o.fuelPart ∧
            if k = .status then
              p.lastSeq = some f.seq.toNat ∧
                p.gapCount =
                  match o.lastSeq with
                  | none => o.gapCount
                  | some l => min (o.gapCount + (f.seq.toNat + 255 - l) % 256) 65535
            else p.lastSeq = o.lastSeq ∧ p.gapCount = o.gapCount) ∧
      (∀ m, m ≠ RxFrame.sender f → peerOf m u = peerOf m s) ∧
      u.cvu.powerNom = (u.cfg.shafts.map (·.rated)).sum + (u.cvu.peers.map peerRated).sum ∧
      u.cvu.rudderNom = (u.cfg.shafts.map (·.gRud)).sum + (u.cvu.peers.map peerNominal).sum ∧
      u.lif.receivedOk = min (s.lif.receivedOk + 1) 65535 ∧
      ShareInForce u ∧ SteeringInForce u ∧ CouplingInForce u ∧
      ((∀ o, peerOf (RxFrame.sender f) s = some o → o.state ≠ .lost) → s.cpc.pullOff = none → SummaryAlert s u)

/-- An intact HELM of another station is stored: a helm event replaces the helm part, D and δ clamped and the period in
milliseconds; any other HELM leaves it; the entry is refreshed, its other parts and the other entries are kept (R3, R4). -/
def Obligations.HelmContentsStored : Prop :=
  ∀ (t : Nat) (f : RxFrame) (s : State), wfFrame .helm f = true → s.svp.mode ≠ .configuring →
    s.lif.awaitIdle = false → RxFrame.sender f ≠ s.cfg.station →
    ∃ u p, exec (.helmFrame t f) s = .next u ∧ peerOf (RxFrame.sender f) u = some p ∧ p.state = .live ∧
      p.lastHeard = u.now ∧
      ((1 ≤ u8 f.payload 0 ∧ u8 f.payload 0 ≤ 6 ∧ 5 ≤ u8 f.payload 1 ∧ u8 f.payload 1 ≤ 50) →
        p.helmPart = some
          { rank := u8 f.payload 0, period := u8 f.payload 1 * 10, yielded := decide (u8 f.payload 2 ≠ 0)
            d := max (-1000) (min 1000 (s16 f.payload 3)), delta := max (-350) (min 350 (s16 f.payload 5))
            order := u8 f.payload 7, releaseSet := stationSet (f.payload.getD 8 0)
            remakeSet := stationSet (f.payload.getD 9 0), lastHelm := u.now, expired := false }) ∧
      (¬(1 ≤ u8 f.payload 0 ∧ u8 f.payload 0 ≤ 6 ∧ 5 ≤ u8 f.payload 1 ∧ u8 f.payload 1 ≤ 50) →
        p.helmPart = (peerOf (RxFrame.sender f) s).bind (·.helmPart)) ∧
      p.statusPart = (peerOf (RxFrame.sender f) s).bind (·.statusPart) ∧
      p.fuelPart = (peerOf (RxFrame.sender f) s).bind (·.fuelPart) ∧
      p.lastSeq = (peerOf (RxFrame.sender f) s).bind (·.lastSeq) ∧
      (∀ m, m ≠ RxFrame.sender f → peerOf m u = peerOf m s)

/-- An intact FUEL of another station replaces the fuel part and refreshes the entry; its other parts and the other entries are
kept; the convoy totals are the own figures and those of every fuel part held (R4, R134). -/
def Obligations.FuelContentsStored : Prop :=
  ∀ (t : Nat) (f : RxFrame) (s : State), wfFrame .fuel f = true → s.svp.mode ≠ .configuring →
    s.lif.awaitIdle = false → RxFrame.sender f ≠ s.cfg.station →
    ∃ u p, exec (.fuelFrame t f) s = .next u ∧ peerOf (RxFrame.sender f) u = some p ∧ p.state = .live ∧
      p.lastHeard = u.now ∧
      p.fuelPart = some
        { aboard := u32 f.payload 0, burn := u16 f.payload 4, reserve := decide (u8 f.payload 6 ≠ 0)
          lastFuel := u.now } ∧
      p.statusPart = (peerOf (RxFrame.sender f) s).bind (·.statusPart) ∧
      p.helmPart = (peerOf (RxFrame.sender f) s).bind (·.helmPart) ∧
      (∀ m, m ≠ RxFrame.sender f → peerOf m u = peerOf m s) ∧
      u.fau.convoyAboard = u.fau.aboard + ((fuelParts u).map fun x => x.1.aboard).sum ∧
      u.fau.convoyBurn = u.fau.burn + ((fuelParts u).map fun x => x.1.burn).sum

/-- After a helm event the station followed is the candidate that no other is preferred to: the lower rank, and among equal
ranks the lower number; no station is followed when there is no candidate (R14).  A sender not followed passes no order.  One
newly followed gives D, δ and the baseline, and its orders are not acted on (R16, R17, R20).  From one followed before and
still, D and δ are taken first; then, where its order number differs from the baseline's, the baseline takes the order, and
the own number's passage into or out of the release set, and into the remake set where no release is requested, passes a
release request, a withdrawal or a remake request to the coupling controller, a withdrawal before a remake (R17, R19, R20).
A change of D or δ leaves the share and the steering figures that the new order gives (R28, R35 to R40, R70).  Where the
followed claimant yields and no candidate is left the helm is lost: HELM_LOST, GRACE with D and δ held, no baseline, the grace
timer started (R18); the own claim follows the selection, with the HELM placed on entry to CLAIMING and the yield frame on
leaving it (R10, R11, R13).
The model's own: the last order number acted on takes every order number examined (notes/assumptions/14.md), and a HELM by
which the followed claimant yields passes no D and δ (notes/assumptions/28.md).  The frame is one the receiver assembles:
while it waits for an idle line nothing is received (R165, R176). -/
def Obligations.FollowedIsPreferred : Prop :=
  ∀ (t : Nat) (f : RxFrame) (s : State), wfFrame .helm f = true → s.svp.mode ≠ .configuring →
    s.lif.awaitIdle = false → RxFrame.sender f ≠ s.cfg.station → PeersOk s.cfg.station s.cvu.peers →
    helmEvent f.payload = true →
    ∃ u, exec (.helmFrame t f) s = .next u ∧
      (match u.cvu.followed with
      | none => candidates u = []
      | some n => ∃ c ∈ candidates u, c.number = n ∧
          ∀ d ∈ candidates u, d = c ∨ c.rank < d.rank ∨ (c.rank = d.rank ∧ c.number < d.number)) ∧
      (let n := RxFrame.sender f
      let D := max (-1000) (min 1000 (s16 f.payload 3))
      let delta := max (-350) (min 350 (s16 f.payload 5))
      let order := u8 f.payload 7
      let rel := stationSet (f.payload.getD 8 0)
      let rem := stationSet (f.payload.getD 9 0)
      let v := reselect (tellArrival .helm (wakes (peerOf n s))
        (storeFrame .helm f (countReceived (frameSeen (setClock t s)))))
      SelectedAnew (storeFrame .helm f (countReceived (frameSeen (setClock t s)))) v ∧
      (u.cvu.followed ≠ some n → u = v) ∧
      (u.cvu.followed = some n → s.cvu.followed ≠ some n →
        u = v ∧ u.cvu.effD = D ∧ u.cvu.effDelta = delta ∧ u.cvu.helmState = .following ∧ u.cvu.graceAt = none ∧
          u.cvu.baseline = some { claimant := n, order := order, releaseSet := rel, remakeSet := rem } ∧
          u.cvu.lastActed = s.cvu.lastActed) ∧
      ∀ b, u.cvu.followed = some n → s.cvu.followed = some n → s.cvu.baseline = some b →
        u.cvu.effD = D ∧ u.cvu.effDelta = delta ∧
        (order = b.order → u = takeEffective D delta v ∧ u.cvu.baseline = some b ∧
          (s.cvu.effD ≠ D ∨ s.cvu.effDelta ≠ delta → ShareInForce u ∧ SteeringInForce u)) ∧
        (order ≠ b.order →
          u.cvu.baseline = some { claimant := n, order := order, releaseSet := rel, remakeSet := rem } ∧
          u.cvu.lastActed = some order ∧
          (let own := s.cfg.station
          let w := { takeEffective D delta v with
            cvu :=
              { (takeEffective D delta v).cvu with
                baseline := some { claimant := n, order := order, releaseSet := rel, remakeSet := rem }
                lastActed := some order } }
          (own ∉ b.releaseSet → own ∈ rel → u = releaseRequest (.helm n) w) ∧
          (own ∈ b.releaseSet → own ∉ rel → (own ∈ b.remakeSet ∨ own ∉ rem) → u = withdrawRelease (.helm n) w) ∧
          (own ∈ b.releaseSet → own ∉ rel → own ∉ b.remakeSet → own ∈ rem →
            u = remakeOrder (withdrawRelease (.helm n) w)) ∧
          ((own ∈ b.releaseSet ↔ own ∈ rel) → own ∉ b.remakeSet → own ∈ rem → u = remakeOrder w) ∧
          ((own ∈ b.releaseSet ↔ own ∈ rel) → (own ∈ b.remakeSet ∨ own ∉ rem) → u = w))))

/-- The ageing of an entry: at its stale expiry a LIVE entry becomes STALE; at its lost expiry an entry becomes LOST with its
fields kept and PEER_LOST raised, or is removed where its last STATUS announced departure; before, nothing (R5, R6, R8).
Either change leaves the share, the steering figures, the summary and f_cpl that the view now gives; where it changes the
summary, with no pull-off in progress, an ALERT is placed, at a lost expiry before the selection (R28, R36, R68, R95 to R97).
At the lost expiry the followed claimant is selected anew, with the loss of helm where no candidate is left (R6, R8, R14,
R18); the nominal sums keep a LOST entry and shrink by a removed one (R8, R9). -/
def Obligations.PeerAges : Prop :=
  ∀ (t n : Nat) (s : State) (p : Peer), peerOf n s = some p →
    (p.state = .live → p.lastHeard + 3 * p.statusPeriod ≤ max s.clock t / 1000 →
      ∃ u, exec (.staleExpiry t n) s = .next u ∧ peerOf n u = some { p with state := .stale } ∧
        (∀ m, m ≠ n → peerOf m u = peerOf m s) ∧ (s.cpc.pullOff = none → SummaryAlert s u) ∧
        (s.svp.mode ≠ .configuring → ShareInForce u ∧ SteeringInForce u ∧ CouplingInForce u)) ∧
    ((p.state ≠ .live ∨ max s.clock t / 1000 < p.lastHeard + 3 * p.statusPeriod) →
      exec (.staleExpiry t n) s = .next (setClock t s)) ∧
    (p.state ≠ .lost → p.lastHeard + p.lostCount * p.statusPeriod ≤ max s.clock t / 1000 →
      ∃ u, exec (.lostExpiry t n) s = .next u ∧ (∀ m, m ≠ n → peerOf m u = peerOf m s) ∧
        (s.svp.mode ≠ .configuring → ShareInForce u ∧ SteeringInForce u ∧ CouplingInForce u) ∧
        (announcedDeparture p = true →
          peerOf n u = none ∧ flagSet .peerLost u = flagSet .peerLost s ∧
          u.cvu.powerNom = (s.cfg.shafts.map (·.rated)).sum + (u.cvu.peers.map ratedOf).sum ∧
          u.cvu.rudderNom = (s.cfg.shafts.map (·.gRud)).sum + (u.cvu.peers.map nominalOf).sum ∧
          (s.cpc.pullOff = none → SummaryAlert s u) ∧
          (PeersOk s.cfg.station s.cvu.peers →
            SelectedAnew { s with
              clock := max s.clock t
              cvu := { s.cvu with peers := s.cvu.peers.filter fun q => decide (q.number ≠ n) } } u)) ∧
        (announcedDeparture p = false →
          let lost := modPeer n (fun q => { q with state := .lost }) (setClock t s)
          peerOf n u = some { p with state := .lost } ∧ flagSet .peerLost u = true ∧
          u.cvu.powerNom = s.cvu.powerNom ∧ u.cvu.rudderNom = s.cvu.rudderNom ∧
          (s.cpc.pullOff = none →
            (u.cvu.followed = s.cvu.followed → SummaryAlert s u) ∧
            SummaryAlert s (noticePeers (raiseFlag .peerLost lost)) ∧
            u.cpc.summary = (noticePeers (raiseFlag .peerLost lost)).cpc.summary ∧
            u.lif.slotAlert = (noticePeers (raiseFlag .peerLost lost)).lif.slotAlert) ∧
          (PeersOk s.cfg.station s.cvu.peers → SelectedAnew lost u))) ∧
    ((p.state = .lost ∨ max s.clock t / 1000 < p.lastHeard + p.lostCount * p.statusPeriod) →
      exec (.lostExpiry t n) s = .next (setClock t s))

/-- The timers of the helm and of the mute.  At its helm age the helm part stops being within age, the entry keeps the rest
and the followed claimant is selected anew: the preferred candidate left is followed; with none left HELM_LOST is raised, GRACE
holds D and δ, the baseline is absent and the grace timer runs (R14, R15, R16, R18).  The grace time ends in NO_HELM with D and
δ 0 (R18); the mute expiry mutes the station and takes it out of contribution (R24); each before its moment does nothing.  The
end of the grace time recomputes the share and tells the steering; so does a mute that ends contribution, by which every
FOLLOWING rudder outside local mode becomes PARKED with set-point 0 (R26, R28, R66, R70, R71). -/
def Obligations.HelmAndMuteTimers : Prop :=
  ∀ (t : Nat) (s : State),
    (∀ n p h, peerOf n s = some p → p.helmPart = some h → h.expired = false →
      (h.lastHelm + 3 * h.period ≤ max s.clock t / 1000 →
        ∃ u, exec (.helmAgeExpiry t n) s = .next u ∧
          peerOf n u = some { p with helmPart := some { h with expired := true } } ∧
          (∀ m, m ≠ n → peerOf m u = peerOf m s) ∧
          (PeersOk s.cfg.station s.cvu.peers →
            SelectedAnew (modPeer n
              (fun q => { q with helmPart := q.helmPart.map fun x => { x with expired := true } }) (setClock t s)) u)) ∧
      (max s.clock t / 1000 < h.lastHelm + 3 * h.period → exec (.helmAgeExpiry t n) s = .next (setClock t s))) ∧
    (due (max s.clock t / 1000) s.cvu.graceAt = true →
      ∃ u, exec (.graceExpiry t) s = .next u ∧ u.cvu.helmState = .noHelm ∧ u.cvu.effD = 0 ∧ u.cvu.effDelta = 0 ∧
        u.cvu.graceAt = none ∧ u.cvu.followed = s.cvu.followed ∧ SteeringInForce u ∧
        (s.svp.mode ≠ .configuring → ShareInForce u)) ∧
    (due (max s.clock t / 1000) s.cvu.graceAt = false → exec (.graceExpiry t) s = .next (setClock t s)) ∧
    (∀ e, s.shu.muted = false → s.lif.lastSent = some e →
      (e + s.cfg.lostCount * s.cfg.statusPeriod ≤ max s.clock t / 1000 →
        ∃ u, exec (.muteExpiry t) s = .next u ∧ u.shu.muted = true ∧ u.shu.contributing = false ∧
          (s.shu.contributing = true → s.svp.mode ≠ .configuring → ShareInForce u ∧ SteeringInForce u ∧
            (s.svp.panel.localMode = false → ∀ n r, getN s.stc.rudders n = some r → r.state = .following →
              ∃ q, getN u.stc.rudders n = some q ∧ q.state = .parked ∧ q.setPoint = 0))) ∧
      (max s.clock t / 1000 < e + s.cfg.lostCount * s.cfg.statusPeriod →
        exec (.muteExpiry t) s = .next (setClock t s)))

/-! ## The convoy line (chapter 9) -/

/-- Frames that fail a check are discarded and counted: a framing, completeness or CRC fault in the CRC-error count, a frame
that fails R177 in the malformed count, and nothing beside the line's own state changes; the receiver then waits for an idle
line.  Nothing is received in CONFIGURING, nor while the receiver waits for an idle line, until the line goes idle; but the
part of a frame that a receiver switched on or restarted in mid-frame saw fails and is counted once (R165, R176, R177, R181;
what a frame command does while the receiver waits, and how R165 and R176 are held together, is notes/assumptions/6.md). -/
def Obligations.DiscardedFramesCounted : Prop :=
  ∀ (t : Nat) (s : State),
    (∀ x, s.svp.mode ≠ .configuring → s.lif.awaitIdle = false →
      ∃ u, exec (.crcError t x) s = .next u ∧ u.lif.awaitIdle = true ∧ u.lif.crcErrors = min (s.lif.crcErrors + 1) 65535 ∧
        u.lif.malformed = s.lif.malformed ∧ u.lif.receivedOk = s.lif.receivedOk ∧
        u = { s with clock := max s.clock t, lif := u.lif }) ∧
    (∀ (k : Byte) f, s.svp.mode ≠ .configuring → s.lif.awaitIdle = false → f.crc = frameCrc k.toNat f →
      headerOk k.toNat f = false →
      ∃ u, exec (.malformed t k f) s = .next u ∧ u.lif.awaitIdle = true ∧ u.lif.malformed = min (s.lif.malformed + 1) 65535 ∧
        u.lif.crcErrors = s.lif.crcErrors ∧ u.lif.receivedOk = s.lif.receivedOk ∧
        u = { s with clock := max s.clock t, lif := u.lif }) ∧
    (∀ k f, s.svp.mode ≠ .configuring → s.lif.awaitIdle = false → f.crc ≠ frameCrc (FrameKind.code k) f →
      ∃ u, exec (frameCommand k t f) s = .next u ∧ u.lif.awaitIdle = true ∧ u.lif.crcErrors = min (s.lif.crcErrors + 1) 65535 ∧
        u = { s with clock := max s.clock t, lif := u.lif }) ∧
    (∀ x, s.svp.mode ≠ .configuring → s.lif.awaitIdle = true → s.lif.midFrame = true →
      exec (.crcError t x) s = .next { s with
        clock := max s.clock t
        lif := { s.lif with crcErrors := min (s.lif.crcErrors + 1) 65535, midFrame := false } }) ∧
    (∀ x, (s.svp.mode = .configuring ∨ (s.lif.awaitIdle = true ∧ s.lif.midFrame = false)) →
      exec (.crcError t x) s = .next (setClock t s)) ∧
    ((s.svp.mode = .configuring ∨ s.lif.awaitIdle = true) →
      ∀ c, isFrame c = true → timeOf c = some t → exec c s = .next (setClock t s))

/-- A frame with the own number raises DUPLICATE; in JOINING and RUNNING the station becomes SILENT with its slots empty, its
transmitter stopped, no claim, no contribution and every shaft's target 0; in SILENT it stays; the peer table is left as it
is (R43, R63, R178, R187). -/
def Obligations.DuplicateSilences : Prop :=
  ∀ (t : Nat) (k : FrameKind) (f : RxFrame) (s : State), wfFrame k f = true → s.svp.mode ≠ .configuring →
    s.lif.awaitIdle = false → RxFrame.sender f = s.cfg.station →
    ∃ u, exec (.duplicate t k f) s = .next u ∧ u.svp.mode = .silent ∧ flagSet .duplicate u = true ∧
      u.cvu.peers = s.cvu.peers ∧ u.lif.receivedOk = s.lif.receivedOk ∧
      (s.svp.mode ≠ .silent →
        u.lif.slotAlert = none ∧ u.lif.slotHelm = none ∧ u.lif.slotStatus = none ∧ u.lif.slotFuel = none ∧
          u.lif.tx = none ∧ u.cvu.claim = .notClaiming ∧ u.shu.contributing = false ∧ u.svp.joinAt = none ∧
          ∀ n r c, getN u.sfc n = some r → getN s.cfg.shafts n = some c → r.target = 0)

/-- The line going idle starts the frame of the lowest class in the slots, where the transmitter is on, the listening period
over and no suspension lasts; the slot keeps its frame; otherwise only the idle line is noted; either way the receiver waits
no longer (R165, R169, R170, R176).  The transmitter is offered the line again when a frame is placed, when the suspension
ends and when the status timer, placing a STATUS, ends the listening period: it starts the frame of the lowest class, or, once
the start bit of another station has come before its own bit time, waits for the next idle; a frame placed during an own
transmission changes its slot and leaves the copy on the line untouched, and one placed before the own start bit has the
choice made again; in SILENT and CONFIGURING a placement is discarded (R168 to R170).  The model's choices: LINE_IDLE carries
the moment of another station's start bit, and bit times count from the idle (notes/assumptions/36.md); the choice of the frame stands from the own start bit on (notes/assumptions/37.md). -/
def Obligations.LineIdleStartsLowestSlot : Prop :=
  (∀ (t : Nat) (b : Option Nat) (s : State), s.lif.tx = none → s.svp.mode ≠ .configuring →
    (∀ k p, (s.svp.mode = .joining ∨ s.svp.mode = .running) → s.lif.listening = false → s.lif.suspendedAt = none →
      (∀ u, b = some u → max s.clock t ≤ u) →
      LowestFrame k p s.lif →
      exec (.lineIdle ⟨t, b⟩) s = .next { s with
        clock := max s.clock t
        lif := { s.lif with
          tx := some { kind := k, payload := p, startAt := max s.clock t }, lineIdle := none, awaitIdle := false
          midFrame := false } }) ∧
    ((s.svp.mode = .silent ∨ s.lif.listening = true ∨ s.lif.suspendedAt ≠ none ∨ (∃ u, b = some u ∧ u < max s.clock t) ∨
        ∀ j, slotOf j s.lif = none) →
      exec (.lineIdle ⟨t, b⟩) s = .next { s with
        clock := max s.clock t
        lif := { s.lif with
          lineIdle := some { since := max s.clock t, otherStart := b }, awaitIdle := false, midFrame := false } })) ∧
  (∀ (k : FrameKind) (p : List Byte) (s : State),
    ((s.svp.mode = .joining ∨ s.svp.mode = .running) → s.lif.tx = none →
      OffersLine { s with lif := setSlot k (some p) s.lif } (placeFrame k p s)) ∧
    (∀ x, (s.svp.mode = .joining ∨ s.svp.mode = .running) → s.lif.tx = some x →
      (x.sealed.isSome = true ∨ x.startAt < s.clock →
        placeFrame k p s = { s with
          lif := { setSlot k (some p) s.lif with
            tx := some { x with replaced := x.replaced || decide (x.kind = k) } } }) ∧
      (x.sealed = none → s.clock ≤ x.startAt → ∀ j q, LowestFrame j q (setSlot k (some p) s.lif) →
        placeFrame k p s = { s with
          lif := { setSlot k (some p) s.lif with
            tx := some { kind := j, payload := q, startAt := x.startAt } } })) ∧
    ((s.svp.mode = .silent ∨ s.svp.mode = .configuring) → placeFrame k p s = s)) ∧
  ∀ (t e : Nat) (s : State), e ≤ max s.clock t / 1000 →
    (s.lif.suspendedAt = some e →
      ∃ u, exec (.suspensionExpiry t) s = .next u ∧
        OffersLine { s with clock := max s.clock t, lif := { s.lif with suspendedAt := none } } u) ∧
    (s.lif.statusAt = some e → (s.svp.mode = .joining ∨ s.svp.mode = .running) → s.lif.tx = none →
      ∃ u, exec (.statusTimerExpiry t) s = .next u ∧
        OffersLine { s with
          clock := max s.clock t
          lif := { s.lif with
            slotStatus := some (statusPayload s), listening := false, statusAt := some (e + s.cfg.statusPeriod) } } u)

/-- A frame that completes its arbitration field takes the next number of its kind, its CRC is computed over the final contents,
and the counter of that kind alone rises, from 255 to 0; a frame that loses takes none; the number stays used whether the
frame ends in success or in error; the counters are 0 after the resets and kept across RESTART (R172). -/
def Obligations.SequenceNumbers : Prop :=
  ∀ (t : Nat) (s : State),
    (∀ x, s.lif.tx = some x → x.sealed = none →
      (∃ u, exec (.arbitrationComplete t) s = .next u ∧
        u.lif.tx = some { x with
          sealed := some (seqOf x.kind s.lif,
            crc16 (frameHead (arbValue x.kind s.cfg.station) (FrameKind.code x.kind) (seqOf x.kind s.lif)
              x.payload)) } ∧
        seqOf x.kind u.lif = (seqOf x.kind s.lif + 1) % 256 ∧
        (∀ k, k ≠ x.kind → seqOf k u.lif = seqOf k s.lif) ∧ u = { s with clock := max s.clock t, lif := u.lif }) ∧
      ∃ u, exec (.arbitrationLost t) s = .next u ∧ ∀ k, seqOf k u.lif = seqOf k s.lif) ∧
    (∀ u, (exec (.sentSuccessfully t) s = .next u ∨ exec (.transmitError t) s = .next u) →
      ∀ k, seqOf k u.lif = seqOf k s.lif) ∧
    (∀ straps u, (exec (.powerOn straps) s = .next u ∨ exec (.pinReset straps) s = .next u) →
      ∀ k, seqOf k u.lif = 0) ∧
    (∀ u, exec (.restart t) s = .next u → ∀ k, seqOf k u.lif = seqOf k s.lif)

/-- How an own transmission ends.  A lost arbitration keeps the slot.  A frame sent empties its slot unless that holds a newer
frame, clears the run count, and leaves the transmitter with no frame while the line is not idle; a STATUS or ALERT sent
records its time and unmutes: the station then contributes exactly when R23's seven conditions hold, and where that is a
change the share and the steering follow and an ALERT is placed, also in the slot an ALERT sent has just left (R23, R24,
R26).  A transmit error abandons the frame, and the sixteenth in a row suspends the transmitter for 1000 ms (R169, R171,
R173 to R175). -/
def Obligations.TransmissionEnds : Prop :=
  ∀ (t : Nat) (s : State) (x : Tx), s.lif.tx = some x →
    (x.sealed = none →
      exec (.arbitrationLost t) s = .next { s with
        clock := max s.clock t
        lif := { s.lif with tx := none, arbitrationLosses := min (s.lif.arbitrationLosses + 1) 65535 } }) ∧
    (x.sealed.isSome = true →
      ∃ u, exec (.sentSuccessfully t) s = .next u ∧ u.lif.runCount = 0 ∧
        u.lif.transmittedOk = min (s.lif.transmittedOk + 1) 65535 ∧
        (x.kind ≠ .alert ∨ u.shu.contributing = s.shu.contributing →
          slotOf x.kind u.lif = if x.replaced then slotOf x.kind s.lif else none) ∧
        (u.shu.contributing ≠ s.shu.contributing → (u.svp.mode = .joining ∨ u.svp.mode = .running) →
          u.lif.slotAlert = some (statusPayload u)) ∧
        (s.lif.lineIdle = none → u.lif.tx = none) ∧
        ((x.kind = .status ∨ x.kind = .alert) →
          u.lif.lastSent = some u.now ∧ u.shu.muted = false ∧ (u.shu.contributing = true ↔ SevenHold u) ∧
          (u.shu.contributing ≠ s.shu.contributing → u.svp.mode ≠ .configuring →
            ShareInForce u ∧ SteeringInForce u)) ∧
        ((x.kind = .helm ∨ x.kind = .fuel) → u.lif.tx = none ∧ u.lif.lastSent = s.lif.lastSent ∧ u.shu = s.shu)) ∧
    (∃ u, exec (.transmitError t) s = .next u ∧ u.lif.tx = none ∧
      slotOf x.kind u.lif = (if x.replaced then slotOf x.kind s.lif else none) ∧
      (∀ k, k ≠ x.kind → slotOf k u.lif = slotOf k s.lif) ∧
      u.lif.transmitErrors = min (s.lif.transmitErrors + 1) 65535 ∧ u.lif.lastSent = s.lif.lastSent ∧
      (s.lif.runCount + 1 < 16 → u.lif.runCount = s.lif.runCount + 1 ∧ u.lif.suspendedAt = s.lif.suspendedAt) ∧
      (16 ≤ s.lif.runCount + 1 →
        u.lif.runCount = 0 ∧ u.lif.suspensions = min (s.lif.suspensions + 1) 65535 ∧
          u.lif.suspendedAt = some (u.now + 1000) ∧ flagSet .lineSuspended u = true))

/-- The line's own timers: the status timer places a STATUS and ends the listening period, the helm period places a HELM while
CLAIMING, the fuel period a FUEL, each restarted from its expiry; the suspension ends at its expiry; before, nothing (R11,
R133, R168, R175), and the payloads carry the values in force, byte by byte (R167, R200).  That the restart is from the expiry however late the command is taken is notes/assumptions/20.md; that a
command before its moment does nothing is notes/assumptions/4.md. -/
def Obligations.PeriodicFramesPlaced : Prop :=
  ∀ (t : Nat) (s : State),
    (∀ e, s.lif.statusAt = some e → e ≤ max s.clock t / 1000 →
      ∃ u, exec (.statusTimerExpiry t) s = .next u ∧ u.lif.listening = false ∧
        u.lif.statusAt = some (e + s.cfg.statusPeriod) ∧
        u.lif.slotStatus =
          (if s.svp.mode = .joining ∨ s.svp.mode = .running then some (statusPayload s) else s.lif.slotStatus) ∧
        StatusBytes (statusPayload s) s) ∧
    (∀ e, s.cvu.claim = .claiming → s.cvu.helmAt = some e → e ≤ max s.clock t / 1000 →
      ∃ u, exec (.helmPeriodExpiry t) s = .next u ∧ u.cvu.helmAt = some (e + s.cfg.helmUnits * 10) ∧
        u.lif.slotHelm =
          (if s.svp.mode = .joining ∨ s.svp.mode = .running then some (helmPayload (helmContents s) false)
          else s.lif.slotHelm) ∧
        HelmBytes (helmPayload (helmContents s) false) s) ∧
    (∀ e, s.fau.fuelAt = some e → e ≤ max s.clock t / 1000 →
      ∃ u, exec (.fuelPeriodExpiry t) s = .next u ∧ u.fau.fuelAt = some (e + s.cfg.fuelPeriod * 1000) ∧
        u.lif.slotFuel =
          (if s.svp.mode = .joining ∨ s.svp.mode = .running then some (fuelPayload s) else s.lif.slotFuel) ∧
        (s.cfg.tanks.length = s.fau.tanks.length → FuelBytes (fuelPayload s) s)) ∧
    (∀ e, s.lif.suspendedAt = some e → e ≤ max s.clock t / 1000 →
      ∃ u, exec (.suspensionExpiry t) s = .next u ∧ u.lif.suspendedAt = none) ∧
    (due (max s.clock t / 1000) s.lif.statusAt = false → exec (.statusTimerExpiry t) s = .next (setClock t s)) ∧
    ((s.cvu.claim ≠ .claiming ∨ due (max s.clock t / 1000) s.cvu.helmAt = false) →
      exec (.helmPeriodExpiry t) s = .next (setClock t s)) ∧
    (due (max s.clock t / 1000) s.fau.fuelAt = false → exec (.fuelPeriodExpiry t) s = .next (setClock t s)) ∧
    (due (max s.clock t / 1000) s.lif.suspendedAt = false → exec (.suspensionExpiry t) s = .next (setClock t s))

/-! ## Thrust sharing (chapter 2) -/

/-- Share filling: where the demand covers the capacities every member takes its own; otherwise the members are visited by
C/w, ties by number, each that its part Er × w / Wr reaches takes its capacity, and from the first that its part does not
reach on every member takes its part, with the Er and Wr of that point (R37, R38).  So no member takes more than its
capacity, the takes never exceed the demand, and truncation leaves less than 1 kW a member undrawn.  Every recompute, such as
the one that GRACE_EXPIRY makes, leaves what the stages give for the inputs in force: the capacities, the demand and its
direction, S, S', shortfall and deficit, and the targets and availabilities delivered (R28, R32 to R43, R46).  SHORTFALL is
raised on the passage from no to yes alone (R37), and what the share is computed from stays as it was.  The delivery brings P
down to the availability in the engaged direction and does not raise it (R46, R49); a NEUTRAL shaft with a nonzero target and
an engine that runs takes the target's direction (R50), a shaft at P 0 with a reversal pending goes to DWELL with its timer
started (R51), any other keeps its direction state; rpm and duty follow P (R59); the clutch lines are written on a change of
direction state and the governor line where the duty is not the one last written, and not otherwise (R60, R61); a changed
direction state is told to the steering (R62). -/
def Obligations.ShareFillsWithinDemand : Prop :=
  (∀ s : State, s.svp.mode ≠ .configuring →
    ShareInForce (recompute s) ∧
    (s.cpc.pullOff = none ∨ (recompute s).cpc.pullOff.isSome = true →
      (∀ f, flagSet f (recompute s) =
        (flagSet f s || decide (f = .shortfall ∧ s.shu.shortfall = false ∧ (recompute s).shu.shortfall = true))) ∧
      (∀ n r c, getN s.sfc n = some r → getN s.cfg.shafts n = some c →
        ∃ q, getN (recompute s).sfc n = some q ∧
          q.p = (match r.dir with
            | .ahead => min r.p q.aAhead
            | .astern => min r.p q.aAstern
            | .neutral => r.p
            | .dwell => r.p) ∧
          DirectionSettled s.now s.svp.mode c r q ∧ q.commanded = curveRpm c q.p ∧
          q.duty = governorDuty c q.commanded ∧ ShaftLines n False r q s (recompute s) ∧
          (q.dir ≠ r.dir → SteeringInForce (recompute s)) ∧
          q = { r with
            dir := q.dir, p := q.p, target := q.target, targetWay := q.targetWay, aAhead := q.aAhead
            aAstern := q.aAstern, dwellAt := q.dwellAt, commanded := q.commanded, duty := q.duty
            dutyWritten := q.dutyWritten, clutchWritten := q.clutchWritten }) ∧
      (recompute s).shu.contributing = s.shu.contributing ∧ (recompute s).shu.phi = s.shu.phi ∧
      (recompute s).cvu = s.cvu ∧ (recompute s).cpc = s.cpc ∧ (recompute s).fau = s.fau ∧ (recompute s).lif = s.lif)) ∧
  (∀ (t : Nat) (s : State), s.svp.mode ≠ .configuring → due (max s.clock t / 1000) s.cvu.graceAt = true →
    exec (.graceExpiry t) s = .next (stcNotice (recompute { s with
      clock := max s.clock t
      cvu := { s.cvu with helmState := .noHelm, graceAt := none, effD := 0, effDelta := 0 } }))) ∧
  ∀ (e : Nat) (ms : List Member), (∀ m ∈ ms, realMember m = true) →
    ((ms.map (·.c)).sum ≤ e → takes e ms = ms.map fun m => (m.number, m.c)) ∧
    (e < (ms.map (·.c)).sum → ∃ full rest, WalkStops e ms full rest ∧
      takes e ms = full.map (fun m => (m.number, m.c)) ++ rest.map fun m => (m.number, rulePart e ms full m)) ∧
    ((takes e ms).map (·.2)).sum ≤ e ∧ (takes e ms).length = ms.length ∧
    (∀ x ∈ takes e ms, ∃ m ∈ ms, m.number = x.1 ∧ x.2 ≤ m.c) ∧
    (sumC ms ≤ e → ((takes e ms).map (·.2)).sum = sumC ms) ∧
    (e < sumC ms → e < ((takes e ms).map (·.2)).sum + ms.length)

/-- The shaft split: each shaft's target is S' × A / C, truncated, and of the remainder what is left, up to its availability,
by the shafts served before it, the largest availability first and of equal ones the lower number (R40).  So the targets add
up to the biased share and none exceeds its shaft's availability, for every share within the station's capacity; where the
whole remainder fits the first of them, it has it all, and the others their quotients. -/
def Obligations.SplitKeepsShare : Prop :=
  ∀ (b : Nat) (as : List Nat),
    (splitShare b as.sum as).length = as.length ∧
    (∀ n a, getN as n = some a → getN (splitShare b as.sum as) n = some (ruleTarget b as n a)) ∧
    (b ≤ as.sum →
      (splitShare b as.sum as).sum = b ∧
      (∀ n a, getN as n = some a → ∃ x, getN (splitShare b as.sum as) n = some x ∧ b * a / as.sum ≤ x ∧ x ≤ a) ∧
      ∀ k a, getN as k = some a → (∀ m x, getN as m = some x → x < a ∨ (x = a ∧ k ≤ m)) →
        (let rest := b - (as.map fun x => b * x / as.sum).sum
        b * a / as.sum + rest ≤ a →
          getN (splitShare b as.sum as) k = some (b * a / as.sum + rest) ∧
            ∀ m x, m ≠ k → getN as m = some x → getN (splitShare b as.sum as) m = some (b * x / as.sum)))

/-! ## Shafts and rudders (chapters 3 and 4) -/

/-- CONTROL_STEP with no pull-off in progress and no estimated burn to hand on: P moves toward the goal by no more than the
up limit, or the down limit, or the emergency limit while parted, SILENT or with the engine stopped; the commanded rpm and
the duty follow P; no other shaft changes; the timer is restarted; before its moment nothing happens (R47, R48, R59, R60).  A
NEUTRAL shaft with a nonzero target and an engine that runs takes the target's direction (R50), a shaft at P 0 with a
reversal pending goes to DWELL with its timer started (R51), any other keeps its direction state.  Both clutch lines are
written on a change of direction state and at the first control step, the governor line where the duty is not the one last
written, and neither otherwise (R60, R61, R64; that the first step writes the line of the state it finds,
notes/assumptions/16.md); a changed direction state is told to the steering (R62).  A step with a pull-off in progress is in
PullOffTimesOut.  A step of an engine that turns while its burn is being estimated books P × specific consumption × step /
3600 µL of the new P: whole millilitres leave the day tank and are noted as estimated, quanta leave since-booked and the
estimated part, and the last rate is P × specific consumption / 100, or 0 with the estimating ended where the booking leaves
the engine in FUEL_OUT (R62, R115 to R119; that the rate is set before the booking, notes/assumptions/32.md).  The restart
from the expiry however late the command is taken is notes/assumptions/20.md, nothing before its moment
notes/assumptions/4.md. -/
def Obligations.ControlStepRamps : Prop :=
  ∀ (t n : Nat) (s : State) (r : Shaft) (c : ShaftCfg), getN s.sfc n = some r → getN s.cfg.shafts n = some c →
    (∀ e, r.stepAt = some e → e ≤ max s.clock t / 1000 → s.cpc.pullOff = none →
      (∀ b, getN s.fau.burns n = some b → b.estimating = false ∨ (r.engine ≠ .running ∧ r.engine ≠ .limited)) →
      ∃ u q, exec (.controlStep t n) s = .next u ∧ getN u.sfc n = some q ∧
        (let emergency := s.cpc.parted || decide (s.svp.mode = .silent) || !engineTurns r.engine
         let up := max 1 (c.rampUp * s.cfg.controlStep / 1000)
         let down := max 1 ((if emergency then c.rampEmergency else c.rampDown) * s.cfg.controlStep / 1000)
         q.emergency = emergency ∧
           q.p = if r.p < goalOf r then min (goalOf r) (r.p + up) else max (goalOf r) (r.p - down)) ∧
        q.commanded = curveRpm c q.p ∧ q.duty = governorDuty c q.commanded ∧
        q.stepAt = some (e + s.cfg.controlStep) ∧
        DirectionSettled (max s.clock t / 1000) s.svp.mode c r q ∧ ShaftLines n (r.clutchWritten = false) r q s u ∧
        (q.dir ≠ r.dir → SteeringInForce u) ∧
        q = { r with
          dir := q.dir, p := q.p, dwellAt := q.dwellAt, commanded := q.commanded, duty := q.duty
          dutyWritten := q.dutyWritten, clutchWritten := q.clutchWritten, emergency := q.emergency
          stepAt := q.stepAt } ∧
        (∀ m, m ≠ n → getN u.sfc m = getN s.sfc m)) ∧
    (∀ e b k, r.stepAt = some e → e ≤ max s.clock t / 1000 → s.cpc.pullOff = none → getN s.fau.burns n = some b →
      b.estimating = true → boundDead .flow (some n) s = true → (r.engine = .running ∨ r.engine = .limited) →
      getN s.fau.tanks c.dayTank = some k → 0 < c.quantum →
      let up := max 1 (c.rampUp * s.cfg.controlStep / 1000)
      let down := max 1
        ((if s.cpc.parted = true ∨ s.svp.mode = .silent then c.rampEmergency else c.rampDown) * s.cfg.controlStep / 1000)
      let p := if r.p < goalOf r then min (goalOf r) (r.p + up) else max (goalOf r) (r.p - down)
      let v := p * c.specific * s.cfg.controlStep / 3600
      let ml := (b.residue + v) / 1000
      let size := c.quantum * 1000
      (-(2 ^ 47) ≤ k.raw - (ml : Int)) → k.raw < 2 ^ 47 →
      ∃ u x q y, exec (.controlStep t n) s = .next u ∧ getN u.sfc n = some x ∧ getN u.fau.burns n = some q ∧
        getN u.fau.tanks c.dayTank = some y ∧ x.stepAt = some (e + s.cfg.controlStep) ∧
        y.raw = k.raw - (ml : Int) ∧ q.residue = (b.residue + v) % 1000 ∧
        q.sinceBooked = (b.sinceBooked + ml) % size ∧
        q.estimated = b.estimated + ml - (b.sinceBooked + ml) / size * size ∧
        (x.engine ≠ .fuelOut → x.engine = r.engine ∧ q.lastRate = p * c.specific / 100 ∧ q.estimating = true) ∧
        (x.engine = .fuelOut → q.lastRate = 0 ∧ q.estimating = false)) ∧
    (due (max s.clock t / 1000) r.stepAt = false → exec (.controlStep t n) s = .next (setClock t s))

/-- DWELL_EXPIRY: the shaft engages in its target's direction where it holds a target and its engine runs, and becomes
NEUTRAL otherwise, P unchanged; both clutch lines are written for the new direction state, and the steering is told (R52,
R61, R62).  DEVIATION_EXPIRY: a RUNNING engine still LOW becomes LIMITED and a LIMITED one still WITHIN becomes RUNNING.
Each timer stops; before its moment nothing happens (R52, R56; the last, notes/assumptions/4.md).  The class they follow
comes of the rpm results: the figure is recorded; in FUEL_OUT, and below the stop rpm in STOPPED, nothing else changes; at or
above it a STOPPED engine runs, with the class of that figure; below it a RUNNING or LIMITED engine stops, with ENGINE_FAULT
where it had a target or a set-point, and an engaged shaft goes to DWELL at 0, its timer started, both clutch lines written
off and the governor duty at its idle value, while a shaft in NEUTRAL or DWELL stays there; otherwise a changed class is held
and starts its timer (R53 to R57).  The rpm channel's DEAD notice stops an engine that runs as a figure below the stop rpm
does, and changes nothing for one that does not (R55). -/
def Obligations.DwellAndDeviationTimers : Prop :=
  (∀ (n count elapsed : Nat) (s : State) (r : Shaft) (c : ShaftCfg), getN s.sfc n = some r →
    getN s.cfg.shafts n = some c →
    let rpm := min 65535 (count * 60000000 / (elapsed * c.pulsesPerRev))
    let k : Deviation := if rpm + c.tolerance < r.commanded then .low else .within
    let u := rpmResult n count elapsed s
    ∃ q, getN u.sfc n = some q ∧ q.lastRpm = some (rpm, s.now) ∧
      (∀ m x, m ≠ n → getN s.sfc m = some x →
        ∃ y, getN u.sfc m = some y ∧ y.engine = x.engine ∧ y.lastRpm = x.lastRpm ∧ y.deviation = x.deviation) ∧
      (r.engine = .fuelOut ∨ (r.engine = .stopped ∧ rpm < c.stopRpm) →
        q = { r with lastRpm := some (rpm, s.now) } ∧ u = { s with sfc := u.sfc }) ∧
      (r.engine = .stopped → c.stopRpm ≤ rpm →
        q.engine = .running ∧ q.deviation = some k ∧ q.deviationAt = some (s.now + c.deviationTime)) ∧
      ((r.engine = .running ∨ r.engine = .limited) → rpm < c.stopRpm →
        q.engine = .stopped ∧ q.deviation = none ∧ q.deviationAt = none ∧
          ((r.target ≠ 0 ∨ r.p ≠ 0) → flagSet .engineFault u = true) ∧
          (r.target = 0 → r.p = 0 → flagSet .engineFault u = flagSet .engineFault s) ∧
          ((r.dir = .ahead ∨ r.dir = .astern) →
            q.dir = .dwell ∧ q.p = 0 ∧ q.dwellAt = some (s.now + c.dwell) ∧ q.duty = c.dutyIdle ∧
              ShaftLines n False r q s u) ∧
          ((r.dir = .neutral ∨ r.dir = .dwell) → q.dir = r.dir ∧ q.p = r.p ∧ q.dwellAt = r.dwellAt)) ∧
      ((r.engine = .running ∨ r.engine = .limited) → c.stopRpm ≤ rpm →
        u = { s with sfc := u.sfc } ∧
          (r.deviation = some k → q = { r with lastRpm := some (rpm, s.now) }) ∧
          (r.deviation ≠ some k →
            q = { r with
              lastRpm := some (rpm, s.now), deviation := some k, deviationAt := some (s.now + c.deviationTime) }))) ∧
  (∀ (n : Nat) (s : State) (r : Shaft) (c : ShaftCfg), getN s.sfc n = some r → getN s.cfg.shafts n = some c →
    ((r.engine = .stopped ∨ r.engine = .fuelOut) → rpmDead n s = s) ∧
    ((r.engine = .running ∨ r.engine = .limited) →
      ∃ q, getN (rpmDead n s).sfc n = some q ∧ q.engine = .stopped ∧ q.deviation = none ∧ q.deviationAt = none ∧
        q.lastRpm = r.lastRpm ∧
        ((r.target ≠ 0 ∨ r.p ≠ 0) → flagSet .engineFault (rpmDead n s) = true) ∧
        (r.target = 0 → r.p = 0 → flagSet .engineFault (rpmDead n s) = flagSet .engineFault s) ∧
        ((r.dir = .ahead ∨ r.dir = .astern) →
          q.dir = .dwell ∧ q.p = 0 ∧ q.dwellAt = some (s.now + c.dwell) ∧ q.duty = c.dutyIdle ∧
            ShaftLines n False r q s (rpmDead n s)) ∧
        ((r.dir = .neutral ∨ r.dir = .dwell) → q.dir = r.dir ∧ q.p = r.p ∧ q.dwellAt = r.dwellAt))) ∧
  ∀ (t n : Nat) (s : State) (r : Shaft), getN s.sfc n = some r →
    (due (max s.clock t / 1000) r.dwellAt = true →
      ∃ u q, exec (.dwellExpiry t n) s = .next u ∧ getN u.sfc n = some q ∧ q.dwellAt = none ∧ q.p = r.p ∧
        q.target = r.target ∧
        q.dir =
          (if r.target ≠ 0 ∧ (r.engine = .running ∨ r.engine = .limited) then
            match r.targetWay with
            | some .ahead => .ahead
            | some .astern => .astern
            | none => .neutral
          else .neutral) ∧
        ShaftLines n False r q s u ∧ (q.dir ≠ r.dir → SteeringInForce u) ∧
        ∀ m, m ≠ n → getN u.sfc m = getN s.sfc m) ∧
    (due (max s.clock t / 1000) r.dwellAt = false → exec (.dwellExpiry t n) s = .next (setClock t s)) ∧
    (due (max s.clock t / 1000) r.deviationAt = true →
      ∃ u q, exec (.deviationExpiry t n) s = .next u ∧ getN u.sfc n = some q ∧ q.deviationAt = none ∧
        q.deviation = r.deviation ∧
        q.engine =
          if r.deviation = some .low ∧ r.engine = .running then .limited
          else if r.deviation = some .within ∧ r.engine = .limited then .running
          else r.engine) ∧
    (due (max s.clock t / 1000) r.deviationAt = false → exec (.deviationExpiry t n) s = .next (setClock t s))

/-- STALL_EXPIRY: the rudder becomes STALLED with its angle and set-point kept, its drive and its stall check ended, both valve
lines written to 0 where they were not already, and RUDDER_FAULT raised.  The other rudders keep their angles, drives and
stall checks; one in a fault state keeps its state and set-point, a FOLLOWING one its state under a steering order, and a
PARKED one its state and set-point without one.  Before its moment nothing happens (R78; the last, notes/assumptions/4.md).
An angle result in its turn: discarded in SENSOR_LOST; with a duty below 50 or above 950 per-mille it makes the rudder
SENSOR_LOST; otherwise the angle is stored, and in a FOLLOWING or PARKED rudder the servo sets drive and duty from the error,
writes the valve lines that differ, and starts, restarts, keeps or ends the stall check (R72, R73, R75 to R77).  The angle
channel's DEAD notice makes the rudder SENSOR_LOST in the same way (R73).  A rudder that leaves service leaves the own live
authority, r_live, k and the set-points that the others give (R67 to R71). -/
def Obligations.RudderStalls : Prop :=
  (∀ (t n : Nat) (s : State) (r : Rudder), getN s.stc.rudders n = some r →
    (due (max s.clock t / 1000) r.stallAt = true →
      ∃ u q, exec (.stallExpiry t n) s = .next u ∧ getN u.stc.rudders n = some q ∧ q.state = .stalled ∧
        q.theta = r.theta ∧ q.setPoint = r.setPoint ∧ q.drive = .stop ∧ q.duty = 0 ∧ q.stallAt = none ∧
        q.reference = none ∧ q.portWritten = some 0 ∧ q.stbdWritten = some 0 ∧ flagSet .rudderFault u = true ∧
        (r.portWritten ≠ some 0 → Written (.rudderPort n) 0 s u) ∧
        (r.stbdWritten ≠ some 0 → Written (.rudderStbd n) 0 s u) ∧
        (∀ m x, m ≠ n → getN s.stc.rudders m = some x → ∃ y, getN u.stc.rudders m = some y ∧ rudderKept s x y) ∧
        SteeringInForce u ∧ u.sfc = s.sfc ∧ u.cpc = s.cpc ∧ u.fau = s.fau ∧ u.shu = s.shu) ∧
    (due (max s.clock t / 1000) r.stallAt = false → exec (.stallExpiry t n) s = .next (setClock t s))) ∧
  ∀ (n high cycle : Nat) (s : State) (r : Rudder) (c : ShaftCfg), getN s.stc.rudders n = some r →
    getN s.cfg.shafts n = some c →
    (r.state = .sensorLost → angleResult n high cycle s = s ∧ angleDead n s = s) ∧
    (r.state ≠ .sensorLost → ∀ u,
      (u = angleDead n s ∨
        (u = angleResult n high cycle s ∧ (high * 1000 / cycle < 50 ∨ 950 < high * 1000 / cycle))) →
      ∃ q, getN u.stc.rudders n = some q ∧ q.state = .sensorLost ∧ q.theta = none ∧
        q.drive = .stop ∧ q.duty = 0 ∧ q.stallAt = none ∧ q.reference = none ∧ flagSet .rudderFault u = true ∧
        (r.portWritten ≠ some 0 → Written (.rudderPort n) 0 s u) ∧
        (r.stbdWritten ≠ some 0 → Written (.rudderStbd n) 0 s u) ∧ SteeringInForce u ∧
        ∀ m x, m ≠ n → getN s.stc.rudders m = some x → ∃ y, getN u.stc.rudders m = some y ∧ rudderKept s x y) ∧
    (50 ≤ high * 1000 / cycle → high * 1000 / cycle ≤ 950 →
      let theta := Int.tdiv (((max 100 (min 900 (high * 1000 / cycle)) : Nat) - 500 : Int) * 450) 400
      let err := r.setPoint - theta
      (r.state = .stalled →
        angleResult n high cycle s = { s with stc := (angleResult n high cycle s).stc } ∧
          getN (angleResult n high cycle s).stc.rudders n = some { r with theta := some theta }) ∧
      ((r.state = .following ∨ r.state = .parked) →
        ∃ q, getN (angleResult n high cycle s).stc.rudders n = some q ∧ q.state = r.state ∧ q.theta = some theta ∧
          q.setPoint = r.setPoint ∧
          (err.natAbs ≤ c.deadband →
            q.drive = .stop ∧ q.duty = 0 ∧ q.stallAt = none ∧ q.reference = none ∧
              (∀ v, r.portWritten = some v → v ≠ 0 → Written (.rudderPort n) 0 s (angleResult n high cycle s)) ∧
              (∀ v, r.stbdWritten = some v → v ≠ 0 → Written (.rudderStbd n) 0 s (angleResult n high cycle s))) ∧
          (c.deadband < err.natAbs →
            q.drive = (if 0 < err then .stbd else .port) ∧
              q.duty = min 1000 (max c.minDuty (c.kp * err.natAbs / 10)) ∧
              q.portWritten = some (if 0 < err then 0 else q.duty) ∧
              q.stbdWritten = some (if 0 < err then q.duty else 0) ∧
              (r.portWritten ≠ q.portWritten →
                Written (.rudderPort n) (if 0 < err then 0 else q.duty) s (angleResult n high cycle s)) ∧
              (r.stbdWritten ≠ q.stbdWritten →
                Written (.rudderStbd n) (if 0 < err then q.duty else 0) s (angleResult n high cycle s)) ∧
              (∀ x, r.drive = q.drive → r.reference = some x → (theta - x).natAbs < c.deadband →
                q.stallAt = r.stallAt ∧ q.reference = some x) ∧
              ((r.drive ≠ q.drive ∨ ∃ x, r.reference = some x ∧ c.deadband ≤ (theta - x).natAbs) →
                q.stallAt = some (s.now + c.stallTime) ∧ q.reference = some theta)) ∧
          (∀ m, m ≠ n → getN (angleResult n high cycle s).stc.rudders m = getN s.stc.rudders m) ∧
          (angleResult n high cycle s).svp = s.svp ∧ (angleResult n high cycle s).sfc = s.sfc))

/-- RUDDER_RETRY in service is answered by the first row that applies: NO_RUDDER, NOT_FAULTED, SENSOR_DEAD, or OK with the rudder
FOLLOWING under a steering order and PARKED otherwise, its angle kept, its drive STOP and its stall check idle, the own live
authority, r_live, k and the set-points evaluated with it (R66 to R71, R79). -/
def Obligations.RudderRetryAnswers : Prop :=
  ∀ (t : Nat) (n : Byte) (s : State), s.svp.mode ≠ .configuring →
    (getN s.stc.rudders n.toNat = none → exec (.rudderRetry t n) s = .next (refuse .noRudder (setClock t s))) ∧
    ∀ r, getN s.stc.rudders n.toNat = some r →
      ((r.state = .following ∨ r.state = .parked) →
        exec (.rudderRetry t n) s = .next (refuse .notFaulted (setClock t s))) ∧
      ((r.state = .stalled ∨ r.state = .sensorLost) →
        (boundDead .angle (some n.toNat) s = true →
          exec (.rudderRetry t n) s = .next (refuse .sensorDead (setClock t s))) ∧
        (boundDead .angle (some n.toNat) s = false →
          ∃ u q, exec (.rudderRetry t n) s = .next u ∧
            u.svp.reply = { status := .ok, reason := none, data := [] } ∧ getN u.stc.rudders n.toNat = some q ∧
            q.state = (if s.shu.contributing || localApplied s then .following else .parked) ∧ q.theta = r.theta ∧
            q.drive = .stop ∧ q.duty = 0 ∧ q.stallAt = none ∧ q.reference = none ∧ SteeringInForce u ∧
            (q.state = .parked → q.setPoint = 0) ∧ u.svp.flags = s.svp.flags ∧ u.dlu = s.dlu ∧ u.sfc = s.sfc ∧ u.cpc = s.cpc ∧ u.fau = s.fau))

/-! ## Couplings (chapter 5) -/

/-- A load result that parts a wire: the winch was MADE or RENDERING, the new tension is below part floor and the tension
held before at or above part arm.  The winch becomes PARTED, its pulse, its timer and both its lines off, the parted flag and
PARTED set, a pull-off ended with outcome PARTED, the station out of contribution (R84, R91).  Any other load result stores
its tension and the one before, and is judged by the winch's state: a HAULING winch is RENDERING from T_render and MADE from
T_make on, with its timer stopped, and hauls on below; a MADE winch is RENDERING from T_render on, and below T_lo begins a
haul pulse where none is on; a RENDERING winch is MADE below T_hi; a RELEASING winch paying out passes to HOLDING below
T_slack; a SLACK, a PARTED and a HOLDING winch keep their state, and the lines follow (R84, R88 to R90, R92 to R94).  Where
the result itself makes a pull-off complete, a MADE or RENDERING winch is RELEASING instead (R93, R100).  The load channel's
DEAD notice takes tension and previous tension away, notes UNSENSED and raises METER_FAULT; a RENDERING winch is MADE, a
RELEASING one paying out passes to HOLDING, any other keeps its state; a further notice with no result since changes nothing
(R85; that last reading, notes/assumptions/24.md).  After each, the summary and f_cpl are those of the counting winches; a
change of summary, and the setting of the parted flag, place an ALERT with what is in force (R91, R95 to R97). -/
def Obligations.LoadResultParts : Prop :=
  (∀ (n count elapsed : Nat) (s : State) (w : Winch) (c : WinchCfg) (before : Nat),
    getN s.cpc.winches n = some w → getN s.cfg.winches n = some c → (w.state = .made ∨ w.state = .rendering) →
    w.tension = some before → c.partArm ≤ before → tensionOf c (loadFrequency count elapsed) < c.partFloor →
    ∃ q, getN (loadResult n count elapsed s).cpc.winches n = some q ∧ q.state = .parted ∧ q.pulse = false ∧
      q.timerAt = none ∧ q.tension = some (tensionOf c (loadFrequency count elapsed)) ∧ q.previous = some before ∧
      Valves n 0 0 w q s (loadResult n count elapsed s) ∧
      (loadResult n count elapsed s).cpc.parted = true ∧ flagSet .parted (loadResult n count elapsed s) = true ∧
      (loadResult n count elapsed s).cpc.pullOff = none ∧
      (s.cpc.pullOff.isSome = true → (loadResult n count elapsed s).cpc.outcome = .parted) ∧
      (loadResult n count elapsed s).shu.contributing = false ∧ CouplingInForce (loadResult n count elapsed s) ∧
      (s.cpc.parted = false → (s.svp.mode = .joining ∨ s.svp.mode = .running) →
        (loadResult n count elapsed s).lif.slotAlert = some (statusPayload (loadResult n count elapsed s))) ∧
      (∀ m, m ≠ n → getN (loadResult n count elapsed s).cpc.winches m = getN s.cpc.winches m)) ∧
  (∀ (n : Nat) (s : State) (w : Winch) (c : WinchCfg), getN s.cpc.winches n = some w → getN s.cfg.winches n = some c →
    let u := loadDead n s
    (w.deadSeen = true → w.tension = none → u = s) ∧
    ((w.deadSeen = false ∨ w.tension ≠ none) →
      flagSet .meterFault u = true ∧ CouplingInForce u ∧ SummaryAlert s u ∧
      (s.cpc.pullOff.isSome = true → u.cpc.pullOff = none → u.cpc.outcome = .released) ∧
      ((s.cpc.pullOff.isSome = true → u.cpc.pullOff.isSome = true) →
        ∃ q, getN u.cpc.winches n = some q ∧ q.tension = none ∧ q.previous = none ∧ q.note = .unsensed ∧
          q.deadSeen = true ∧ (∀ m, m ≠ n → getN u.cpc.winches m = getN s.cpc.winches m) ∧
          u.cpc.parted = s.cpc.parted ∧ u.cpc.pullOff = s.cpc.pullOff ∧ u.cpc.outcome = s.cpc.outcome ∧
          (w.state = .rendering → q.state = .made ∧ q.pulse = false ∧ q.timerAt = none ∧ Valves n 0 0 w q s u) ∧
          (w.state = .releasing → w.phase = some .payingOut →
            q.state = .releasing ∧ q.phase = some .holding ∧ q.timerAt = some (s.now + c.releaseHold) ∧
              Valves n 0 1000 w q s u) ∧
          ((w.state ≠ .rendering ∧ (w.state ≠ .releasing ∨ w.phase ≠ some .payingOut)) →
            q.state = w.state ∧ q.phase = w.phase ∧ q.pulse = w.pulse ∧ q.timerAt = w.timerAt ∧
              ValvesByState n w q s u)))) ∧
  ∀ (n count elapsed : Nat) (s : State) (w : Winch) (c : WinchCfg),
    getN s.cpc.winches n = some w → getN s.cfg.winches n = some c →
    let x := tensionOf c (loadFrequency count elapsed)
    let u := loadResult n count elapsed s
    ((w.state = .made ∨ w.state = .rendering) → x < c.partFloor → ∀ before, w.tension = some before →
      before < c.partArm) →
    CouplingInForce u ∧ SummaryAlert s u ∧
    ((s.cpc.pullOff.isSome = true → u.cpc.pullOff.isSome = true) →
      ∃ q, getN u.cpc.winches n = some q ∧ q.tension = some x ∧ q.previous = w.tension ∧ q.deadSeen = false ∧
        q.note = (if w.note = .unsensed then .none else w.note) ∧
        (∀ m, m ≠ n → getN u.cpc.winches m = getN s.cpc.winches m) ∧
        u.cpc.parted = s.cpc.parted ∧ u.cpc.pullOff = s.cpc.pullOff ∧ u.cpc.stack = s.cpc.stack ∧
        u.cpc.outcome = s.cpc.outcome ∧
        (w.state = .hauling →
          (c.tRender ≤ x → q.state = .rendering ∧ q.pulse = false ∧ q.timerAt = none ∧ Valves n 0 1000 w q s u) ∧
          (x < c.tRender → c.tMake ≤ x →
            q.state = .made ∧ q.pulse = false ∧ q.timerAt = none ∧ Valves n 0 0 w q s u) ∧
          (x < c.tRender → x < c.tMake →
            q.state = .hauling ∧ q.timerAt = w.timerAt ∧ Valves n 1000 0 w q s u)) ∧
        (w.state = .made →
          (c.tRender ≤ x → q.state = .rendering ∧ q.pulse = false ∧ q.timerAt = none ∧ Valves n 0 1000 w q s u) ∧
          (x < c.tRender → x < c.tLo → w.pulse = false →
            q.state = .made ∧ q.pulse = true ∧ q.timerAt = some (s.now + c.haulPulse) ∧ Valves n 1000 0 w q s u) ∧
          (x < c.tRender → (c.tLo ≤ x ∨ w.pulse = true) →
            q.state = .made ∧ q.pulse = w.pulse ∧ q.timerAt = w.timerAt ∧
              Valves n (if w.pulse then 1000 else 0) 0 w q s u)) ∧
        (w.state = .rendering →
          (x < c.tHi → q.state = .made ∧ q.pulse = false ∧ q.timerAt = none ∧ Valves n 0 0 w q s u) ∧
          (c.tHi ≤ x → q.state = .rendering ∧ q.timerAt = w.timerAt ∧ Valves n 0 1000 w q s u)) ∧
        (w.state = .releasing →
          q.state = .releasing ∧ Valves n 0 1000 w q s u ∧
          (w.phase = some .payingOut → x < c.tSlack →
            q.phase = some .holding ∧ q.timerAt = some (s.now + c.releaseHold)) ∧
          ((w.phase ≠ some .payingOut ∨ c.tSlack ≤ x) → q.phase = w.phase ∧ q.timerAt = w.timerAt)) ∧
        ((w.state = .slack ∨ w.state = .parted) →
          q.state = w.state ∧ q.phase = w.phase ∧ q.timerAt = w.timerAt ∧ Valves n 0 0 w q s u)) ∧
    (s.cpc.pullOff.isSome = true → u.cpc.pullOff = none →
      u.cpc.outcome = .released ∧ ((w.state = .made ∨ w.state = .rendering) →
        ∃ q, getN u.cpc.winches n = some q ∧ q.state = .releasing ∧ q.phase = some .payingOut ∧ q.pulse = false ∧
          q.timerAt = some (s.now + c.releaseWait) ∧ q.tension = some x ∧ q.previous = w.tension ∧
          Valves n 0 1000 w q s u))

/-- CLEAR_PARTED in service: REFUSED NOT_PARTED when no winch is PARTED; otherwise OK, every PARTED winch SLACK with its
valves off and the parted flag clear (R92), with the summary and f_cpl of the winches that count, an ALERT on a change of
summary, and the station contributing exactly when R23's seven conditions hold (R23, R95 to R97; that it may contribute at
once, notes/assumptions/30.md). -/
def Obligations.PartingAcknowledged : Prop :=
  ∀ (t : Nat) (s : State), s.svp.mode ≠ .configuring →
    ((∀ w ∈ s.cpc.winches, w.state ≠ .parted) →
      exec (.clearParted t) s = .next (refuse .notParted (setClock t s))) ∧
    ((∃ w ∈ s.cpc.winches, w.state = .parted) →
      ∃ u, exec (.clearParted t) s = .next u ∧ u.svp.reply = { status := .ok, reason := none, data := [] } ∧
        u.cpc.parted = false ∧ (∀ w ∈ u.cpc.winches, w.state ≠ .parted) ∧ CouplingInForce u ∧ SummaryAlert s u ∧
        (u.shu.contributing = true ↔ SevenHold u) ∧
        ∀ n w, getN s.cpc.winches n = some w → w.state = .parted →
          ∃ q, getN u.cpc.winches n = some q ∧ q.state = .slack ∧ q.tension = w.tension ∧ Valves n 0 0 w q s u)

/-- The winch timers: a haul that times out becomes SLACK with its note, both lines off and HAUL_TIMEOUT raised; a haul pulse
ends with the haul line off, the winch still MADE, or RELEASING where that completes a pull-off; a release wait leads to
HOLDING for the release hold, the pay-out line still on; a release hold ends in SLACK, both lines off (R94).  Before its
moment, or in another state of the winch, each does nothing (R88, R89, R93; the last, notes/assumptions/4.md).  What starts a
haul: a remake order pops the top make-up record and asks it of the winches shown as made, the panel's remake-own asks it of
every winch and leaves the stack; a SLACK winch becomes HAULING with its timer started, its haul line on and its pay-out line
off, or with its load channel DEAD stays SLACK with METER_FAULT; any other keeps its state and its lines; the outcome says
whether one became HAULING.  Neither acts during a pull-off, nor a remake order on an empty stack (R87, R103 to R105). -/
def Obligations.WinchTimers : Prop :=
  (∀ s : State,
    (s.cpc.pullOff.isSome = true →
      remakeOrder s = { s with cpc := { s.cpc with outcome := .remakeIgnoredPullOff, outcomeAt := s.stationTime } } ∧
        remakeOwn s = { s with cpc := { s.cpc with outcome := .remakeIgnoredPullOff, outcomeAt := s.stationTime } }) ∧
    (s.cpc.pullOff = none → s.cpc.stack = [] →
      remakeOrder s = { s with cpc := { s.cpc with outcome := .stackEmpty, outcomeAt := s.stationTime } }) ∧
    (∀ r rest, s.cpc.pullOff = none → s.cpc.stack = r :: rest →
      (remakeOrder s).cpc.stack = rest ∧
        HaulsAsked (fun n => ∃ m, getN r n = some m ∧ m.made = true) s (remakeOrder s)) ∧
    (s.cpc.pullOff = none → (remakeOwn s).cpc.stack = s.cpc.stack ∧ HaulsAsked (fun _ => True) s (remakeOwn s))) ∧
  ∀ (t n : Nat) (s : State) (w : Winch) (c : WinchCfg), getN s.cpc.winches n = some w → getN s.cfg.winches n = some c →
    (due (max s.clock t / 1000) w.timerAt = true →
      (w.state = .hauling → ∃ u q, exec (.haulTimeoutExpiry t n) s = .next u ∧ getN u.cpc.winches n = some q ∧
        q.state = .slack ∧ q.note = .haulTimeout ∧ q.timerAt = none ∧ q.tension = w.tension ∧ Valves n 0 0 w q s u ∧
        flagSet .haulTimeout u = true) ∧
      (w.state = .made → w.pulse = true → s.cpc.pullOff = none →
        ∃ u q, exec (.haulPulseExpiry t n) s = .next u ∧ getN u.cpc.winches n = some q ∧
          q.state = .made ∧ q.pulse = false ∧ q.timerAt = none ∧ q.tension = w.tension ∧ q.note = w.note ∧
          Valves n 0 0 w q s u) ∧
      (w.state = .made → w.pulse = true → s.cpc.pullOff.isSome = true →
        ∃ u q, exec (.haulPulseExpiry t n) s = .next u ∧ getN u.cpc.winches n = some q ∧
          q.pulse = false ∧ q.tension = w.tension ∧
          (u.cpc.pullOff.isSome = true → q.state = .made ∧ q.timerAt = none ∧ Valves n 0 0 w q s u) ∧
          (u.cpc.pullOff = none → u.cpc.outcome = .released ∧ q.state = .releasing ∧ Valves n 0 1000 w q s u)) ∧
      (w.state = .releasing → w.phase = some .payingOut →
        ∃ u q, exec (.releaseWaitExpiry t n) s = .next u ∧ getN u.cpc.winches n = some q ∧ q.state = .releasing ∧
          q.phase = some .holding ∧ q.timerAt = some (u.now + c.releaseHold) ∧ q.tension = w.tension ∧
          Valves n 0 1000 w q s u) ∧
      (w.state = .releasing → w.phase = some .holding →
        ∃ u q, exec (.releaseHoldExpiry t n) s = .next u ∧ getN u.cpc.winches n = some q ∧ q.state = .slack ∧
          q.phase = none ∧ q.timerAt = none ∧ q.tension = w.tension ∧ Valves n 0 0 w q s u)) ∧
    ((w.state ≠ .hauling ∨ due (max s.clock t / 1000) w.timerAt = false) →
      exec (.haulTimeoutExpiry t n) s = .next (setClock t s)) ∧
    ((w.state ≠ .made ∨ w.pulse = false ∨ due (max s.clock t / 1000) w.timerAt = false) →
      exec (.haulPulseExpiry t n) s = .next (setClock t s)) ∧
    ((w.state ≠ .releasing ∨ w.phase ≠ some .payingOut ∨ due (max s.clock t / 1000) w.timerAt = false) →
      exec (.releaseWaitExpiry t n) s = .next (setClock t s)) ∧
    ((w.state ≠ .releasing ∨ w.phase ≠ some .holding ∨ due (max s.clock t / 1000) w.timerAt = false) →
      exec (.releaseHoldExpiry t n) s = .next (setClock t s))

/-- PULL_OFF_TIMER_EXPIRY: a pull-off whose timer has expired ends without release, outcome TIMED_OUT with its time and
RELEASE_TIMEOUT raised; the winches and the make-up stack are left as they are; before its moment nothing happens (R101,
R105; the last, notes/assumptions/4.md).  A release request is ignored, with its outcome, during a pull-off and where the
summary is FREE with no winch hauling; otherwise a pull-off begins: HAULING winches become SLACK with both lines off, every
other winch keeps its state where the check fails, the station leaves contribution, and the completion check follows (R94,
R98, R99).  A control step whose new set-point is the last to come down to its threshold completes it: record pushed, every
MADE or RENDERING winch RELEASING with its haul line off and its pay-out line on, outcome RELEASED, and a reversal pending at
P 0 takes the shaft to DWELL with its clutches off; any other leaves the pull-off, the winches and the stack, and the shaft's
direction state and lines follow as at any step (R50, R51, R60, R61, R93, R94, R100, R102).  A withdrawal of the same origin
ends it WITHDRAWN, and any other is ignored (R101).  The panel's release-own passes on a request and off a withdrawal (R98,
R194). -/
def Obligations.PullOffTimesOut : Prop :=
  (∀ (t : Nat) (s : State),
    (∀ p, s.cpc.pullOff = some p → p.expiry ≤ max s.clock t / 1000 →
      ∃ u, exec (.pullOffTimerExpiry t) s = .next u ∧ u.cpc.pullOff = none ∧ u.cpc.outcome = .timedOut ∧
        u.cpc.outcomeAt = u.stationTime ∧ flagSet .releaseTimeout u = true ∧ u.cpc.winches = s.cpc.winches ∧
        u.cpc.stack = s.cpc.stack ∧ u.cpc.parted = s.cpc.parted) ∧
    ((∀ p, s.cpc.pullOff = some p → max s.clock t / 1000 < p.expiry) →
      exec (.pullOffTimerExpiry t) s = .next (setClock t s))) ∧
  (∀ (o : Origin) (s : State),
    (s.cpc.pullOff.isSome = true →
      releaseRequest o s = { s with cpc := { s.cpc with outcome := .releaseIgnoredActive, outcomeAt := s.stationTime } }) ∧
    (s.cpc.pullOff = none → s.cpc.summary = .free → (∀ w ∈ s.cpc.winches, w.state ≠ .hauling) →
      releaseRequest o s = { s with cpc := { s.cpc with outcome := .releaseIgnoredFree, outcomeAt := s.stationTime } }) ∧
    (s.cpc.pullOff = none → (s.cpc.summary ≠ .free ∨ ∃ w ∈ s.cpc.winches, w.state = .hauling) →
      s.svp.mode ≠ .configuring →
      (releaseRequest o s).shu.contributing = false ∧
      (∀ n w, getN s.cpc.winches n = some w → w.state = .hauling →
        ∃ q, getN (releaseRequest o s).cpc.winches n = some q ∧ q.state = .slack ∧ q.timerAt = none ∧ q.note = w.note ∧
          q.tension = w.tension ∧ Valves n 0 0 w q s (releaseRequest o s)) ∧
      (shaftsDown (releaseRequest o s) = false →
        (releaseRequest o s).cpc.pullOff =
            some { origin := o, expiry := s.now + (s.cfg.winches.map (·.releaseWait)).foldr max 0 } ∧
          (releaseRequest o s).cpc.outcome = s.cpc.outcome ∧ (releaseRequest o s).cpc.stack = s.cpc.stack ∧
          ∀ n w, getN s.cpc.winches n = some w →
            ∃ q, getN (releaseRequest o s).cpc.winches n = some q ∧ q.note = w.note ∧ q.tension = w.tension ∧
              ValvesByState n w q s (releaseRequest o s) ∧
              (w.state = .hauling → q.state = .slack ∧ q.timerAt = none) ∧
              (w.state ≠ .hauling → q.state = w.state ∧ q.timerAt = w.timerAt ∧ q.pulse = w.pulse)) ∧
      (shaftsDown (releaseRequest o s) = true → Released s (releaseRequest o s))) ∧
    (∀ p, s.cpc.pullOff = some p → p.origin = o →
      (withdrawRelease o s).cpc.pullOff = none ∧ (withdrawRelease o s).cpc.outcome = .withdrawn ∧
        (withdrawRelease o s).cpc.outcomeAt = s.stationTime ∧ (withdrawRelease o s).cpc.winches = s.cpc.winches ∧
        (withdrawRelease o s).cpc.stack = s.cpc.stack) ∧
    ((∀ p, s.cpc.pullOff = some p → p.origin ≠ o) → withdrawRelease o s = s)) ∧
  (∀ (t n e : Nat) (s : State) (r : Shaft) (c : ShaftCfg), getN s.sfc n = some r → getN s.cfg.shafts n = some c →
    r.stepAt = some e → e ≤ max s.clock t / 1000 → s.cpc.pullOff.isSome = true → s.svp.mode ≠ .configuring →
    (∀ b, getN s.fau.burns n = some b → b.estimating = false) →
    let emergency := s.cpc.parted || decide (s.svp.mode = .silent) || !engineTurns r.engine
    let up := max 1 (c.rampUp * s.cfg.controlStep / 1000)
    let down := max 1 ((if emergency then c.rampEmergency else c.rampDown) * s.cfg.controlStep / 1000)
    let p := if r.p < goalOf r then min (goalOf r) (r.p + up) else max (goalOf r) (r.p - down)
    let othersDown := ∀ m x k, m ≠ n → getN s.sfc m = some x → getN s.cfg.shafts m = some k → x.p ≤ k.releaseThreshold
    ∃ u, exec (.controlStep t n) s = .next u ∧
      (p ≠ r.p → p ≤ c.releaseThreshold → othersDown →
        Released (setClock t s) u ∧
          (p = 0 → r.target ≠ 0 →
            ((r.dir = .ahead ∧ r.targetWay = some .astern) ∨ (r.dir = .astern ∧ r.targetWay = some .ahead)) →
            ∃ q, getN u.sfc n = some q ∧ q.dir = .dwell ∧ q.dwellAt = some (max s.clock t / 1000 + c.dwell) ∧
              Written (.clutchAhead n) 0 s u ∧ Written (.clutchAstern n) 0 s u)) ∧
      ((p = r.p ∨ c.releaseThreshold < p ∨ ¬othersDown) →
        u.cpc = s.cpc ∧ ∃ q, getN u.sfc n = some q ∧ q.p = p ∧ q.stepAt = some (e + s.cfg.controlStep) ∧
          DirectionSettled (max s.clock t / 1000) s.svp.mode c r q ∧ ShaftLines n (r.clutchWritten = false) r q s u ∧
          q.target = r.target ∧ q.targetWay = r.targetWay ∧ q.engine = r.engine ∧
          (q.dir ≠ r.dir → SteeringInForce u))) ∧
  ∀ (t : Nat) (lever tiller : BitVec 16) (flags release remake : Byte) (s : State), s.svp.mode ≠ .configuring →
    let v := { s with
      clock := max s.clock t
      svp :=
        { s.svp with
          panel := panelOf lever tiller flags release remake, panelState := .current
          panelAt := some (max s.clock t / 1000 + 500) } }
    (s.svp.panel.releaseOwn = false →
      panelOf lever tiller flags release remake = { s.svp.panel with releaseOwn := true } →
      exec (.panel t lever tiller flags release remake) s = .next (replyOk [] (releaseRequest .panel v))) ∧
    (s.svp.panel.releaseOwn = true →
      panelOf lever tiller flags release remake = { s.svp.panel with releaseOwn := false } →
      exec (.panel t lever tiller flags release remake) s = .next (replyOk [] (withdrawRelease .panel v))) ∧
    (s.svp.panel.remakeOwn = false →
      panelOf lever tiller flags release remake = { s.svp.panel with remakeOwn := true } →
      exec (.panel t lever tiller flags release remake) s = .next (replyOk [] (remakeOwn v)))

/-! ## Fuel accounting (chapter 6) -/

/-- TRANSFER_START and BUNKER_START in service are answered by the first row of their tables that applies; on OK the record
runs with nothing moved and the tanks' records show the movement, the pump line of a transfer is written to 1000, and no raw balance, journal entry,
shaft, rudder or winch changes (R120, R123, R126). -/
def Obligations.MovementStarts : Prop :=
  ∀ (t : Nat) (src dst : Byte) (v : BitVec 32) (s : State), s.svp.mode ≠ .configuring →
    let a := src.toNat
    let b := dst.toNat
    let known := (getN s.cfg.tanks a).isSome = true ∧ (getN s.cfg.tanks b).isSome = true ∧ a ≠ b
    (¬known → exec (.transferStart t src dst v) s = .next (refuse .noTank (setClock t s))) ∧
    (known → canTransfer s = false → exec (.transferStart t src dst v) s = .next (refuse .noPump (setClock t s))) ∧
    (known → canTransfer s = true → s.fau.transfer.running = true →
      exec (.transferStart t src dst v) s = .next (replyStatus .busy (setClock t s))) ∧
    (known → canTransfer s = true → s.fau.transfer.running = false →
      ((movementOf a s ≠ .none ∨ movementOf b s ≠ .none) →
        exec (.transferStart t src dst v) s = .next (replyStatus .conflict (setClock t s))) ∧
      (movementOf a s = .none → movementOf b s = .none →
        (content a s ≤ cutoffOf a s →
          exec (.transferStart t src dst v) s = .next (refuse .sourceLow (setClock t s))) ∧
        (cutoffOf a s < content a s → v.toNat = 0 → capacityOf b s ≤ content b s →
          exec (.transferStart t src dst v) s = .next (refuse .destFull (setClock t s))) ∧
        (cutoffOf a s < content a s → (v.toNat ≠ 0 ∨ content b s < capacityOf b s) →
          ∃ u, exec (.transferStart t src dst v) s = .next u ∧
            u.svp.reply = { status := .ok, reason := none, data := [] } ∧
            u.fau.transfer =
              { running := true, origin := some .host, source := a, destination := b
                requested := if v.toNat = 0 then none else some (min v.toNat 200000000), moved := 0, residue := 0 } ∧
            ((getN s.fau.tanks a).isSome = true → movementOf a u = .transferSrc) ∧
            ((getN s.fau.tanks b).isSome = true → movementOf b u = .transferDst) ∧
            Written .transferPump 1000 s u ∧
            u.fau.tanks.map (·.raw) = s.fau.tanks.map (·.raw) ∧ u.fau.journal = s.fau.journal ∧
            u.sfc = s.sfc ∧ u.stc = s.stc ∧ u.cpc = s.cpc ∧ u.svp.flags = s.svp.flags))) ∧
    ((getN s.cfg.tanks a).isSome = false → exec (.bunkerStart t src) s = .next (refuse .noTank (setClock t s))) ∧
    ((getN s.cfg.tanks a).isSome = true →
      (chanOf .bunkerMeter none s = none → exec (.bunkerStart t src) s = .next (refuse .noMeter (setClock t s))) ∧
      ((chanOf .bunkerMeter none s).isSome = true →
        (s.fau.bunker.running = true →
          exec (.bunkerStart t src) s = .next (replyStatus .busy (setClock t s))) ∧
        (s.fau.bunker.running = false → movementOf a s ≠ .none →
          exec (.bunkerStart t src) s = .next (replyStatus .conflict (setClock t s))) ∧
        (s.fau.bunker.running = false → movementOf a s = .none →
          ∃ u, exec (.bunkerStart t src) s = .next u ∧
            u.svp.reply = { status := .ok, reason := none, data := [] } ∧
            u.fau.bunker = { running := true, tank := a, volume := 0, residue := 0 } ∧
            ((getN s.fau.tanks a).isSome = true → movementOf a u = .bunker) ∧
            u.fau.tanks.map (·.raw) = s.fau.tanks.map (·.raw) ∧ u.fau.journal = s.fau.journal ∧ u.dlu = s.dlu ∧
            u.sfc = s.sfc ∧ u.stc = s.stc ∧ u.cpc = s.cpc ∧ u.svp.flags = s.svp.flags)))

/-- TRANSFER_ABORT and BUNKER_STOP in service: refused NO_TRANSFER and NO_BUNKER while idle.  Otherwise OK: the record is IDLE
with its residue discarded, no movement is in flight in its tanks, the pump line of a transfer is written to 0, one journal
entry carries the volume moved and the reason, no raw balance changes, and an AUTO destination takes its top-up hold by
its low mark; then the top-up check is made, which starts the AUTO transfer of the lowest-numbered DAY tank that asks and
otherwise nothing (R120, R122, R124, R125, R127, R131).  The results that move fuel meanwhile: a transfer result takes its
whole millilitres from the source to the destination and to what is moved, stopping with its first reason that holds, and a
bunker result brings them to its tank; each is dropped while idle (R121, R122, R127).  A DEAD meter stops its movement with
METER_DEAD and METER_FAULT, before the same top-up check, and does nothing while idle (R122, R127).  That the IDLE record
keeps its origin, tanks, requested volume and the volume moved is the model's choice (notes/assumptions/33.md). -/
def Obligations.MovementEnds : Prop :=
  (∀ (t : Nat) (s : State), s.svp.mode ≠ .configuring → s.fau.nextSerial ≤ 4294967295 →
    (s.fau.transfer.running = false → exec (.transferAbort t) s = .next (refuse .noTransfer (setClock t s))) ∧
    (s.fau.bunker.running = false → exec (.bunkerStop t) s = .next (refuse .noBunker (setClock t s))) ∧
    (s.fau.transfer.running = true →
      ∃ w, exec (.transferAbort t) s = .next (replyOk [] (topUp w)) ∧
        w.fau.transfer = { s.fau.transfer with running := false, residue := 0 } ∧
        movementOf s.fau.transfer.source w = .none ∧ movementOf s.fau.transfer.destination w = .none ∧
        (∀ m, m ≠ s.fau.transfer.source → m ≠ s.fau.transfer.destination → movementOf m w = movementOf m s) ∧
        Written .transferPump 0 s w ∧
        w.fau.journal.getLast? = some
          { serial := s.fau.nextSerial, time := max s.clock t / 1000000, kind := .transfer
            tank := s.fau.transfer.source, other := some s.fau.transfer.destination, volume := s.fau.transfer.moved
            reason := some .aborted } ∧
        w.fau.nextSerial = s.fau.nextSerial + 1 ∧
        (∀ c k, s.fau.transfer.origin = some .auto → getN s.cfg.tanks s.fau.transfer.destination = some c →
          getN s.fau.tanks s.fau.transfer.destination = some k →
          ∃ q, getN w.fau.tanks s.fau.transfer.destination = some q ∧ q.hold = decide (contentOf c k < c.low)) ∧
        w = { s with clock := max s.clock t, fau := w.fau, dlu := w.dlu } ∧
        (topUp w).fau.journal = w.fau.journal ∧ (topUp w).fau.nextSerial = w.fau.nextSerial ∧
        (topUp w).fau.tanks.map (·.raw) = s.fau.tanks.map (·.raw)) ∧
    (s.fau.bunker.running = true →
      ∃ w, exec (.bunkerStop t) s = .next (replyOk [] (topUp w)) ∧
        w.fau.bunker = { s.fau.bunker with running := false, residue := 0 } ∧
        movementOf s.fau.bunker.tank w = .none ∧
        (∀ m, m ≠ s.fau.bunker.tank → movementOf m w = movementOf m s) ∧
        w.fau.journal.getLast? = some
          { serial := s.fau.nextSerial, time := max s.clock t / 1000000, kind := .bunker, tank := s.fau.bunker.tank
            volume := s.fau.bunker.volume, reason := some .stopped } ∧
        w.fau.nextSerial = s.fau.nextSerial + 1 ∧ w = { s with clock := max s.clock t, fau := w.fau } ∧
        (topUp w).fau.bunker = w.fau.bunker ∧ (topUp w).fau.journal = w.fau.journal ∧
        (topUp w).fau.nextSerial = w.fau.nextSerial ∧
        (topUp w).fau.tanks.map (·.raw) = s.fau.tanks.map (·.raw))) ∧
  (∀ s : State,
    (s.fau.transfer.running = false → transferMeterDead s = s) ∧
    (s.fau.bunker.running = false → bunkerMeterDead s = s) ∧
    (s.fau.transfer.running = true → s.fau.nextSerial ≤ 4294967295 →
      ∃ w, transferMeterDead s = topUp w ∧
        MovementStopped .meterDead
          { serial := s.fau.nextSerial, time := s.stationTime, kind := .transfer, tank := s.fau.transfer.source
            other := some s.fau.transfer.destination, volume := s.fau.transfer.moved, reason := some .meterDead } s w ∧
        w.fau.transfer = { s.fau.transfer with running := false, residue := 0 } ∧ w.fau.bunker = s.fau.bunker ∧
        movementOf s.fau.transfer.source w = .none ∧ movementOf s.fau.transfer.destination w = .none ∧
        (∀ m, m ≠ s.fau.transfer.source → m ≠ s.fau.transfer.destination → movementOf m w = movementOf m s) ∧
        Written .transferPump 0 s w ∧
        ∀ c k, s.fau.transfer.origin = some .auto → getN s.cfg.tanks s.fau.transfer.destination = some c →
          getN s.fau.tanks s.fau.transfer.destination = some k →
          ∃ q, getN w.fau.tanks s.fau.transfer.destination = some q ∧ q.hold = decide (contentOf c k < c.low)) ∧
    (s.fau.bunker.running = true → s.fau.nextSerial ≤ 4294967295 →
      ∃ w, bunkerMeterDead s = topUp w ∧
        MovementStopped .meterDead
          { serial := s.fau.nextSerial, time := s.stationTime, kind := .bunker, tank := s.fau.bunker.tank
            volume := s.fau.bunker.volume, reason := some .meterDead } s w ∧
        w.fau.bunker = { s.fau.bunker with running := false, residue := 0 } ∧ w.fau.transfer = s.fau.transfer ∧
        movementOf s.fau.bunker.tank w = .none ∧ (∀ m, m ≠ s.fau.bunker.tank → movementOf m w = movementOf m s) ∧
        w.dlu = s.dlu)) ∧
  (∀ w : State,
    ((canTransfer w = false ∨ w.fau.transfer.running = true ∨ ∀ d a, ¬wantsTopUp w d a) → topUp w = w) ∧
    (∀ d a, canTransfer w = true → w.fau.transfer.running = false → wantsTopUp w d a →
      (∀ e b, e < d → ¬wantsTopUp w e b) →
      (topUp w).fau.transfer =
        { running := true, origin := some .auto, source := a, destination := d, requested := none, moved := 0
          residue := 0 } ∧
      movementOf d (topUp w) = .transferDst ∧
      (a ≠ d → (getN w.fau.tanks a).isSome = true → movementOf a (topUp w) = .transferSrc) ∧
      Written .transferPump 1000 w (topUp w))) ∧
  ∀ (count : Nat) (s : State),
    (s.fau.transfer.running = false → transferResult count s = s) ∧
    (s.fau.bunker.running = false → bunkerResult count s = s) ∧
    (∀ ks kd cs cd, s.fau.transfer.running = true → s.fau.transfer.source ≠ s.fau.transfer.destination →
      getN s.fau.tanks s.fau.transfer.source = some ks → getN s.fau.tanks s.fau.transfer.destination = some kd →
      getN s.cfg.tanks s.fau.transfer.source = some cs → getN s.cfg.tanks s.fau.transfer.destination = some cd →
      let ml := (s.fau.transfer.residue + count * s.cfg.kx) / 1000
      let tr := { s.fau.transfer with
        residue := (s.fau.transfer.residue + count * s.cfg.kx) % 1000, moved := s.fau.transfer.moved + ml }
      ks.raw < 2 ^ 47 → -(2 ^ 47) ≤ ks.raw - (ml : Int) → -(2 ^ 47) ≤ kd.raw → kd.raw + (ml : Int) < 2 ^ 47 →
      (∃ x y, getN (transferResult count s).fau.tanks s.fau.transfer.source = some x ∧ x.raw = ks.raw - (ml : Int) ∧
        getN (transferResult count s).fau.tanks s.fau.transfer.destination = some y ∧
        y.raw = kd.raw + (ml : Int)) ∧
      (∀ m x, m ≠ s.fau.transfer.source → m ≠ s.fau.transfer.destination → getN s.fau.tanks m = some x →
        ∃ y, getN (transferResult count s).fau.tanks m = some y ∧ y.raw = x.raw) ∧
      (stopDue tr cs cd (ks.raw - (ml : Int)) (kd.raw + (ml : Int)) = none →
        (transferResult count s).fau.transfer = tr ∧ (transferResult count s).fau.journal = s.fau.journal) ∧
      (∀ reason, stopDue tr cs cd (ks.raw - (ml : Int)) (kd.raw + (ml : Int)) = some reason →
        s.fau.nextSerial ≤ 4294967290 →
        ∃ e ∈ (transferResult count s).fau.journal, e =
          { serial := s.fau.nextSerial, time := s.stationTime, kind := .transfer, tank := tr.source
            other := some tr.destination, volume := tr.moved, reason := some reason })) ∧
    (∀ k, s.fau.bunker.running = true → getN s.fau.tanks s.fau.bunker.tank = some k →
      let ml := (s.fau.bunker.residue + count * s.cfg.kb) / 1000
      k.raw + (ml : Int) < 2 ^ 47 → -(2 ^ 47) ≤ k.raw →
      (bunkerResult count s).fau.bunker =
        { s.fau.bunker with
          residue := (s.fau.bunker.residue + count * s.cfg.kb) % 1000, volume := s.fau.bunker.volume + ml } ∧
      (∃ x, getN (bunkerResult count s).fau.tanks s.fau.bunker.tank = some x ∧ x.raw = k.raw + (ml : Int)) ∧
      ∀ m x, m ≠ s.fau.bunker.tank → getN s.fau.tanks m = some x →
        ∃ y, getN (bunkerResult count s).fau.tanks m = some y ∧ y.raw = x.raw)

/-- REBASE in service: NO_TANK, NO_SOUNDING or CONFLICT by the first row that applies; otherwise OK, and while no transfer runs
the raw balance becomes the sounding, one REBASE entry carries the adjustment, and the run count and its mark are cleared;
no other tank's balance changes (R130).  The sounding itself comes of a level result: it is stored with its station time
(the model's reading of the time a sounding carries: notes/assumptions/26.md), and without a movement in flight it is
compared with the content: out of tolerance the run count rises, at 3 with DISCREPANCY and one journal entry, once; within
tolerance run count and mark are cleared (R128, R129). -/
def Obligations.RebaseSetsBalance : Prop :=
  (∀ (n count elapsed : Nat) (s : State) (c : TankCfg) (k : Tank), getN s.cfg.tanks n = some c →
    getN s.fau.tanks n = some k → c.fEmpty < c.fFull →
    let f := max c.fEmpty (min c.fFull (count * 100000000 / elapsed))
    let v := (f - c.fEmpty) * c.capacity / (c.fFull - c.fEmpty)
    let u := levelResult n count elapsed s
    ∃ q, getN u.fau.tanks n = some q ∧ q.sounding = some (v, s.stationTime) ∧ q.raw = k.raw ∧ q.movement = k.movement ∧
      (∀ m, m ≠ n → getN u.fau.tanks m = getN s.fau.tanks m) ∧ u = { s with svp := u.svp, fau := u.fau } ∧
      (k.movement ≠ .none → q.run = k.run ∧ q.reported = k.reported ∧ u.fau.journal = s.fau.journal ∧ u.svp = s.svp) ∧
      (k.movement = .none → ((v : Int) - contentOf c k).natAbs ≤ c.tolerance →
        q.run = 0 ∧ q.reported = false ∧ u.fau.journal = s.fau.journal ∧ u.svp = s.svp) ∧
      (k.movement = .none → c.tolerance < ((v : Int) - contentOf c k).natAbs →
        q.run = min (k.run + 1) 65535 ∧
          (k.run + 1 < 3 ∨ k.reported = true →
            q.reported = k.reported ∧ u.fau.journal = s.fau.journal ∧ u.svp = s.svp) ∧
          (3 ≤ k.run + 1 → k.reported = false → s.fau.nextSerial ≤ 4294967295 →
            q.reported = true ∧ flagSet .discrepancy u = true ∧
              u.fau.journal.getLast? = some
                { serial := s.fau.nextSerial, time := s.stationTime, kind := .discrepancy, tank := n
                  volume := (v : Int) - contentOf c k }))) ∧
  ∀ (t : Nat) (n : Byte) (s : State), s.svp.mode ≠ .configuring →
    ((getN s.cfg.tanks n.toNat = none ∨ getN s.fau.tanks n.toNat = none) →
      exec (.rebase t n) s = .next (refuse .noTank (setClock t s))) ∧
    ∀ c k, getN s.cfg.tanks n.toNat = some c → getN s.fau.tanks n.toNat = some k →
      (k.sounding = none → exec (.rebase t n) s = .next (refuse .noSounding (setClock t s))) ∧
      (∀ v, k.sounding = some v →
        (k.movement ≠ .none → exec (.rebase t n) s = .next (replyStatus .conflict (setClock t s))) ∧
        (k.movement = .none → s.fau.transfer.running = false → s.fau.nextSerial ≤ 4294967295 →
          ∃ u q, exec (.rebase t n) s = .next u ∧ u.svp.reply = { status := .ok, reason := none, data := [] } ∧
            getN u.fau.tanks n.toNat = some q ∧ q.raw = (v.1 : Int) ∧ q.run = 0 ∧ q.reported = false ∧
            q.sounding = k.sounding ∧
            u.fau.journal.getLast? = some
              { serial := s.fau.nextSerial, time := max s.clock t / 1000000, kind := .rebase, tank := n.toNat
                volume := (v.1 : Int) - k.raw } ∧
            ∀ m x, m ≠ n.toNat → getN s.fau.tanks m = some x →
              ∃ y, getN u.fau.tanks m = some y ∧ y.raw = x.raw))

/-- A flow result books count × K microlitres: the whole millilitres leave the day tank's raw balance, the rest stays in the
residue, quanta leave since-booked until less than one is left, and the last rate is set, while the channel is OK and the
balance within its 48 bits (R109, R115 to R117).  Each quantum that leaves writes one BURN entry of its volume on the day
tank, marked estimated while any estimated part is left, which falls by a quantum, not below 0, with each; they are the
last entries of the journal, with consecutive serials, as far as the serials last (R116, R131); while no transfer runs
nothing else is entered.  The own total aboard and the fuel weight follow (R34, R113).  The band of a DAY tank is that of its
content; leaving NORMAL raises FUEL_RESERVE; a change to CUTOFF puts each engine on the tank in FUEL_OUT and takes its shaft
out of gear, a change to NORMAL makes one in FUEL_OUT STOPPED, and the share follows (R57, R112).  A notice of a flow
channel's health, the DEAD notice among them, or of an engine's state: the burn is estimated while the channel is DEAD and
the engine turns, with METER_FAULT on the passage from no to yes; with the channel DEAD and the engine not turning the last
rate is 0 (R118). -/
def Obligations.FlowResultBooks : Prop :=
  (∀ (n : Nat) (s : State) (b : Burn), getN s.fau.burns n = some b →
    let turns := ∃ r, getN s.sfc n = some r ∧ (r.engine = .running ∨ r.engine = .limited)
    let u := estimateNotice n s
    ∃ q, getN u.fau.burns n = some q ∧
      (q.estimating = true ↔ boundDead .flow (some n) s = true ∧ turns) ∧
      ((boundDead .flow (some n) s = true ∧ ¬turns) → q.lastRate = 0) ∧
      ((boundDead .flow (some n) s = false ∨ turns) → q.lastRate = b.lastRate) ∧
      q = { b with estimating := q.estimating, lastRate := q.lastRate } ∧
      u.fau.burn = (u.fau.burns.map (·.lastRate)).sum ∧
      (∀ f, flagSet f u = (flagSet f s || decide (f = .meterFault ∧ b.estimating = false ∧ q.estimating = true))) ∧
      u.fau.tanks = s.fau.tanks ∧ u.fau.journal = s.fau.journal ∧ u.sfc = s.sfc ∧ u.shu = s.shu) ∧
  ∀ (n count elapsed : Nat) (s : State) (c : ShaftCfg) (b : Burn) (k : Tank),
    getN s.cfg.shafts n = some c → getN s.fau.burns n = some b → getN s.fau.tanks c.dayTank = some k →
    boundDead .flow (some n) s = false → 0 < c.quantum →
    -(2 ^ 47) ≤ k.raw - ((b.residue + count * c.kFlow) / 1000 : Nat) → k.raw < 2 ^ 47 →
    ∃ q y, getN (flowResult n count elapsed s).fau.burns n = some q ∧
      getN (flowResult n count elapsed s).fau.tanks c.dayTank = some y ∧
      q.residue = (b.residue + count * c.kFlow) % 1000 ∧
      q.sinceBooked = (b.sinceBooked + (b.residue + count * c.kFlow) / 1000) % (c.quantum * 1000) ∧
      q.lastRate = count * c.kFlow * 36000 / elapsed ∧ q.estimating = false ∧
      y.raw = k.raw - ((b.residue + count * c.kFlow) / 1000 : Nat) ∧
      (let u := flowResult n count elapsed s
      u.fau.aboard = ((List.zip u.cfg.tanks u.fau.tanks).map fun x =>
          (max 0 (min (x.1.capacity : Int) x.2.raw)).toNat).sum / 1000 ∧
        u.shu.phi =
          (if s.cfg.balance ≤ u.fau.aboard then 1000 else if u.fau.aboard ≤ s.cfg.reserveLevel then 500
          else 500 + 500 * (u.fau.aboard - s.cfg.reserveLevel) / (s.cfg.balance - s.cfg.reserveLevel)) ∧
        ∀ ct, getN s.cfg.tanks c.dayTank = some ct → ct.role = .day →
          (let v := max 0 (min (ct.capacity : Int) y.raw)
          y.band = if (ct.reserve : Int) ≤ v then .normal else if v ≤ ct.cutoff then .cutoff else .reserve) ∧
          (flagSet .fuelReserve u = true ↔
            (flagSet .fuelReserve s = true ∨ (k.band = .normal ∧ y.band ≠ .normal))) ∧
          (y.band ≠ k.band → s.svp.mode ≠ .configuring → ShareInForce u) ∧
          ∀ i x ci, getN s.sfc i = some x → getN s.cfg.shafts i = some ci →
            let onTank := ci.dayTank = c.dayTank ∧ y.band ≠ k.band
            ∃ z, getN u.sfc i = some z ∧
              ((onTank ∧ y.band = .cutoff ∧ x.engine ≠ .fuelOut) →
                z.engine = .fuelOut ∧ z.deviation = none ∧ z.deviationAt = none ∧
                  ((x.dir = .ahead ∨ x.dir = .astern) →
                    z.dir = .dwell ∧ z.p = 0 ∧ z.dwellAt = some (s.now + ci.dwell))) ∧
              ((onTank ∧ y.band = .normal ∧ x.engine = .fuelOut) → z.engine = .stopped) ∧
              ((¬onTank ∨ y.band = .reserve ∨ (y.band = .cutoff ↔ x.engine = .fuelOut)) → z.engine = x.engine)) ∧
      (let size := c.quantum * 1000
      let quanta := (b.sinceBooked + (b.residue + count * c.kFlow) / 1000) / size
      q.estimated = b.estimated - quanta * size ∧
      (s.fau.nextSerial + quanta + 8 ≤ 4294967296 →
        (∃ earlier, (flowResult n count elapsed s).fau.journal = earlier ++
          ((List.range quanta).map fun i =>
            ({ serial := (flowResult n count elapsed s).fau.nextSerial - quanta + i, time := s.stationTime, kind := .burn
               tank := c.dayTank, volume := (size : Nat)
               estimated := decide (i * size < b.estimated) } : Entry)).drop (quanta - 128)) ∧
        (s.fau.transfer.running = false →
          (flowResult n count elapsed s).fau.nextSerial = s.fau.nextSerial + quanta)))

/-! ## Pulse gauges (chapter 7) -/

/-- INTERVAL_EXPIRY: the interval timer is restarted from its expiry; an IDLE channel joins the queue's tail, or is taken at once
by the lowest IDLE engine when nothing waits; a QUEUED or MEASURING channel only counts an overrun (R141, R143).  The restart
from the expiry however late the command is taken is notes/assumptions/20.md, nothing before its moment
notes/assumptions/4.md. -/
def Obligations.IntervalRequests : Prop :=
  ∀ (t n : Nat) (s : State) (r : Chan) (k : ChanCfg), getN s.pgu.chans n = some r → getN s.cfg.chans n = some k →
    (∀ e, r.intervalAt = some e → e ≤ max s.clock t / 1000 →
      (r.req ≠ .idle →
        ∃ u, exec (.intervalExpiry t n) s = .next u ∧
          getN u.pgu.chans n = some
            { r with intervalAt := some (e + k.interval), overrun := min (r.overrun + 1) 65535 } ∧
          u.pgu.queue = s.pgu.queue ∧ u.pgu.engines = s.pgu.engines ∧
          ∀ m, m ≠ n → getN u.pgu.chans m = getN s.pgu.chans m) ∧
      (r.req = .idle → (∀ x ∈ s.pgu.engines, x.isSome = true) →
        ∃ u, exec (.intervalExpiry t n) s = .next u ∧
          getN u.pgu.chans n = some { r with intervalAt := some (e + k.interval), req := .queued } ∧
          u.pgu.queue = s.pgu.queue ++ [n] ∧ u.pgu.engines = s.pgu.engines) ∧
      (∀ i, r.req = .idle → s.pgu.queue = [] → getN s.pgu.engines i = some none →
        (∀ j, j < i → getN s.pgu.engines j ≠ some none) →
        ∃ u, exec (.intervalExpiry t n) s = .next u ∧
          getN u.pgu.chans n = some { r with intervalAt := some (e + k.interval), req := .measuring } ∧
          u.pgu.queue = [] ∧
          getN u.pgu.engines i = some (some { chan := n, windowAt := max s.clock t + k.window * 1000 }) ∧
          ∀ j, j ≠ i → getN u.pgu.engines j = getN s.pgu.engines j)) ∧
    (due (max s.clock t / 1000) r.intervalAt = false → exec (.intervalExpiry t n) s = .next (setClock t s))

/-- An edge on a channel that an engine holds.  PERIOD: the first chosen edge starts the count, each further one counts, the N-th
makes the result COMPLETE.  DUTY: a rising edge starts a cycle, a falling edge ends its high time, the next rising edge
counts it and adds both times, the N-th makes the result.  An edge of the other polarity, or on a channel that no engine
holds, changes nothing else than the timebase (R144, R146, R148). -/
def Obligations.EdgesCounted : Prop :=
  ∀ (t n e : Nat) (edge : Edge) (s : State) (k : ChanCfg) (m : Meas),
    (engineOf n s = none → exec (.periodEdge t n edge) s = .next (setClock t s) ∧
      exec (.dutyEdge t n edge) s = .next (setClock t s)) ∧
    (getN s.cfg.chans n = some k → engineOf n s = some e → measOf e s = some m →
      (periodMode k.kind = true →
        (k.edge ≠ edge → exec (.periodEdge t n edge) s = .next (setClock t s)) ∧
        (k.edge = edge → m.phase = .arming →
          ∃ u, exec (.periodEdge t n edge) s = .next u ∧
            measOf e u = some { m with phase := .counting, count := 0, start := max s.clock t } ∧
            u = { s with clock := max s.clock t, pgu := { s.pgu with engines := u.pgu.engines } }) ∧
        (k.edge = edge → m.phase = .counting → m.count + 1 < k.count →
          ∃ u, exec (.periodEdge t n edge) s = .next u ∧
            measOf e u = some { m with count := m.count + 1, lastEdge := max s.clock t } ∧
            u = { s with clock := max s.clock t, pgu := { s.pgu with engines := u.pgu.engines } }) ∧
        (∀ c, k.edge = edge → m.phase = .counting → k.count ≤ m.count + 1 → getN s.pgu.chans n = some c →
          s.pgu.queue = [] →
          ∃ u q, exec (.periodEdge t n edge) s = .next u ∧ measOf e u = none ∧ getN u.pgu.chans n = some q ∧
            q.last = some (.complete, u.now) ∧ q.req = .idle ∧ q.noPulse = 0 ∧ q.health = .ok)) ∧
      (k.kind = .angle →
        (((edge = .falling ∧ m.phase ≠ .high) ∨ (edge = .rising ∧ m.phase = .high)) →
          exec (.dutyEdge t n edge) s = .next (setClock t s)) ∧
        (edge = .rising → m.phase = .arming →
          ∃ u, exec (.dutyEdge t n edge) s = .next u ∧
            measOf e u = some { m with phase := .high, start := max s.clock t } ∧
            u = { s with clock := max s.clock t, pgu := { s.pgu with engines := u.pgu.engines } }) ∧
        (edge = .falling → m.phase = .high →
          ∃ u, exec (.dutyEdge t n edge) s = .next u ∧
            measOf e u = some { m with phase := .low, lastEdge := max s.clock t } ∧
            u = { s with clock := max s.clock t, pgu := { s.pgu with engines := u.pgu.engines } }) ∧
        (edge = .rising → m.phase = .low → m.count + 1 < k.count →
          ∃ u, exec (.dutyEdge t n edge) s = .next u ∧
            measOf e u = some
              { m with
                phase := .high, count := m.count + 1, start := max s.clock t
                highSum := m.highSum + (m.lastEdge - m.start), cycleSum := m.cycleSum + (max s.clock t - m.start) } ∧
            u = { s with clock := max s.clock t, pgu := { s.pgu with engines := u.pgu.engines } }) ∧
        (∀ c, edge = .rising → m.phase = .low → k.count ≤ m.count + 1 → getN s.pgu.chans n = some c →
          s.pgu.queue = [] →
          ∃ u q, exec (.dutyEdge t n edge) s = .next u ∧ measOf e u = none ∧ getN u.pgu.chans n = some q ∧
            q.last = some (.complete, u.now) ∧ q.req = .idle ∧ q.noPulse = 0 ∧ q.health = .ok)))

/-- The window expiry of a PERIOD measurement: NO_PULSE where no interval was counted, PARTIAL over the intervals counted, with
their number and the time from the first edge to the last, otherwise; the N-th edge makes COMPLETE; a time of 0 is carried
as 1 µs (R144, R145, R148).  Of the result made: a NO_PULSE raises the run count and makes the channel DEAD at its dead
count, a good one sets the run count to 0 and the health to OK; then its owner takes it by its kind: a good result, the DEAD
notice in place of the NO_PULSE that made the channel DEAD, or a NO_PULSE with the health left; then the channel is IDLE,
its engine free, and the waiting channels are taken (R148 to R151).  Before the window's end nothing happens
(notes/assumptions/4.md). -/
def Obligations.PeriodWindowEnds : Prop :=
  (∀ (t n e : Nat) (s : State) (k : ChanCfg) (m : Meas) (c : Chan), getN s.cfg.chans n = some k →
    periodMode k.kind = true → engineOf n s = some e → measOf e s = some m → getN s.pgu.chans n = some c →
    (m.windowAt ≤ max s.clock t →
      ((m.phase = .arming ∨ m.count = 0) →
        exec (.periodWindowExpiry t n) s =
          .next (makeResult e n { outcome := .noPulse, count := 0, elapsed := 0, high := 0 } (setClock t s))) ∧
      (m.phase ≠ .arming → m.count ≠ 0 →
        exec (.periodWindowExpiry t n) s =
          .next (makeResult e n
            { outcome := .partialCount, count := m.count, elapsed := max 1 (m.lastEdge - m.start), high := 0 }
            (setClock t s)))) ∧
    (m.phase = .counting → k.count = m.count + 1 →
      exec (.periodEdge t n k.edge) s =
        .next (makeResult e n
          { outcome := .complete, count := k.count, elapsed := max 1 (max s.clock t - m.start), high := 0 }
          (setClock t s))) ∧
    (m.windowAt ≤ max s.clock t → s.pgu.queue = [] →
      ∃ u q, exec (.periodWindowExpiry t n) s = .next u ∧ measOf e u = none ∧ getN u.pgu.chans n = some q ∧
        q.req = .idle ∧ q.intervalAt = c.intervalAt ∧
        ((m.phase = .arming ∨ m.count = 0) →
          q.last = some (.noPulse, u.now) ∧ q.noPulse = min (c.noPulse + 1) 65535 ∧
            q.health = if k.deadCount ≤ min (c.noPulse + 1) 65535 then .dead else c.health) ∧
        (m.phase ≠ .arming → m.count ≠ 0 →
          q.last = some (.partialCount, u.now) ∧ q.noPulse = 0 ∧ q.health = .ok)) ∧
    (max s.clock t < m.windowAt → exec (.periodWindowExpiry t n) s = .next (setClock t s))) ∧
  ∀ (e n : Nat) (s : State) (k : ChanCfg) (c : Chan) (r : Result), getN s.cfg.chans n = some k →
    getN s.pgu.chans n = some c →
    let b := k.binding.getD 0
    let free := fun w => takeAll (setEngine e none (modChan n (fun q => { q with req := .idle }) w))
    let noted := fun h run =>
      modChan n (fun q => { q with health := h, noPulse := run, last := some (r.outcome, s.now) }) s
    let good := noted .ok 0
    let run := min (c.noPulse + 1) 65535
    let dead := noted .dead run
    (r.outcome ≠ .noPulse →
      (k.kind = .rpm → makeResult e n r s = free (rpmResult b r.count r.elapsed good)) ∧
      (k.kind = .flow → makeResult e n r s = free (flowResult b r.count r.elapsed good)) ∧
      (k.kind = .angle → makeResult e n r s = free (angleResult b r.high r.elapsed good)) ∧
      (k.kind = .load → makeResult e n r s = free (loadResult b r.count r.elapsed good)) ∧
      (k.kind = .level → makeResult e n r s = free (levelResult b r.count r.elapsed good)) ∧
      (k.kind = .xferMeter → makeResult e n r s = free (transferResult r.count good)) ∧
      (k.kind = .bunkerMeter → makeResult e n r s = free (bunkerResult r.count good))) ∧
    (r.outcome = .noPulse → c.health = .ok → k.deadCount ≤ run →
      (k.kind = .rpm → makeResult e n r s = free (rpmDead b dead)) ∧
      (k.kind = .flow → makeResult e n r s = free (estimateNotice b dead)) ∧
      (k.kind = .angle → makeResult e n r s = free (angleDead b dead)) ∧
      (k.kind = .load → makeResult e n r s = free (loadDead b dead)) ∧
      (k.kind = .level → makeResult e n r s = free dead) ∧
      (k.kind = .xferMeter → makeResult e n r s = free (transferMeterDead dead)) ∧
      (k.kind = .bunkerMeter → makeResult e n r s = free (bunkerMeterDead dead))) ∧
    (r.outcome = .noPulse → c.health = .dead →
      ((k.kind = .rpm ∨ k.kind = .flow ∨ k.kind = .angle ∨ k.kind = .load ∨ k.kind = .level) →
        makeResult e n r s = free dead) ∧
      (k.kind = .xferMeter → makeResult e n r s = free (transferMeterDead dead)) ∧
      (k.kind = .bunkerMeter → makeResult e n r s = free (bunkerMeterDead dead))) ∧
    (r.outcome = .noPulse → c.health = .ok → run < k.deadCount →
      (k.kind = .flow → makeResult e n r s = free (setRate b 0 (noted .ok run))) ∧
      (k.kind ≠ .flow → makeResult e n r s = free (noted .ok run)))

/-- The window expiry of a DUTY measurement: NO_PULSE with count 0 and no times where no cycle was completed, PARTIAL with the
cycles completed and the sums over them otherwise, a cycle in progress discarded.  Where the edge that completes the N-th
cycle falls together with the expiry: the edge first makes COMPLETE; the expiry first makes PARTIAL over N − 1 cycles, or
NO_PULSE where N is 1 (R147); a cycle-time sum of 0 is carried as 1 µs (R148).  That the command does nothing before the
window's end is notes/assumptions/4.md. -/
def Obligations.DutyWindowEnds : Prop :=
  ∀ (t n e : Nat) (s : State) (k : ChanCfg) (m : Meas) (c : Chan), getN s.cfg.chans n = some k → k.kind = .angle →
    engineOf n s = some e → measOf e s = some m → getN s.pgu.chans n = some c →
    (m.windowAt ≤ max s.clock t →
      (m.count = 0 →
        exec (.dutyWindowExpiry t n) s =
          .next (makeResult e n { outcome := .noPulse, count := 0, elapsed := 0, high := 0 } (setClock t s))) ∧
      (m.count ≠ 0 →
        exec (.dutyWindowExpiry t n) s =
          .next (makeResult e n
            { outcome := .partialCount, count := m.count, elapsed := max 1 m.cycleSum, high := m.highSum }
            (setClock t s))) ∧
      (m.phase = .low → k.count = m.count + 1 →
        exec (.dutyEdge t n .rising) s =
          .next (makeResult e n
            { outcome := .complete, count := k.count, elapsed := max 1 (m.cycleSum + (max s.clock t - m.start))
              high := m.highSum + (m.lastEdge - m.start) } (setClock t s)))) ∧
    (m.windowAt ≤ max s.clock t → s.pgu.queue = [] →
      ∃ u q, exec (.dutyWindowExpiry t n) s = .next u ∧ measOf e u = none ∧ getN u.pgu.chans n = some q ∧
        q.req = .idle ∧ q.last = some ((if m.count = 0 then .noPulse else .partialCount), u.now)) ∧
    (max s.clock t < m.windowAt → exec (.dutyWindowExpiry t n) s = .next (setClock t s))

/-! ## Drive lines (chapter 8) -/

/-- A period start: a pending 0, and any pending duty of a line without a partner, is applied, and a fall to 0 sets the off
time.  A line of a pair with a pending duty above 0 and no hold: driven already, it takes the duty; where its partner has
just been turned off it is held for the dead zone; where the partner is off, with nothing pending or a pending 0 that changes
nothing, and its dead zone over it is turned on, and held where it is not over; a driven partner with nothing pending is
forced off and counted; with a dead zone of 0 the line is turned on at once.  A held line takes its duty at the first
period start at or after the hold expiry (R159, R160); that a line held before any duty has been applied to it keeps its
applied duty absent until then is the model's reading of R159 to R161 (notes/assumptions/35.md).  The period timer is restarted from its expiry however late the command is taken (R157, notes/assumptions/20.md); before its moment nothing
happens (notes/assumptions/4.md).  A write of a duty: requested and, on an enabled line, pending; 0 ends the line's hold, and a
duty above 0 sets the partner's pending duty above 0 to 0 and ends its hold (R158, R160).  The pin shows the safe level where
R161 says so, and otherwise is high for duty × period µs from the period start and low for the rest (R157, R161). -/
def Obligations.PeriodStartApplies : Prop :=
  (∀ (t : Nat) (s : State),
    (due (max s.clock t / 1000) s.dlu.periodAt = false → exec (.periodStart t) s = .next (setClock t s)) ∧
    (∀ at_, s.dlu.periodAt = some at_ → at_ ≤ max s.clock t / 1000 → AssignedOnce s.cfg →
      s.dlu.lines.length = 24 →
      ∃ u, exec (.periodStart t) s = .next u ∧ u.dlu.periodAt = some (at_ + s.cfg.drivePeriod) ∧
        u = { s with clock := max s.clock t, dlu := u.dlu } ∧
        (∀ n l d, getN s.dlu.lines n = some l → l.pendingDuty = some d → (d = 0 ∨ partnerLine n s.cfg = none) →
          getN u.dlu.lines n = some
            { l with
              applied := some d, pendingDuty := none, holdAt := none
              offTime := if d = 0 ∧ appliedAbove0 l = true then some u.now else l.offTime }) ∧
        (∀ n p l q d, getN s.dlu.lines n = some l → partnerLine n s.cfg = some p → getN s.dlu.lines p = some q →
          l.pendingDuty = some d → 0 < d →
          (l.holdAt = none → lineDriven n s.cfg l = true → (q.pendingDuty = none ∨ q.pendingDuty = some 0) →
            getN u.dlu.lines n = some { l with applied := some d, pendingDuty := none }) ∧
          (l.holdAt = none → lineDriven n s.cfg l = false → q.pendingDuty = some 0 → lineDriven p s.cfg q = true →
            getN u.dlu.lines p = some
              { q with applied := some 0, pendingDuty := none, holdAt := none, offTime := some u.now } ∧
            (0 < s.cfg.deadZone →
              getN u.dlu.lines n = some { l with holdAt := some (u.now + s.cfg.deadZone) }) ∧
            (s.cfg.deadZone = 0 → getN u.dlu.lines n = some { l with applied := some d, pendingDuty := none })) ∧
          (l.holdAt = none → lineDriven n s.cfg l = false → q.pendingDuty = some 0 → appliedAbove0 q = false →
            getN u.dlu.lines p = some { q with applied := some 0, pendingDuty := none, holdAt := none } ∧
            (∀ o, q.offTime = some o → u.now < o + s.cfg.deadZone →
              getN u.dlu.lines n = some { l with holdAt := some (o + s.cfg.deadZone) }) ∧
            ((∀ o, q.offTime = some o → o + s.cfg.deadZone ≤ u.now) →
              getN u.dlu.lines n = some { l with applied := some d, pendingDuty := none })) ∧
          (∀ h, l.holdAt = some h → (q.pendingDuty = none ∨ q.pendingDuty = some 0) →
            (h ≤ u.now →
              getN u.dlu.lines n = some { l with applied := some d, pendingDuty := none, holdAt := none }) ∧
            (u.now < h → getN u.dlu.lines n = some l))) ∧
        (∀ n p l q d, getN s.dlu.lines n = some l → partnerLine n s.cfg = some p → getN s.dlu.lines p = some q →
          l.pendingDuty = some d → 0 < d → l.holdAt = none → lineDriven n s.cfg l = false → q.pendingDuty = none →
          (lineDriven p s.cfg q = false →
            (∀ o, q.offTime = some o → u.now < o + s.cfg.deadZone →
              getN u.dlu.lines n = some { l with holdAt := some (o + s.cfg.deadZone) } ∧ getN u.dlu.lines p = some q) ∧
            ((∀ o, q.offTime = some o → o + s.cfg.deadZone ≤ u.now) →
              getN u.dlu.lines n = some { l with applied := some d, pendingDuty := none } ∧
                getN u.dlu.lines p = some q)) ∧
          (lineDriven p s.cfg q = true →
            getN u.dlu.lines p = some
              { q with applied := some 0, offTime := some u.now, overrides := min (q.overrides + 1) 65535 } ∧
            (0 < s.cfg.deadZone →
              getN u.dlu.lines n = some { l with holdAt := some (u.now + s.cfg.deadZone) }) ∧
            (s.cfg.deadZone = 0 → getN u.dlu.lines n = some { l with applied := some d, pendingDuty := none }))))) ∧
  (∀ (a : Assignment) (d : Nat) (s : State),
    (lineOf a s.cfg = none → writeDuty a d s = s) ∧
    ∀ n l, lineOf a s.cfg = some n → getN s.dlu.lines n = some l →
      writeDuty a d s = { s with dlu := { s.dlu with lines := (writeDuty a d s).dlu.lines } } ∧
      getN (writeDuty a d s).dlu.lines n = some
        (if lineEnabled n s.cfg then
          { l with requested := some d, pendingDuty := some d, holdAt := if d = 0 then none else l.holdAt }
        else { l with requested := some d }) ∧
      ∀ m x, m ≠ n → getN s.dlu.lines m = some x →
        getN (writeDuty a d s).dlu.lines m = some
          (if lineEnabled n s.cfg = true ∧ 0 < d ∧ partnerLine n s.cfg = some m ∧ pendingAbove0 x = true then
            { x with pendingDuty := some 0, holdAt := none }
          else x)) ∧
  ∀ (n : Nat) (s : State) (c : LineCfg) (l : Line), getN s.cfg.lines n = some c → getN s.dlu.lines n = some l →
    ((s.svp.mode = .configuring ∨ c.assignment = .unused ∨ c.enabled = false ∨ l.applied = none) →
      linePin n s = some (match c.safe with | .low => .low | .high => .high | .float => .floating)) ∧
    ∀ at_ d, s.svp.mode ≠ .configuring → c.assignment ≠ .unused → c.enabled = true → l.applied = some d → d ≤ 1000 →
      s.dlu.periodAt = some at_ → s.cfg.drivePeriod ≤ at_ → at_ * 1000 ≤ s.clock + s.cfg.drivePeriod * 1000 →
      s.clock < at_ * 1000 →
      linePin n s = some
        (if s.clock - (at_ * 1000 - s.cfg.drivePeriod * 1000) < d * s.cfg.drivePeriod then .high else .low)
end

