-- ==== Sys2Proof/Laws/State.lean ====
section
/-!
SUPPORT. One lemma for each field of State and each update of the shared operations: what the operation leaves unchanged,
and what it sets.  True by `rfl`; later proofs use these in place of unfolding a record update.
-/

namespace Sys2Proof.Machine

variable (s : State)

/-! ### setClock -/

@[simp] theorem setClock_pending (t : Nat) : (setClock t s).pending = s.pending := rfl
@[simp] theorem setClock_draws (t : Nat) : (setClock t s).draws = s.draws := rfl
@[simp] theorem setClock_cfg (t : Nat) : (setClock t s).cfg = s.cfg := rfl
@[simp] theorem setClock_svp (t : Nat) : (setClock t s).svp = s.svp := rfl
@[simp] theorem setClock_lif (t : Nat) : (setClock t s).lif = s.lif := rfl
@[simp] theorem setClock_cvu (t : Nat) : (setClock t s).cvu = s.cvu := rfl
@[simp] theorem setClock_shu (t : Nat) : (setClock t s).shu = s.shu := rfl
@[simp] theorem setClock_sfc (t : Nat) : (setClock t s).sfc = s.sfc := rfl
@[simp] theorem setClock_stc (t : Nat) : (setClock t s).stc = s.stc := rfl
@[simp] theorem setClock_cpc (t : Nat) : (setClock t s).cpc = s.cpc := rfl
@[simp] theorem setClock_fau (t : Nat) : (setClock t s).fau = s.fau := rfl
@[simp] theorem setClock_pgu (t : Nat) : (setClock t s).pgu = s.pgu := rfl
@[simp] theorem setClock_dlu (t : Nat) : (setClock t s).dlu = s.dlu := rfl

/-! ### raiseFlag -/

@[simp] theorem raiseFlag_pending (f : Flag) : (raiseFlag f s).pending = s.pending := rfl
@[simp] theorem raiseFlag_clock (f : Flag) : (raiseFlag f s).clock = s.clock := rfl
@[simp] theorem raiseFlag_draws (f : Flag) : (raiseFlag f s).draws = s.draws := rfl
@[simp] theorem raiseFlag_cfg (f : Flag) : (raiseFlag f s).cfg = s.cfg := rfl
@[simp] theorem raiseFlag_lif (f : Flag) : (raiseFlag f s).lif = s.lif := rfl
@[simp] theorem raiseFlag_cvu (f : Flag) : (raiseFlag f s).cvu = s.cvu := rfl
@[simp] theorem raiseFlag_shu (f : Flag) : (raiseFlag f s).shu = s.shu := rfl
@[simp] theorem raiseFlag_sfc (f : Flag) : (raiseFlag f s).sfc = s.sfc := rfl
@[simp] theorem raiseFlag_stc (f : Flag) : (raiseFlag f s).stc = s.stc := rfl
@[simp] theorem raiseFlag_cpc (f : Flag) : (raiseFlag f s).cpc = s.cpc := rfl
@[simp] theorem raiseFlag_fau (f : Flag) : (raiseFlag f s).fau = s.fau := rfl
@[simp] theorem raiseFlag_pgu (f : Flag) : (raiseFlag f s).pgu = s.pgu := rfl
@[simp] theorem raiseFlag_dlu (f : Flag) : (raiseFlag f s).dlu = s.dlu := rfl
@[simp] theorem raiseFlag_mode (f : Flag) : (raiseFlag f s).svp.mode = s.svp.mode := rfl
@[simp] theorem raiseFlag_startCause (f : Flag) : (raiseFlag f s).svp.startCause = s.svp.startCause := rfl
@[simp] theorem raiseFlag_straps (f : Flag) : (raiseFlag f s).svp.straps = s.svp.straps := rfl
@[simp] theorem raiseFlag_reply (f : Flag) : (raiseFlag f s).svp.reply = s.svp.reply := rfl
@[simp] theorem raiseFlag_panel (f : Flag) : (raiseFlag f s).svp.panel = s.svp.panel := rfl
@[simp] theorem raiseFlag_panelState (f : Flag) : (raiseFlag f s).svp.panelState = s.svp.panelState := rfl
@[simp] theorem raiseFlag_panelAt (f : Flag) : (raiseFlag f s).svp.panelAt = s.svp.panelAt := rfl
@[simp] theorem raiseFlag_joinAt (f : Flag) : (raiseFlag f s).svp.joinAt = s.svp.joinAt := rfl
@[simp] theorem raiseFlag_image (f : Flag) : (raiseFlag f s).svp.image = s.svp.image := rfl

/-! ### clearFlags -/

@[simp] theorem clearFlags_pending (m : BitVec 16) : (clearFlags m s).pending = s.pending := rfl
@[simp] theorem clearFlags_clock (m : BitVec 16) : (clearFlags m s).clock = s.clock := rfl
@[simp] theorem clearFlags_draws (m : BitVec 16) : (clearFlags m s).draws = s.draws := rfl
@[simp] theorem clearFlags_cfg (m : BitVec 16) : (clearFlags m s).cfg = s.cfg := rfl
@[simp] theorem clearFlags_lif (m : BitVec 16) : (clearFlags m s).lif = s.lif := rfl
@[simp] theorem clearFlags_cvu (m : BitVec 16) : (clearFlags m s).cvu = s.cvu := rfl
@[simp] theorem clearFlags_shu (m : BitVec 16) : (clearFlags m s).shu = s.shu := rfl
@[simp] theorem clearFlags_sfc (m : BitVec 16) : (clearFlags m s).sfc = s.sfc := rfl
@[simp] theorem clearFlags_stc (m : BitVec 16) : (clearFlags m s).stc = s.stc := rfl
@[simp] theorem clearFlags_cpc (m : BitVec 16) : (clearFlags m s).cpc = s.cpc := rfl
@[simp] theorem clearFlags_fau (m : BitVec 16) : (clearFlags m s).fau = s.fau := rfl
@[simp] theorem clearFlags_pgu (m : BitVec 16) : (clearFlags m s).pgu = s.pgu := rfl
@[simp] theorem clearFlags_dlu (m : BitVec 16) : (clearFlags m s).dlu = s.dlu := rfl
@[simp] theorem clearFlags_mode (m : BitVec 16) : (clearFlags m s).svp.mode = s.svp.mode := rfl
@[simp] theorem clearFlags_startCause (m : BitVec 16) : (clearFlags m s).svp.startCause = s.svp.startCause := rfl
@[simp] theorem clearFlags_straps (m : BitVec 16) : (clearFlags m s).svp.straps = s.svp.straps := rfl
@[simp] theorem clearFlags_reply (m : BitVec 16) : (clearFlags m s).svp.reply = s.svp.reply := rfl
@[simp] theorem clearFlags_panel (m : BitVec 16) : (clearFlags m s).svp.panel = s.svp.panel := rfl
@[simp] theorem clearFlags_panelState (m : BitVec 16) : (clearFlags m s).svp.panelState = s.svp.panelState := rfl
@[simp] theorem clearFlags_panelAt (m : BitVec 16) : (clearFlags m s).svp.panelAt = s.svp.panelAt := rfl
@[simp] theorem clearFlags_joinAt (m : BitVec 16) : (clearFlags m s).svp.joinAt = s.svp.joinAt := rfl
@[simp] theorem clearFlags_image (m : BitVec 16) : (clearFlags m s).svp.image = s.svp.image := rfl

/-! ### replyOk -/

@[simp] theorem replyOk_pending (d : List Byte) : (replyOk d s).pending = s.pending := rfl
@[simp] theorem replyOk_clock (d : List Byte) : (replyOk d s).clock = s.clock := rfl
@[simp] theorem replyOk_draws (d : List Byte) : (replyOk d s).draws = s.draws := rfl
@[simp] theorem replyOk_cfg (d : List Byte) : (replyOk d s).cfg = s.cfg := rfl
@[simp] theorem replyOk_lif (d : List Byte) : (replyOk d s).lif = s.lif := rfl
@[simp] theorem replyOk_cvu (d : List Byte) : (replyOk d s).cvu = s.cvu := rfl
@[simp] theorem replyOk_shu (d : List Byte) : (replyOk d s).shu = s.shu := rfl
@[simp] theorem replyOk_sfc (d : List Byte) : (replyOk d s).sfc = s.sfc := rfl
@[simp] theorem replyOk_stc (d : List Byte) : (replyOk d s).stc = s.stc := rfl
@[simp] theorem replyOk_cpc (d : List Byte) : (replyOk d s).cpc = s.cpc := rfl
@[simp] theorem replyOk_fau (d : List Byte) : (replyOk d s).fau = s.fau := rfl
@[simp] theorem replyOk_pgu (d : List Byte) : (replyOk d s).pgu = s.pgu := rfl
@[simp] theorem replyOk_dlu (d : List Byte) : (replyOk d s).dlu = s.dlu := rfl
@[simp] theorem replyOk_mode (d : List Byte) : (replyOk d s).svp.mode = s.svp.mode := rfl
@[simp] theorem replyOk_startCause (d : List Byte) : (replyOk d s).svp.startCause = s.svp.startCause := rfl
@[simp] theorem replyOk_straps (d : List Byte) : (replyOk d s).svp.straps = s.svp.straps := rfl
@[simp] theorem replyOk_panel (d : List Byte) : (replyOk d s).svp.panel = s.svp.panel := rfl
@[simp] theorem replyOk_panelState (d : List Byte) : (replyOk d s).svp.panelState = s.svp.panelState := rfl
@[simp] theorem replyOk_panelAt (d : List Byte) : (replyOk d s).svp.panelAt = s.svp.panelAt := rfl
@[simp] theorem replyOk_flags (d : List Byte) : (replyOk d s).svp.flags = s.svp.flags := rfl
@[simp] theorem replyOk_joinAt (d : List Byte) : (replyOk d s).svp.joinAt = s.svp.joinAt := rfl
@[simp] theorem replyOk_image (d : List Byte) : (replyOk d s).svp.image = s.svp.image := rfl

/-! ### refuse -/

@[simp] theorem refuse_pending (r : Reason) : (refuse r s).pending = s.pending := rfl
@[simp] theorem refuse_clock (r : Reason) : (refuse r s).clock = s.clock := rfl
@[simp] theorem refuse_draws (r : Reason) : (refuse r s).draws = s.draws := rfl
@[simp] theorem refuse_cfg (r : Reason) : (refuse r s).cfg = s.cfg := rfl
@[simp] theorem refuse_lif (r : Reason) : (refuse r s).lif = s.lif := rfl
@[simp] theorem refuse_cvu (r : Reason) : (refuse r s).cvu = s.cvu := rfl
@[simp] theorem refuse_shu (r : Reason) : (refuse r s).shu = s.shu := rfl
@[simp] theorem refuse_sfc (r : Reason) : (refuse r s).sfc = s.sfc := rfl
@[simp] theorem refuse_stc (r : Reason) : (refuse r s).stc = s.stc := rfl
@[simp] theorem refuse_cpc (r : Reason) : (refuse r s).cpc = s.cpc := rfl
@[simp] theorem refuse_fau (r : Reason) : (refuse r s).fau = s.fau := rfl
@[simp] theorem refuse_pgu (r : Reason) : (refuse r s).pgu = s.pgu := rfl
@[simp] theorem refuse_dlu (r : Reason) : (refuse r s).dlu = s.dlu := rfl
@[simp] theorem refuse_mode (r : Reason) : (refuse r s).svp.mode = s.svp.mode := rfl
@[simp] theorem refuse_startCause (r : Reason) : (refuse r s).svp.startCause = s.svp.startCause := rfl
@[simp] theorem refuse_straps (r : Reason) : (refuse r s).svp.straps = s.svp.straps := rfl
@[simp] theorem refuse_panel (r : Reason) : (refuse r s).svp.panel = s.svp.panel := rfl
@[simp] theorem refuse_panelState (r : Reason) : (refuse r s).svp.panelState = s.svp.panelState := rfl
@[simp] theorem refuse_panelAt (r : Reason) : (refuse r s).svp.panelAt = s.svp.panelAt := rfl
@[simp] theorem refuse_flags (r : Reason) : (refuse r s).svp.flags = s.svp.flags := rfl
@[simp] theorem refuse_joinAt (r : Reason) : (refuse r s).svp.joinAt = s.svp.joinAt := rfl
@[simp] theorem refuse_image (r : Reason) : (refuse r s).svp.image = s.svp.image := rfl

/-! ### refuseWith -/

@[simp] theorem refuseWith_pending (r : Reason) (d : List Byte) : (refuseWith r d s).pending = s.pending := rfl
@[simp] theorem refuseWith_clock (r : Reason) (d : List Byte) : (refuseWith r d s).clock = s.clock := rfl
@[simp] theorem refuseWith_draws (r : Reason) (d : List Byte) : (refuseWith r d s).draws = s.draws := rfl
@[simp] theorem refuseWith_cfg (r : Reason) (d : List Byte) : (refuseWith r d s).cfg = s.cfg := rfl
@[simp] theorem refuseWith_lif (r : Reason) (d : List Byte) : (refuseWith r d s).lif = s.lif := rfl
@[simp] theorem refuseWith_cvu (r : Reason) (d : List Byte) : (refuseWith r d s).cvu = s.cvu := rfl
@[simp] theorem refuseWith_shu (r : Reason) (d : List Byte) : (refuseWith r d s).shu = s.shu := rfl
@[simp] theorem refuseWith_sfc (r : Reason) (d : List Byte) : (refuseWith r d s).sfc = s.sfc := rfl
@[simp] theorem refuseWith_stc (r : Reason) (d : List Byte) : (refuseWith r d s).stc = s.stc := rfl
@[simp] theorem refuseWith_cpc (r : Reason) (d : List Byte) : (refuseWith r d s).cpc = s.cpc := rfl
@[simp] theorem refuseWith_fau (r : Reason) (d : List Byte) : (refuseWith r d s).fau = s.fau := rfl
@[simp] theorem refuseWith_pgu (r : Reason) (d : List Byte) : (refuseWith r d s).pgu = s.pgu := rfl
@[simp] theorem refuseWith_dlu (r : Reason) (d : List Byte) : (refuseWith r d s).dlu = s.dlu := rfl
@[simp] theorem refuseWith_mode (r : Reason) (d : List Byte) : (refuseWith r d s).svp.mode = s.svp.mode := rfl
@[simp] theorem refuseWith_startCause (r : Reason) (d : List Byte) : (refuseWith r d s).svp.startCause = s.svp.startCause := rfl
@[simp] theorem refuseWith_straps (r : Reason) (d : List Byte) : (refuseWith r d s).svp.straps = s.svp.straps := rfl
@[simp] theorem refuseWith_panel (r : Reason) (d : List Byte) : (refuseWith r d s).svp.panel = s.svp.panel := rfl
@[simp] theorem refuseWith_panelState (r : Reason) (d : List Byte) : (refuseWith r d s).svp.panelState = s.svp.panelState := rfl
@[simp] theorem refuseWith_panelAt (r : Reason) (d : List Byte) : (refuseWith r d s).svp.panelAt = s.svp.panelAt := rfl
@[simp] theorem refuseWith_flags (r : Reason) (d : List Byte) : (refuseWith r d s).svp.flags = s.svp.flags := rfl
@[simp] theorem refuseWith_joinAt (r : Reason) (d : List Byte) : (refuseWith r d s).svp.joinAt = s.svp.joinAt := rfl
@[simp] theorem refuseWith_image (r : Reason) (d : List Byte) : (refuseWith r d s).svp.image = s.svp.image := rfl

/-! ### replyStatus -/

@[simp] theorem replyStatus_pending (a : Status) : (replyStatus a s).pending = s.pending := rfl
@[simp] theorem replyStatus_clock (a : Status) : (replyStatus a s).clock = s.clock := rfl
@[simp] theorem replyStatus_draws (a : Status) : (replyStatus a s).draws = s.draws := rfl
@[simp] theorem replyStatus_cfg (a : Status) : (replyStatus a s).cfg = s.cfg := rfl
@[simp] theorem replyStatus_lif (a : Status) : (replyStatus a s).lif = s.lif := rfl
@[simp] theorem replyStatus_cvu (a : Status) : (replyStatus a s).cvu = s.cvu := rfl
@[simp] theorem replyStatus_shu (a : Status) : (replyStatus a s).shu = s.shu := rfl
@[simp] theorem replyStatus_sfc (a : Status) : (replyStatus a s).sfc = s.sfc := rfl
@[simp] theorem replyStatus_stc (a : Status) : (replyStatus a s).stc = s.stc := rfl
@[simp] theorem replyStatus_cpc (a : Status) : (replyStatus a s).cpc = s.cpc := rfl
@[simp] theorem replyStatus_fau (a : Status) : (replyStatus a s).fau = s.fau := rfl
@[simp] theorem replyStatus_pgu (a : Status) : (replyStatus a s).pgu = s.pgu := rfl
@[simp] theorem replyStatus_dlu (a : Status) : (replyStatus a s).dlu = s.dlu := rfl
@[simp] theorem replyStatus_mode (a : Status) : (replyStatus a s).svp.mode = s.svp.mode := rfl
@[simp] theorem replyStatus_startCause (a : Status) : (replyStatus a s).svp.startCause = s.svp.startCause := rfl
@[simp] theorem replyStatus_straps (a : Status) : (replyStatus a s).svp.straps = s.svp.straps := rfl
@[simp] theorem replyStatus_panel (a : Status) : (replyStatus a s).svp.panel = s.svp.panel := rfl
@[simp] theorem replyStatus_panelState (a : Status) : (replyStatus a s).svp.panelState = s.svp.panelState := rfl
@[simp] theorem replyStatus_panelAt (a : Status) : (replyStatus a s).svp.panelAt = s.svp.panelAt := rfl
@[simp] theorem replyStatus_flags (a : Status) : (replyStatus a s).svp.flags = s.svp.flags := rfl
@[simp] theorem replyStatus_joinAt (a : Status) : (replyStatus a s).svp.joinAt = s.svp.joinAt := rfl
@[simp] theorem replyStatus_image (a : Status) : (replyStatus a s).svp.image = s.svp.image := rfl

/-! ### modPeer -/

@[simp] theorem modPeer_pending (n : Nat) (f : Peer → Peer) : (modPeer n f s).pending = s.pending := rfl
@[simp] theorem modPeer_clock (n : Nat) (f : Peer → Peer) : (modPeer n f s).clock = s.clock := rfl
@[simp] theorem modPeer_draws (n : Nat) (f : Peer → Peer) : (modPeer n f s).draws = s.draws := rfl
@[simp] theorem modPeer_cfg (n : Nat) (f : Peer → Peer) : (modPeer n f s).cfg = s.cfg := rfl
@[simp] theorem modPeer_svp (n : Nat) (f : Peer → Peer) : (modPeer n f s).svp = s.svp := rfl
@[simp] theorem modPeer_lif (n : Nat) (f : Peer → Peer) : (modPeer n f s).lif = s.lif := rfl
@[simp] theorem modPeer_shu (n : Nat) (f : Peer → Peer) : (modPeer n f s).shu = s.shu := rfl
@[simp] theorem modPeer_sfc (n : Nat) (f : Peer → Peer) : (modPeer n f s).sfc = s.sfc := rfl
@[simp] theorem modPeer_stc (n : Nat) (f : Peer → Peer) : (modPeer n f s).stc = s.stc := rfl
@[simp] theorem modPeer_cpc (n : Nat) (f : Peer → Peer) : (modPeer n f s).cpc = s.cpc := rfl
@[simp] theorem modPeer_fau (n : Nat) (f : Peer → Peer) : (modPeer n f s).fau = s.fau := rfl
@[simp] theorem modPeer_pgu (n : Nat) (f : Peer → Peer) : (modPeer n f s).pgu = s.pgu := rfl
@[simp] theorem modPeer_dlu (n : Nat) (f : Peer → Peer) : (modPeer n f s).dlu = s.dlu := rfl

/-! ### modShaft -/

@[simp] theorem modShaft_pending (n : Nat) (f : Shaft → Shaft) : (modShaft n f s).pending = s.pending := rfl
@[simp] theorem modShaft_clock (n : Nat) (f : Shaft → Shaft) : (modShaft n f s).clock = s.clock := rfl
@[simp] theorem modShaft_draws (n : Nat) (f : Shaft → Shaft) : (modShaft n f s).draws = s.draws := rfl
@[simp] theorem modShaft_cfg (n : Nat) (f : Shaft → Shaft) : (modShaft n f s).cfg = s.cfg := rfl
@[simp] theorem modShaft_svp (n : Nat) (f : Shaft → Shaft) : (modShaft n f s).svp = s.svp := rfl
@[simp] theorem modShaft_lif (n : Nat) (f : Shaft → Shaft) : (modShaft n f s).lif = s.lif := rfl
@[simp] theorem modShaft_cvu (n : Nat) (f : Shaft → Shaft) : (modShaft n f s).cvu = s.cvu := rfl
@[simp] theorem modShaft_shu (n : Nat) (f : Shaft → Shaft) : (modShaft n f s).shu = s.shu := rfl
@[simp] theorem modShaft_stc (n : Nat) (f : Shaft → Shaft) : (modShaft n f s).stc = s.stc := rfl
@[simp] theorem modShaft_cpc (n : Nat) (f : Shaft → Shaft) : (modShaft n f s).cpc = s.cpc := rfl
@[simp] theorem modShaft_fau (n : Nat) (f : Shaft → Shaft) : (modShaft n f s).fau = s.fau := rfl
@[simp] theorem modShaft_pgu (n : Nat) (f : Shaft → Shaft) : (modShaft n f s).pgu = s.pgu := rfl
@[simp] theorem modShaft_dlu (n : Nat) (f : Shaft → Shaft) : (modShaft n f s).dlu = s.dlu := rfl

/-! ### modRudder -/

@[simp] theorem modRudder_pending (n : Nat) (f : Rudder → Rudder) : (modRudder n f s).pending = s.pending := rfl
@[simp] theorem modRudder_clock (n : Nat) (f : Rudder → Rudder) : (modRudder n f s).clock = s.clock := rfl
@[simp] theorem modRudder_draws (n : Nat) (f : Rudder → Rudder) : (modRudder n f s).draws = s.draws := rfl
@[simp] theorem modRudder_cfg (n : Nat) (f : Rudder → Rudder) : (modRudder n f s).cfg = s.cfg := rfl
@[simp] theorem modRudder_svp (n : Nat) (f : Rudder → Rudder) : (modRudder n f s).svp = s.svp := rfl
@[simp] theorem modRudder_lif (n : Nat) (f : Rudder → Rudder) : (modRudder n f s).lif = s.lif := rfl
@[simp] theorem modRudder_cvu (n : Nat) (f : Rudder → Rudder) : (modRudder n f s).cvu = s.cvu := rfl
@[simp] theorem modRudder_shu (n : Nat) (f : Rudder → Rudder) : (modRudder n f s).shu = s.shu := rfl
@[simp] theorem modRudder_sfc (n : Nat) (f : Rudder → Rudder) : (modRudder n f s).sfc = s.sfc := rfl
@[simp] theorem modRudder_cpc (n : Nat) (f : Rudder → Rudder) : (modRudder n f s).cpc = s.cpc := rfl
@[simp] theorem modRudder_fau (n : Nat) (f : Rudder → Rudder) : (modRudder n f s).fau = s.fau := rfl
@[simp] theorem modRudder_pgu (n : Nat) (f : Rudder → Rudder) : (modRudder n f s).pgu = s.pgu := rfl
@[simp] theorem modRudder_dlu (n : Nat) (f : Rudder → Rudder) : (modRudder n f s).dlu = s.dlu := rfl

/-! ### modWinch -/

@[simp] theorem modWinch_pending (n : Nat) (f : Winch → Winch) : (modWinch n f s).pending = s.pending := rfl
@[simp] theorem modWinch_clock (n : Nat) (f : Winch → Winch) : (modWinch n f s).clock = s.clock := rfl
@[simp] theorem modWinch_draws (n : Nat) (f : Winch → Winch) : (modWinch n f s).draws = s.draws := rfl
@[simp] theorem modWinch_cfg (n : Nat) (f : Winch → Winch) : (modWinch n f s).cfg = s.cfg := rfl
@[simp] theorem modWinch_svp (n : Nat) (f : Winch → Winch) : (modWinch n f s).svp = s.svp := rfl
@[simp] theorem modWinch_lif (n : Nat) (f : Winch → Winch) : (modWinch n f s).lif = s.lif := rfl
@[simp] theorem modWinch_cvu (n : Nat) (f : Winch → Winch) : (modWinch n f s).cvu = s.cvu := rfl
@[simp] theorem modWinch_shu (n : Nat) (f : Winch → Winch) : (modWinch n f s).shu = s.shu := rfl
@[simp] theorem modWinch_sfc (n : Nat) (f : Winch → Winch) : (modWinch n f s).sfc = s.sfc := rfl
@[simp] theorem modWinch_stc (n : Nat) (f : Winch → Winch) : (modWinch n f s).stc = s.stc := rfl
@[simp] theorem modWinch_fau (n : Nat) (f : Winch → Winch) : (modWinch n f s).fau = s.fau := rfl
@[simp] theorem modWinch_pgu (n : Nat) (f : Winch → Winch) : (modWinch n f s).pgu = s.pgu := rfl
@[simp] theorem modWinch_dlu (n : Nat) (f : Winch → Winch) : (modWinch n f s).dlu = s.dlu := rfl

/-! ### modTank -/

@[simp] theorem modTank_pending (n : Nat) (f : Tank → Tank) : (modTank n f s).pending = s.pending := rfl
@[simp] theorem modTank_clock (n : Nat) (f : Tank → Tank) : (modTank n f s).clock = s.clock := rfl
@[simp] theorem modTank_draws (n : Nat) (f : Tank → Tank) : (modTank n f s).draws = s.draws := rfl
@[simp] theorem modTank_cfg (n : Nat) (f : Tank → Tank) : (modTank n f s).cfg = s.cfg := rfl
@[simp] theorem modTank_svp (n : Nat) (f : Tank → Tank) : (modTank n f s).svp = s.svp := rfl
@[simp] theorem modTank_lif (n : Nat) (f : Tank → Tank) : (modTank n f s).lif = s.lif := rfl
@[simp] theorem modTank_cvu (n : Nat) (f : Tank → Tank) : (modTank n f s).cvu = s.cvu := rfl
@[simp] theorem modTank_shu (n : Nat) (f : Tank → Tank) : (modTank n f s).shu = s.shu := rfl
@[simp] theorem modTank_sfc (n : Nat) (f : Tank → Tank) : (modTank n f s).sfc = s.sfc := rfl
@[simp] theorem modTank_stc (n : Nat) (f : Tank → Tank) : (modTank n f s).stc = s.stc := rfl
@[simp] theorem modTank_cpc (n : Nat) (f : Tank → Tank) : (modTank n f s).cpc = s.cpc := rfl
@[simp] theorem modTank_pgu (n : Nat) (f : Tank → Tank) : (modTank n f s).pgu = s.pgu := rfl
@[simp] theorem modTank_dlu (n : Nat) (f : Tank → Tank) : (modTank n f s).dlu = s.dlu := rfl

/-! ### modBurn -/

@[simp] theorem modBurn_pending (n : Nat) (f : Burn → Burn) : (modBurn n f s).pending = s.pending := rfl
@[simp] theorem modBurn_clock (n : Nat) (f : Burn → Burn) : (modBurn n f s).clock = s.clock := rfl
@[simp] theorem modBurn_draws (n : Nat) (f : Burn → Burn) : (modBurn n f s).draws = s.draws := rfl
@[simp] theorem modBurn_cfg (n : Nat) (f : Burn → Burn) : (modBurn n f s).cfg = s.cfg := rfl
@[simp] theorem modBurn_svp (n : Nat) (f : Burn → Burn) : (modBurn n f s).svp = s.svp := rfl
@[simp] theorem modBurn_lif (n : Nat) (f : Burn → Burn) : (modBurn n f s).lif = s.lif := rfl
@[simp] theorem modBurn_cvu (n : Nat) (f : Burn → Burn) : (modBurn n f s).cvu = s.cvu := rfl
@[simp] theorem modBurn_shu (n : Nat) (f : Burn → Burn) : (modBurn n f s).shu = s.shu := rfl
@[simp] theorem modBurn_sfc (n : Nat) (f : Burn → Burn) : (modBurn n f s).sfc = s.sfc := rfl
@[simp] theorem modBurn_stc (n : Nat) (f : Burn → Burn) : (modBurn n f s).stc = s.stc := rfl
@[simp] theorem modBurn_cpc (n : Nat) (f : Burn → Burn) : (modBurn n f s).cpc = s.cpc := rfl
@[simp] theorem modBurn_pgu (n : Nat) (f : Burn → Burn) : (modBurn n f s).pgu = s.pgu := rfl
@[simp] theorem modBurn_dlu (n : Nat) (f : Burn → Burn) : (modBurn n f s).dlu = s.dlu := rfl

/-! ### modChan -/

@[simp] theorem modChan_pending (n : Nat) (f : Chan → Chan) : (modChan n f s).pending = s.pending := rfl
@[simp] theorem modChan_clock (n : Nat) (f : Chan → Chan) : (modChan n f s).clock = s.clock := rfl
@[simp] theorem modChan_draws (n : Nat) (f : Chan → Chan) : (modChan n f s).draws = s.draws := rfl
@[simp] theorem modChan_cfg (n : Nat) (f : Chan → Chan) : (modChan n f s).cfg = s.cfg := rfl
@[simp] theorem modChan_svp (n : Nat) (f : Chan → Chan) : (modChan n f s).svp = s.svp := rfl
@[simp] theorem modChan_lif (n : Nat) (f : Chan → Chan) : (modChan n f s).lif = s.lif := rfl
@[simp] theorem modChan_cvu (n : Nat) (f : Chan → Chan) : (modChan n f s).cvu = s.cvu := rfl
@[simp] theorem modChan_shu (n : Nat) (f : Chan → Chan) : (modChan n f s).shu = s.shu := rfl
@[simp] theorem modChan_sfc (n : Nat) (f : Chan → Chan) : (modChan n f s).sfc = s.sfc := rfl
@[simp] theorem modChan_stc (n : Nat) (f : Chan → Chan) : (modChan n f s).stc = s.stc := rfl
@[simp] theorem modChan_cpc (n : Nat) (f : Chan → Chan) : (modChan n f s).cpc = s.cpc := rfl
@[simp] theorem modChan_fau (n : Nat) (f : Chan → Chan) : (modChan n f s).fau = s.fau := rfl
@[simp] theorem modChan_dlu (n : Nat) (f : Chan → Chan) : (modChan n f s).dlu = s.dlu := rfl

/-! ### setEngine -/

@[simp] theorem setEngine_pending (e : Nat) (m : Option Meas) : (setEngine e m s).pending = s.pending := rfl
@[simp] theorem setEngine_clock (e : Nat) (m : Option Meas) : (setEngine e m s).clock = s.clock := rfl
@[simp] theorem setEngine_draws (e : Nat) (m : Option Meas) : (setEngine e m s).draws = s.draws := rfl
@[simp] theorem setEngine_cfg (e : Nat) (m : Option Meas) : (setEngine e m s).cfg = s.cfg := rfl
@[simp] theorem setEngine_svp (e : Nat) (m : Option Meas) : (setEngine e m s).svp = s.svp := rfl
@[simp] theorem setEngine_lif (e : Nat) (m : Option Meas) : (setEngine e m s).lif = s.lif := rfl
@[simp] theorem setEngine_cvu (e : Nat) (m : Option Meas) : (setEngine e m s).cvu = s.cvu := rfl
@[simp] theorem setEngine_shu (e : Nat) (m : Option Meas) : (setEngine e m s).shu = s.shu := rfl
@[simp] theorem setEngine_sfc (e : Nat) (m : Option Meas) : (setEngine e m s).sfc = s.sfc := rfl
@[simp] theorem setEngine_stc (e : Nat) (m : Option Meas) : (setEngine e m s).stc = s.stc := rfl
@[simp] theorem setEngine_cpc (e : Nat) (m : Option Meas) : (setEngine e m s).cpc = s.cpc := rfl
@[simp] theorem setEngine_fau (e : Nat) (m : Option Meas) : (setEngine e m s).fau = s.fau := rfl
@[simp] theorem setEngine_dlu (e : Nat) (m : Option Meas) : (setEngine e m s).dlu = s.dlu := rfl

/-! ### setOutcome -/

@[simp] theorem setOutcome_pending (o : CouplingOutcome) : (setOutcome o s).pending = s.pending := rfl
@[simp] theorem setOutcome_clock (o : CouplingOutcome) : (setOutcome o s).clock = s.clock := rfl
@[simp] theorem setOutcome_draws (o : CouplingOutcome) : (setOutcome o s).draws = s.draws := rfl
@[simp] theorem setOutcome_cfg (o : CouplingOutcome) : (setOutcome o s).cfg = s.cfg := rfl
@[simp] theorem setOutcome_svp (o : CouplingOutcome) : (setOutcome o s).svp = s.svp := rfl
@[simp] theorem setOutcome_lif (o : CouplingOutcome) : (setOutcome o s).lif = s.lif := rfl
@[simp] theorem setOutcome_cvu (o : CouplingOutcome) : (setOutcome o s).cvu = s.cvu := rfl
@[simp] theorem setOutcome_shu (o : CouplingOutcome) : (setOutcome o s).shu = s.shu := rfl
@[simp] theorem setOutcome_sfc (o : CouplingOutcome) : (setOutcome o s).sfc = s.sfc := rfl
@[simp] theorem setOutcome_stc (o : CouplingOutcome) : (setOutcome o s).stc = s.stc := rfl
@[simp] theorem setOutcome_fau (o : CouplingOutcome) : (setOutcome o s).fau = s.fau := rfl
@[simp] theorem setOutcome_pgu (o : CouplingOutcome) : (setOutcome o s).pgu = s.pgu := rfl
@[simp] theorem setOutcome_dlu (o : CouplingOutcome) : (setOutcome o s).dlu = s.dlu := rfl

/-! ### setMode -/

@[simp] theorem setMode_pending (m : Mode) (j : Option Nat) : (setMode m j s).pending = s.pending := rfl
@[simp] theorem setMode_clock (m : Mode) (j : Option Nat) : (setMode m j s).clock = s.clock := rfl
@[simp] theorem setMode_draws (m : Mode) (j : Option Nat) : (setMode m j s).draws = s.draws := rfl
@[simp] theorem setMode_cfg (m : Mode) (j : Option Nat) : (setMode m j s).cfg = s.cfg := rfl
@[simp] theorem setMode_lif (m : Mode) (j : Option Nat) : (setMode m j s).lif = s.lif := rfl
@[simp] theorem setMode_cvu (m : Mode) (j : Option Nat) : (setMode m j s).cvu = s.cvu := rfl
@[simp] theorem setMode_shu (m : Mode) (j : Option Nat) : (setMode m j s).shu = s.shu := rfl
@[simp] theorem setMode_sfc (m : Mode) (j : Option Nat) : (setMode m j s).sfc = s.sfc := rfl
@[simp] theorem setMode_stc (m : Mode) (j : Option Nat) : (setMode m j s).stc = s.stc := rfl
@[simp] theorem setMode_cpc (m : Mode) (j : Option Nat) : (setMode m j s).cpc = s.cpc := rfl
@[simp] theorem setMode_fau (m : Mode) (j : Option Nat) : (setMode m j s).fau = s.fau := rfl
@[simp] theorem setMode_pgu (m : Mode) (j : Option Nat) : (setMode m j s).pgu = s.pgu := rfl
@[simp] theorem setMode_dlu (m : Mode) (j : Option Nat) : (setMode m j s).dlu = s.dlu := rfl
@[simp] theorem setMode_startCause (m : Mode) (j : Option Nat) : (setMode m j s).svp.startCause = s.svp.startCause := rfl
@[simp] theorem setMode_straps (m : Mode) (j : Option Nat) : (setMode m j s).svp.straps = s.svp.straps := rfl
@[simp] theorem setMode_reply (m : Mode) (j : Option Nat) : (setMode m j s).svp.reply = s.svp.reply := rfl
@[simp] theorem setMode_panel (m : Mode) (j : Option Nat) : (setMode m j s).svp.panel = s.svp.panel := rfl
@[simp] theorem setMode_panelState (m : Mode) (j : Option Nat) : (setMode m j s).svp.panelState = s.svp.panelState := rfl
@[simp] theorem setMode_panelAt (m : Mode) (j : Option Nat) : (setMode m j s).svp.panelAt = s.svp.panelAt := rfl
@[simp] theorem setMode_flags (m : Mode) (j : Option Nat) : (setMode m j s).svp.flags = s.svp.flags := rfl
@[simp] theorem setMode_image (m : Mode) (j : Option Nat) : (setMode m j s).svp.image = s.svp.image := rfl

/-! ### setClaim -/

@[simp] theorem setClaim_pending (c : Claim) (h : Option Nat) : (setClaim c h s).pending = s.pending := rfl
@[simp] theorem setClaim_clock (c : Claim) (h : Option Nat) : (setClaim c h s).clock = s.clock := rfl
@[simp] theorem setClaim_draws (c : Claim) (h : Option Nat) : (setClaim c h s).draws = s.draws := rfl
@[simp] theorem setClaim_cfg (c : Claim) (h : Option Nat) : (setClaim c h s).cfg = s.cfg := rfl
@[simp] theorem setClaim_svp (c : Claim) (h : Option Nat) : (setClaim c h s).svp = s.svp := rfl
@[simp] theorem setClaim_lif (c : Claim) (h : Option Nat) : (setClaim c h s).lif = s.lif := rfl
@[simp] theorem setClaim_shu (c : Claim) (h : Option Nat) : (setClaim c h s).shu = s.shu := rfl
@[simp] theorem setClaim_sfc (c : Claim) (h : Option Nat) : (setClaim c h s).sfc = s.sfc := rfl
@[simp] theorem setClaim_stc (c : Claim) (h : Option Nat) : (setClaim c h s).stc = s.stc := rfl
@[simp] theorem setClaim_cpc (c : Claim) (h : Option Nat) : (setClaim c h s).cpc = s.cpc := rfl
@[simp] theorem setClaim_fau (c : Claim) (h : Option Nat) : (setClaim c h s).fau = s.fau := rfl
@[simp] theorem setClaim_pgu (c : Claim) (h : Option Nat) : (setClaim c h s).pgu = s.pgu := rfl
@[simp] theorem setClaim_dlu (c : Claim) (h : Option Nat) : (setClaim c h s).dlu = s.dlu := rfl

/-! ### stcNotice -/

@[simp] theorem stcNotice_pending : (stcNotice s).pending = s.pending := rfl
@[simp] theorem stcNotice_clock : (stcNotice s).clock = s.clock := rfl
@[simp] theorem stcNotice_draws : (stcNotice s).draws = s.draws := rfl
@[simp] theorem stcNotice_cfg : (stcNotice s).cfg = s.cfg := rfl
@[simp] theorem stcNotice_svp : (stcNotice s).svp = s.svp := rfl
@[simp] theorem stcNotice_lif : (stcNotice s).lif = s.lif := rfl
@[simp] theorem stcNotice_cvu : (stcNotice s).cvu = s.cvu := rfl
@[simp] theorem stcNotice_shu : (stcNotice s).shu = s.shu := rfl
@[simp] theorem stcNotice_sfc : (stcNotice s).sfc = s.sfc := rfl
@[simp] theorem stcNotice_cpc : (stcNotice s).cpc = s.cpc := rfl
@[simp] theorem stcNotice_fau : (stcNotice s).fau = s.fau := rfl
@[simp] theorem stcNotice_pgu : (stcNotice s).pgu = s.pgu := rfl
@[simp] theorem stcNotice_dlu : (stcNotice s).dlu = s.dlu := rfl

/-! ### fuelTotals -/

@[simp] theorem fuelTotals_pending : (fuelTotals s).pending = s.pending := rfl
@[simp] theorem fuelTotals_clock : (fuelTotals s).clock = s.clock := rfl
@[simp] theorem fuelTotals_draws : (fuelTotals s).draws = s.draws := rfl
@[simp] theorem fuelTotals_cfg : (fuelTotals s).cfg = s.cfg := rfl
@[simp] theorem fuelTotals_svp : (fuelTotals s).svp = s.svp := rfl
@[simp] theorem fuelTotals_lif : (fuelTotals s).lif = s.lif := rfl
@[simp] theorem fuelTotals_cvu : (fuelTotals s).cvu = s.cvu := rfl
@[simp] theorem fuelTotals_shu : (fuelTotals s).shu = s.shu := rfl
@[simp] theorem fuelTotals_sfc : (fuelTotals s).sfc = s.sfc := rfl
@[simp] theorem fuelTotals_stc : (fuelTotals s).stc = s.stc := rfl
@[simp] theorem fuelTotals_cpc : (fuelTotals s).cpc = s.cpc := rfl
@[simp] theorem fuelTotals_pgu : (fuelTotals s).pgu = s.pgu := rfl
@[simp] theorem fuelTotals_dlu : (fuelTotals s).dlu = s.dlu := rfl

/-! ### keepSums -/

@[simp] theorem keepSums_pending : (keepSums s).pending = s.pending := rfl
@[simp] theorem keepSums_clock : (keepSums s).clock = s.clock := rfl
@[simp] theorem keepSums_draws : (keepSums s).draws = s.draws := rfl
@[simp] theorem keepSums_cfg : (keepSums s).cfg = s.cfg := rfl
@[simp] theorem keepSums_svp : (keepSums s).svp = s.svp := rfl
@[simp] theorem keepSums_lif : (keepSums s).lif = s.lif := rfl
@[simp] theorem keepSums_shu : (keepSums s).shu = s.shu := rfl
@[simp] theorem keepSums_sfc : (keepSums s).sfc = s.sfc := rfl
@[simp] theorem keepSums_stc : (keepSums s).stc = s.stc := rfl
@[simp] theorem keepSums_cpc : (keepSums s).cpc = s.cpc := rfl
@[simp] theorem keepSums_fau : (keepSums s).fau = s.fau := rfl
@[simp] theorem keepSums_pgu : (keepSums s).pgu = s.pgu := rfl
@[simp] theorem keepSums_dlu : (keepSums s).dlu = s.dlu := rfl

/-! ### writeEntry -/

@[simp] theorem writeEntry_pending (m : Nat → Nat → Entry) : (writeEntry m s).pending = s.pending := rfl
@[simp] theorem writeEntry_clock (m : Nat → Nat → Entry) : (writeEntry m s).clock = s.clock := rfl
@[simp] theorem writeEntry_draws (m : Nat → Nat → Entry) : (writeEntry m s).draws = s.draws := rfl
@[simp] theorem writeEntry_cfg (m : Nat → Nat → Entry) : (writeEntry m s).cfg = s.cfg := rfl
@[simp] theorem writeEntry_svp (m : Nat → Nat → Entry) : (writeEntry m s).svp = s.svp := rfl
@[simp] theorem writeEntry_lif (m : Nat → Nat → Entry) : (writeEntry m s).lif = s.lif := rfl
@[simp] theorem writeEntry_cvu (m : Nat → Nat → Entry) : (writeEntry m s).cvu = s.cvu := rfl
@[simp] theorem writeEntry_shu (m : Nat → Nat → Entry) : (writeEntry m s).shu = s.shu := rfl
@[simp] theorem writeEntry_sfc (m : Nat → Nat → Entry) : (writeEntry m s).sfc = s.sfc := rfl
@[simp] theorem writeEntry_stc (m : Nat → Nat → Entry) : (writeEntry m s).stc = s.stc := rfl
@[simp] theorem writeEntry_cpc (m : Nat → Nat → Entry) : (writeEntry m s).cpc = s.cpc := rfl
@[simp] theorem writeEntry_pgu (m : Nat → Nat → Entry) : (writeEntry m s).pgu = s.pgu := rfl
@[simp] theorem writeEntry_dlu (m : Nat → Nat → Entry) : (writeEntry m s).dlu = s.dlu := rfl

/-! ### writeImage -/

@[simp] theorem writeImage_pending (o : Nat) (d : List Byte) : (writeImage o d s).pending = s.pending := rfl
@[simp] theorem writeImage_clock (o : Nat) (d : List Byte) : (writeImage o d s).clock = s.clock := rfl
@[simp] theorem writeImage_draws (o : Nat) (d : List Byte) : (writeImage o d s).draws = s.draws := rfl
@[simp] theorem writeImage_cfg (o : Nat) (d : List Byte) : (writeImage o d s).cfg = s.cfg := rfl
@[simp] theorem writeImage_lif (o : Nat) (d : List Byte) : (writeImage o d s).lif = s.lif := rfl
@[simp] theorem writeImage_cvu (o : Nat) (d : List Byte) : (writeImage o d s).cvu = s.cvu := rfl
@[simp] theorem writeImage_shu (o : Nat) (d : List Byte) : (writeImage o d s).shu = s.shu := rfl
@[simp] theorem writeImage_sfc (o : Nat) (d : List Byte) : (writeImage o d s).sfc = s.sfc := rfl
@[simp] theorem writeImage_stc (o : Nat) (d : List Byte) : (writeImage o d s).stc = s.stc := rfl
@[simp] theorem writeImage_cpc (o : Nat) (d : List Byte) : (writeImage o d s).cpc = s.cpc := rfl
@[simp] theorem writeImage_fau (o : Nat) (d : List Byte) : (writeImage o d s).fau = s.fau := rfl
@[simp] theorem writeImage_pgu (o : Nat) (d : List Byte) : (writeImage o d s).pgu = s.pgu := rfl
@[simp] theorem writeImage_dlu (o : Nat) (d : List Byte) : (writeImage o d s).dlu = s.dlu := rfl
@[simp] theorem writeImage_mode (o : Nat) (d : List Byte) : (writeImage o d s).svp.mode = s.svp.mode := rfl
@[simp] theorem writeImage_startCause (o : Nat) (d : List Byte) : (writeImage o d s).svp.startCause = s.svp.startCause := rfl
@[simp] theorem writeImage_straps (o : Nat) (d : List Byte) : (writeImage o d s).svp.straps = s.svp.straps := rfl
@[simp] theorem writeImage_reply (o : Nat) (d : List Byte) : (writeImage o d s).svp.reply = s.svp.reply := rfl
@[simp] theorem writeImage_panel (o : Nat) (d : List Byte) : (writeImage o d s).svp.panel = s.svp.panel := rfl
@[simp] theorem writeImage_panelState (o : Nat) (d : List Byte) : (writeImage o d s).svp.panelState = s.svp.panelState := rfl
@[simp] theorem writeImage_panelAt (o : Nat) (d : List Byte) : (writeImage o d s).svp.panelAt = s.svp.panelAt := rfl
@[simp] theorem writeImage_flags (o : Nat) (d : List Byte) : (writeImage o d s).svp.flags = s.svp.flags := rfl
@[simp] theorem writeImage_joinAt (o : Nat) (d : List Byte) : (writeImage o d s).svp.joinAt = s.svp.joinAt := rfl

/-! ### stopTransmitter -/

@[simp] theorem stopTransmitter_pending : (stopTransmitter s).pending = s.pending := rfl
@[simp] theorem stopTransmitter_clock : (stopTransmitter s).clock = s.clock := rfl
@[simp] theorem stopTransmitter_draws : (stopTransmitter s).draws = s.draws := rfl
@[simp] theorem stopTransmitter_cfg : (stopTransmitter s).cfg = s.cfg := rfl
@[simp] theorem stopTransmitter_svp : (stopTransmitter s).svp = s.svp := rfl
@[simp] theorem stopTransmitter_cvu : (stopTransmitter s).cvu = s.cvu := rfl
@[simp] theorem stopTransmitter_shu : (stopTransmitter s).shu = s.shu := rfl
@[simp] theorem stopTransmitter_sfc : (stopTransmitter s).sfc = s.sfc := rfl
@[simp] theorem stopTransmitter_stc : (stopTransmitter s).stc = s.stc := rfl
@[simp] theorem stopTransmitter_cpc : (stopTransmitter s).cpc = s.cpc := rfl
@[simp] theorem stopTransmitter_fau : (stopTransmitter s).fau = s.fau := rfl
@[simp] theorem stopTransmitter_pgu : (stopTransmitter s).pgu = s.pgu := rfl
@[simp] theorem stopTransmitter_dlu : (stopTransmitter s).dlu = s.dlu := rfl

/-! ### frameSeen -/

@[simp] theorem frameSeen_pending : (frameSeen s).pending = s.pending := rfl
@[simp] theorem frameSeen_clock : (frameSeen s).clock = s.clock := rfl
@[simp] theorem frameSeen_draws : (frameSeen s).draws = s.draws := rfl
@[simp] theorem frameSeen_cfg : (frameSeen s).cfg = s.cfg := rfl
@[simp] theorem frameSeen_svp : (frameSeen s).svp = s.svp := rfl
@[simp] theorem frameSeen_cvu : (frameSeen s).cvu = s.cvu := rfl
@[simp] theorem frameSeen_shu : (frameSeen s).shu = s.shu := rfl
@[simp] theorem frameSeen_sfc : (frameSeen s).sfc = s.sfc := rfl
@[simp] theorem frameSeen_stc : (frameSeen s).stc = s.stc := rfl
@[simp] theorem frameSeen_cpc : (frameSeen s).cpc = s.cpc := rfl
@[simp] theorem frameSeen_fau : (frameSeen s).fau = s.fau := rfl
@[simp] theorem frameSeen_pgu : (frameSeen s).pgu = s.pgu := rfl
@[simp] theorem frameSeen_dlu : (frameSeen s).dlu = s.dlu := rfl

/-! ### What an update sets -/

@[simp] theorem setClock_clock (t : Nat) : (setClock t s).clock = max s.clock t := rfl
@[simp] theorem replyOk_reply (d : List Byte) :
    (replyOk d s).svp.reply = { status := .ok, reason := none, data := d } := rfl
@[simp] theorem refuse_reply (r : Reason) :
    (refuse r s).svp.reply = { status := .refused, reason := some r, data := [] } := rfl
@[simp] theorem refuseWith_reply (r : Reason) (d : List Byte) :
    (refuseWith r d s).svp.reply = { status := .refused, reason := some r, data := d } := rfl
@[simp] theorem replyStatus_reply (a : Status) :
    (replyStatus a s).svp.reply = { status := a, reason := none, data := [] } := rfl
@[simp] theorem raiseFlag_flags (f : Flag) :
    (raiseFlag f s).svp.flags = s.svp.flags ||| BitVec.ofNat 14 (2 ^ flagBit f) := rfl
@[simp] theorem clearFlags_flags (m : BitVec 16) :
    (clearFlags m s).svp.flags = s.svp.flags &&& ~~~(m.setWidth 14) := rfl
@[simp] theorem setMode_mode (m : Mode) (j : Option Nat) : (setMode m j s).svp.mode = m := rfl
@[simp] theorem setMode_joinAt (m : Mode) (j : Option Nat) : (setMode m j s).svp.joinAt = j := rfl
@[simp] theorem setClaim_claim (c : Claim) (h : Option Nat) : (setClaim c h s).cvu.claim = c := rfl
@[simp] theorem setClaim_helmAt (c : Claim) (h : Option Nat) : (setClaim c h s).cvu.helmAt = h := rfl
@[simp] theorem setOutcome_outcome (o : CouplingOutcome) : (setOutcome o s).cpc.outcome = o := rfl
@[simp] theorem modShaft_sfc (n : Nat) (f : Shaft → Shaft) : (modShaft n f s).sfc = modN s.sfc n f := rfl
@[simp] theorem modRudder_rudders (n : Nat) (f : Rudder → Rudder) :
    (modRudder n f s).stc.rudders = modN s.stc.rudders n f := rfl
@[simp] theorem modWinch_winches (n : Nat) (f : Winch → Winch) :
    (modWinch n f s).cpc.winches = modN s.cpc.winches n f := rfl
@[simp] theorem modTank_tanks (n : Nat) (f : Tank → Tank) : (modTank n f s).fau.tanks = modN s.fau.tanks n f := rfl
@[simp] theorem modBurn_burns (n : Nat) (f : Burn → Burn) : (modBurn n f s).fau.burns = modN s.fau.burns n f := rfl
@[simp] theorem modChan_chans (n : Nat) (f : Chan → Chan) : (modChan n f s).pgu.chans = modN s.pgu.chans n f := rfl
@[simp] theorem setEngine_engines (e : Nat) (m : Option Meas) :
    (setEngine e m s).pgu.engines = modN s.pgu.engines e fun _ => m := rfl
@[simp] theorem writeImage_image (o : Nat) (d : List Byte) :
    (writeImage o d s).svp.image = imageWrite s.svp.image o d := rfl

/-! ### The timebase -/

theorem now_of_clock {s t : State} (h : t.clock = s.clock) : t.now = s.now := by simp [State.now, h]

end Sys2Proof.Machine
end

