-- ==== Sys2Proof/Laws/Lists.lean ====
section
/-!
SUPPORT. The operations on lists of records: what `getN` reads after `modN`, lengths, folds, and the numbers 1 to n.
-/

namespace Sys2Proof.Machine

variable {α β : Type}

@[simp] theorem getN_zero (l : List α) : getN l 0 = none := rfl

@[simp] theorem getN_succ (l : List α) (n : Nat) : getN l (n + 1) = l[n]? := rfl

theorem changeAt_eq_modify (f : α → α) (i : Nat) (l : List α) : changeAt f i l = l.modify i f := by
  induction l generalizing i with
  | nil => cases i <;> rfl
  | cons x xs ih => cases i <;> simp [changeAt, ih]

@[simp] theorem modN_length (l : List α) (n : Nat) (f : α → α) : (modN l n f).length = l.length := by
  cases n <;> simp [modN, changeAt_eq_modify]

/-- Reading item `m` after item `n` has been changed. -/
theorem getN_modN (l : List α) (n m : Nat) (f : α → α) :
    getN (modN l n f) m = if n = m then (getN l m).map f else getN l m := by
  cases n with
  | zero => cases m <;> simp [modN, getN]
  | succ i =>
    cases m with
    | zero => simp [getN]
    | succ j =>
      simp only [modN, changeAt_eq_modify, getN_succ, List.getElem?_modify, Nat.succ_inj]
      split <;> simp [*]

@[simp] theorem getN_modN_self (l : List α) (n : Nat) (f : α → α) : getN (modN l n f) n = (getN l n).map f := by
  simp [getN_modN]

theorem getN_modN_ne {n m : Nat} (h : n ≠ m) (l : List α) (f : α → α) : getN (modN l n f) m = getN l m := by
  simp [getN_modN, h]

/-- A change that a view does not see leaves the view as it was. -/
theorem map_modN (g : α → β) (f : α → α) (h : ∀ x, g (f x) = g x) (l : List α) (n : Nat) :
    (modN l n f).map g = l.map g := by
  cases n with
  | zero => rfl
  | succ i =>
    simp only [modN]
    induction l generalizing i with
    | nil => cases i <;> rfl
    | cons x xs ih => cases i <;> simp [changeAt, h, ih]

/-- An item read is a member, and every member is read at some number. -/
theorem mem_of_getN {l : List α} {n : Nat} {x : α} (h : getN l n = some x) : x ∈ l := by
  cases n with
  | zero => cases h
  | succ i => exact List.mem_of_getElem? h

theorem getN_lt {l : List α} {n : Nat} {x : α} (h : getN l n = some x) : 1 ≤ n ∧ n ≤ l.length := by
  cases n with
  | zero => cases h
  | succ i =>
    have := (List.getElem?_eq_some_iff.1 h).1
    omega

/-- A relation that every step of a fold keeps holds between its ends. -/
theorem foldl_keeps {σ : Type} {R : σ → σ → Prop} (refl : ∀ s, R s s) (trans : ∀ {a b c}, R a b → R b c → R a c)
    {f : σ → α → σ} (h : ∀ s x, R s (f s x)) (l : List α) (s : σ) : R s (l.foldl f s) := by
  induction l generalizing s with
  | nil => exact refl s
  | cons x xs ih => exact trans (h s x) (ih _)

/-- A relation that a function keeps holds after any number of its repetitions. -/
theorem repeat_keeps {σ : Type} {R : σ → σ → Prop} (refl : ∀ s, R s s) (trans : ∀ {a b c}, R a b → R b c → R a c)
    {f : σ → σ} (h : ∀ s, R s (f s)) (n : Nat) (s : σ) : R s (Nat.repeat f n s) := by
  induction n with
  | zero => exact refl s
  | succ k ih => exact trans ih (h _)

/-- The number found satisfies the test, and no earlier one does. -/
theorem findFrom_some {p : α → Bool} {n m : Nat} {l : List α} (h : findFrom p n l = some m) :
    ∃ i x, m = n + i ∧ l[i]? = some x ∧ p x = true := by
  induction l generalizing n with
  | nil => cases h
  | cons y ys ih =>
    unfold findFrom at h
    split at h
    · cases h
      exact ⟨0, y, rfl, rfl, ‹_›⟩
    · obtain ⟨i, x, rfl, hx, hp⟩ := ih h
      exact ⟨i + 1, x, by omega, by simpa using hx, hp⟩

/-- `findN` names an item that satisfies the test. -/
theorem findN_some {p : α → Bool} {m : Nat} {l : List α} (h : findN p l = some m) :
    ∃ x, getN l m = some x ∧ p x = true := by
  obtain ⟨i, x, rfl, hx, hp⟩ := findFrom_some h
  exact ⟨x, by simpa [Nat.add_comm 1 i] using hx, hp⟩

/-- `findN` finds an item where there is one. -/
theorem findFrom_isSome {p : α → Bool} {l : List α} {x : α} (hx : x ∈ l) (hp : p x = true) (n : Nat) :
    ∃ m, findFrom p n l = some m := by
  induction l generalizing n with
  | nil => cases hx
  | cons y ys ih =>
    unfold findFrom
    split
    · exact ⟨n, rfl⟩
    · rcases List.mem_cons.1 hx with rfl | h
      · contradiction
      · exact ih h _

end Sys2Proof.Machine
end

