-- ==== Sys2Proof/Laws/Image.lean ====
section
/-!
SUPPORT. The configuration image (R189, R201): a read after a write, and that every write keeps the canonical form.
-/

namespace Sys2Proof.Machine

/-- In an image whose addresses are all at least `lo`, an address below reads as the unlisted byte. -/
theorem imageRead_below {lo : Nat} {m : List Host.Cell} (h : imageOrdered lo m = true) {a : Nat} (ha : a < lo) :
    imageRead m a = unlistedByte := by
  induction m generalizing lo with
  | nil => rfl
  | cons c cs ih =>
    obtain ⟨k, b⟩ := c
    simp only [imageOrdered, Bool.and_eq_true, decide_eq_true_eq] at h
    simp only [imageRead]
    rw [if_neg (by omega)]
    exact ih h.2 (by omega)

/-- Reading a byte after one byte has been replaced. -/
theorem imageRead_imagePut {lo : Nat} {m : List Host.Cell} (h : imageOrdered lo m = true) (a : Nat) (b : Byte) (x : Nat) :
    imageRead (imagePut m a b) x = if x = a then b else imageRead m x := by
  induction m generalizing lo with
  | nil =>
    unfold imagePut
    split
    · rename_i e
      simp [imageRead, e]
    · simp only [imageRead, eq_comm]
  | cons c cs ih =>
    obtain ⟨k, d⟩ := c
    simp only [imageOrdered, Bool.and_eq_true, decide_eq_true_eq] at h
    have below : ∀ y, y ≤ k → imageRead cs y = unlistedByte := fun y hy => imageRead_below h.2 (by omega)
    unfold imagePut
    by_cases h1 : a < k
    · simp only [h1, if_true]
      split
      · rename_i e
        by_cases hx : x = a
        · subst hx
          simp [imageRead, e, show ¬ k = x by omega, below x (by omega)]
        · simp [hx]
      · by_cases hx : x = a
        · simp [imageRead, hx]
        · simp [imageRead, hx, Ne.symm hx]
    · by_cases h2 : a = k
      · subst h2
        simp only [lt_irrefl, if_false, if_true]
        split
        · rename_i e
          by_cases hx : x = a
          · subst hx
            simp [e, below x le_rfl]
          · simp [imageRead, hx, Ne.symm hx]
        · by_cases hx : x = a
          · simp [imageRead, hx]
          · simp [imageRead, hx, Ne.symm hx]
      · simp only [h1, h2, if_false, imageRead]
        by_cases hk : k = x
        · simp [hk, show x ≠ a by omega]
        · simp only [hk, if_false]
          exact ih h.2

/-- Replacing a byte keeps the canonical order. -/
theorem imagePut_ordered {lo : Nat} {m : List Host.Cell} (h : imageOrdered lo m = true) {a : Nat} (ha : lo ≤ a)
    (b : Byte) : imageOrdered lo (imagePut m a b) = true := by
  induction m generalizing lo with
  | nil =>
    unfold imagePut
    split
    · rfl
    · rename_i hb
      simp [imageOrdered, ha, hb]
  | cons c cs ih =>
    obtain ⟨k, d⟩ := c
    have h0 := h
    simp only [imageOrdered, Bool.and_eq_true, decide_eq_true_eq] at h
    obtain ⟨⟨hk, hd⟩, ho⟩ := h
    have weak : ∀ {l l' : Nat} {z : List Host.Cell}, l ≤ l' → imageOrdered l' z = true → imageOrdered l z = true := by
      intro l l' z hl hz
      cases z with
      | nil => rfl
      | cons y ys =>
        simp only [imageOrdered, Bool.and_eq_true, decide_eq_true_eq] at hz ⊢
        exact ⟨⟨hl.trans hz.1.1, hz.1.2⟩, hz.2⟩
    unfold imagePut
    split
    · split
      · exact h0
      · rename_i hlt hb
        simp only [imageOrdered, Bool.and_eq_true, decide_eq_true_eq]
        exact ⟨⟨ha, hb⟩, ⟨by omega, hd⟩, ho⟩
    · split
      · rename_i e
        subst e
        split
        · exact weak (by omega) ho
        · rename_i hb
          simp only [imageOrdered, Bool.and_eq_true, decide_eq_true_eq]
          exact ⟨⟨hk, hb⟩, ho⟩
      · simp only [imageOrdered, Bool.and_eq_true, decide_eq_true_eq]
        exact ⟨⟨hk, hd⟩, ih ho (by omega)⟩

theorem imagePut_bound {m : List Host.Cell} {n a : Nat} (h : (m.all fun c => decide (c.1 < n)) = true) (ha : a < n)
    (b : Byte) : ((imagePut m a b).all fun c => decide (c.1 < n)) = true := by
  induction m with
  | nil =>
    unfold imagePut
    split <;> simp [ha]
  | cons c cs ih =>
    obtain ⟨k, d⟩ := c
    simp only [List.all_cons, Bool.and_eq_true] at h
    have hd : decide (a < n) = true := by simp [ha]
    unfold imagePut
    split
    · split <;> simp only [List.all_cons, Bool.and_eq_true]
      · exact h
      · exact ⟨hd, h⟩
    · split
      · split
        · exact h.2
        · simp only [List.all_cons, Bool.and_eq_true]
          exact ⟨hd, h.2⟩
      · simp only [List.all_cons, Bool.and_eq_true]
        exact ⟨h.1, ih h.2⟩

/-- Replacing a byte inside the image keeps its canonical form. -/
theorem imagePut_wf {m : List Host.Cell} (h : imageWf m = true) {a : Nat} (ha : a < Config.imageLength) (b : Byte) :
    imageWf (imagePut m a b) = true := by
  simp only [imageWf, Bool.and_eq_true] at h ⊢
  exact ⟨imagePut_ordered h.1 (Nat.zero_le _) b, imagePut_bound h.2 ha b⟩

/-- Writing bytes that fit in the image keeps its canonical form (R189). -/
theorem imageWrite_wf {m : List Host.Cell} (h : imageWf m = true) (bs : List Byte) {a : Nat}
    (ha : a + bs.length ≤ Config.imageLength) : imageWf (imageWrite m a bs) = true := by
  induction bs generalizing m a with
  | nil => exact h
  | cons b bs ih =>
    simp only [List.length_cons] at ha
    exact ih (imagePut_wf h (by omega) b) (by omega)

/-- The image after reset is in canonical form. -/
theorem reset_image_wf : imageWf State.reset.svp.image = true := rfl

end Sys2Proof.Machine
end

