-- ==== Sys2Proof/Laws/Pairs.lean ====
section
/-!
SUPPORT. Complementary pairs of drive lines (R156 to R160): partners are mutual, and writes and period starts keep every
pair in order.
-/

namespace Sys2Proof.Machine

/-- Every pair of a list of lines is in order. -/
def PairLines (cfg : Cfg) (lines : List Line) : Prop :=
  ∀ n p a b, partnerLine n cfg = some p → getN lines n = some a → getN lines p = some b → PairOk cfg n p a b

/-- What a line carries and what its overrides have come to: the fields only a period start changes. -/
def carried (l : Line) : Option Nat × Option Nat × Nat := (l.applied, l.offTime, l.overrides)

/-! ## Partners -/

theorem partnerOf_partnerOf {a b : Assignment} (h : partnerOf a = some b) :
    partnerOf b = some a ∧ b ≠ a ∧ b ≠ .unused := by
  cases a <;> simp_all [partnerOf] <;> subst h <;> simp

theorem lineOf_spec {a : Assignment} {cfg : Cfg} {m : Nat} (h : lineOf a cfg = some m) :
    ∃ c, getN cfg.lines m = some c ∧ c.assignment = a := by
  obtain ⟨c, hc, hp⟩ := findN_some h
  exact ⟨c, hc, by simpa using hp⟩

theorem partnerLine_spec {n p : Nat} {cfg : Cfg} (h : partnerLine n cfg = some p) :
    ∃ c d, getN cfg.lines n = some c ∧ getN cfg.lines p = some d ∧ partnerOf c.assignment = some d.assignment := by
  unfold partnerLine at h
  split at h
  · split at h
    · obtain ⟨d, hd, e⟩ := lineOf_spec h
      exact ⟨_, d, ‹_›, hd, by simp [*]⟩
    · cases h
  · cases h

/-- A line is not its own partner. -/
theorem partner_ne {n p : Nat} {cfg : Cfg} (h : partnerLine n cfg = some p) : n ≠ p := by
  rintro rfl
  obtain ⟨c, d, hc, hd, he⟩ := partnerLine_spec h
  obtain rfl : c = d := Option.some.inj (hc.symm.trans hd)
  exact (partnerOf_partnerOf he).2.1 rfl

/-- The partner of a line's partner is the line, where no assignment is given twice (R156). -/
theorem partner_symm {n p : Nat} {cfg : Cfg} (u : AssignedOnce cfg) (h : partnerLine n cfg = some p) :
    partnerLine p cfg = some n := by
  obtain ⟨c, d, hc, hd, he⟩ := partnerLine_spec h
  obtain ⟨hs, -, -⟩ := partnerOf_partnerOf he
  obtain ⟨m, hm⟩ := findFrom_isSome (p := fun l : LineCfg => decide (l.assignment = c.assignment)) (mem_of_getN hc)
    (by simp) 1
  have hl : lineOf c.assignment cfg = some m := hm
  obtain ⟨x, hx, hxa⟩ := lineOf_spec hl
  have hc0 : c.assignment ≠ .unused := by
    intro e
    simp [e, partnerOf] at he
  have hmn : m = n := u m n x c hx hc hxa (by rw [hxa]; exact hc0)
  simp [partnerLine, hd, hs, hl, hmn]

/-- One line belongs to one pair. -/
theorem partner_unique {n p q : Nat} {cfg : Cfg} (h : partnerLine n cfg = some p) (h' : partnerLine n cfg = some q) :
    p = q := Option.some.inj (h.symm.trans h')

/-! ## One pair at a time -/

/-- A pair is in order both ways round. -/
def BothOk (cfg : Cfg) (n p : Nat) (a b : Line) : Prop := PairOk cfg n p a b ∧ PairOk cfg p n b a

/-- Two lines of a pair are rewritten: the pairs are in order if the new pair is. -/
theorem PairLines.two {cfg : Cfg} {lines lines' : List Line} {n p : Nat} (u : AssignedOnce cfg)
    (h : PairLines cfg lines) (hp : partnerLine n cfg = some p)
    (same : ∀ m, m ≠ n → m ≠ p → getN lines' m = getN lines m)
    (ok : ∀ a b, getN lines' n = some a → getN lines' p = some b → BothOk cfg n p a b) : PairLines cfg lines' := by
  intro m q a b hq ha hb
  have hs := partner_symm u hp
  by_cases e1 : m = n
  · subst e1
    obtain rfl := partner_unique hp hq
    exact (ok a b ha hb).1
  · by_cases e2 : m = p
    · subst e2
      obtain rfl := partner_unique hs hq
      exact (ok b a hb ha).2
    · have hq' := partner_symm u hq
      have e3 : q ≠ n := fun e => e2 (partner_unique (e ▸ hq') hp)
      have e4 : q ≠ p := fun e => e1 (partner_unique (e ▸ hq') hs)
      rw [same m e1 e2] at ha
      rw [same q e3 e4] at hb
      exact h m q a b hq ha hb

/-- A line without a partner is rewritten. -/
theorem PairLines.unpaired {cfg : Cfg} {lines lines' : List Line} {n : Nat} (u : AssignedOnce cfg)
    (h : PairLines cfg lines) (hn : partnerLine n cfg = none)
    (same : ∀ m, m ≠ n → getN lines' m = getN lines m) : PairLines cfg lines' := by
  intro m q a b hq ha hb
  have e1 : m ≠ n := by
    rintro rfl
    simp [hn] at hq
  have e2 : q ≠ n := by
    rintro rfl
    simp [partner_symm u hq] at hn
  exact h m q a b hq (same m e1 ▸ ha) (same q e2 ▸ hb)

theorem PairLines.both {cfg : Cfg} {lines : List Line} {n p : Nat} {a b : Line} (u : AssignedOnce cfg)
    (h : PairLines cfg lines) (hp : partnerLine n cfg = some p) (ha : getN lines n = some a)
    (hb : getN lines p = some b) : BothOk cfg n p a b :=
  ⟨h n p a b hp ha hb, h p n b a (partner_symm u hp) hb ha⟩

/-! ## Writes (R158, R160) -/

@[simp] theorem cancelPending_carried (l : Line) : carried (cancelPending l) = carried l := by
  unfold cancelPending
  split <;> rfl

@[simp] theorem takeWrite_carried (e : Bool) (d : Nat) (l : Line) : carried (takeWrite e d l) = carried l := by
  cases e <;> rfl

@[simp] theorem takeWrite_applied (e : Bool) (d : Nat) (l : Line) : (takeWrite e d l).applied = l.applied := by
  cases e <;> rfl

@[simp] theorem cancelPending_applied (l : Line) : (cancelPending l).applied = l.applied := by
  unfold cancelPending
  split <;> rfl

/-- Whether a line is driven depends on its applied duty alone. -/
theorem lineDriven_congr {n : Nat} {cfg : Cfg} {a b : Line} (h : a.applied = b.applied) :
    lineDriven n cfg a = lineDriven n cfg b := by simp [lineDriven, appliedAbove0, h]

/-- A write changes no applied duty, off time or override count (R158). -/
theorem writeLines_carried (cfg : Cfg) (n d : Nat) (lines : List Line) :
    (writeLines cfg n d lines).map carried = lines.map carried := by
  unfold writeLines
  split
  · split
    · rw [map_modN _ _ cancelPending_carried, map_modN _ _ (takeWrite_carried _ _)]
    · exact map_modN _ _ (takeWrite_carried _ _) _ _
  · exact map_modN _ _ (takeWrite_carried _ _) _ _

@[simp] theorem writeLines_length (cfg : Cfg) (n d : Nat) (lines : List Line) :
    (writeLines cfg n d lines).length = lines.length := by
  unfold writeLines
  split
  · split <;> simp
  · simp

/-- Cancelling leaves no pending duty above 0, and no hold where there was one for it. -/
theorem cancelPending_off (l : Line) (h : l.holdAt.isSome = true → pendingAbove0 l = true) :
    pendingAbove0 (cancelPending l) = false ∧ (cancelPending l).holdAt.isSome = false := by
  have off : pendingAbove0 l = false → l.holdAt.isSome = false := by
    intro x
    rcases hh : l.holdAt.isSome with _ | _
    · rfl
    · simp [h hh] at x
  rcases e : l.pendingDuty with _ | _ | k
  · have : cancelPending l = l := by simp [cancelPending, e]
    have x : pendingAbove0 l = false := by simp [pendingAbove0, e]
    rw [this]
    exact ⟨x, off x⟩
  · have : cancelPending l = l := by simp [cancelPending, e]
    have x : pendingAbove0 l = false := by simp [pendingAbove0, e]
    rw [this]
    exact ⟨x, off x⟩
  · simp [cancelPending, e, pendingAbove0]

/-- A write keeps every pair in order (R158, R160). -/
theorem writeLines_pairs {cfg : Cfg} {lines : List Line} (u : AssignedOnce cfg) (h : PairLines cfg lines) (n d : Nat) :
    PairLines cfg (writeLines cfg n d lines) := by
  unfold writeLines
  rcases hp : partnerLine n cfg with _ | p
  · have : PairLines cfg (modN lines n (takeWrite (lineEnabled n cfg) d)) :=
      h.unpaired u hp fun m hm => getN_modN_ne (Ne.symm hm) _ _
    split <;> exact this
  · have hne := partner_ne hp
    split
    · rename_i hw
      simp only [Bool.and_eq_true, decide_eq_true_eq] at hw
      refine h.two u hp (fun m h1 h2 => by rw [getN_modN_ne (Ne.symm h2), getN_modN_ne (Ne.symm h1)]) ?_
      intro a b ha hb
      rw [getN_modN_ne (Ne.symm hne), getN_modN_self] at ha
      rw [getN_modN_self, getN_modN_ne hne] at hb
      obtain ⟨a0, ha0, rfl⟩ := Option.map_eq_some_iff.1 ha
      obtain ⟨b0, hb0, rfl⟩ := Option.map_eq_some_iff.1 hb
      obtain ⟨⟨k1, k2, k3⟩, ⟨k4, k5, k6⟩⟩ := h.both u hp ha0 hb0
      have ea := lineDriven_congr (n := n) (cfg := cfg) (takeWrite_applied (lineEnabled n cfg) d a0)
      have eb := lineDriven_congr (n := p) (cfg := cfg) (cancelPending_applied b0)
      obtain ⟨c1, c2⟩ := cancelPending_off b0 (fun x => (k6 x).1)
      refine ⟨⟨by rw [ea, eb]; exact k1, by simp [c1], ?_⟩, ⟨by rw [ea, eb]; exact k4, by simp [c1], ?_⟩⟩
      · intro hh
        have hd : pendingAbove0 (takeWrite (lineEnabled n cfg) d a0) = true := by
          obtain ⟨k, rfl⟩ : ∃ k, d = k + 1 := ⟨d - 1, by omega⟩
          simp [takeWrite, hw.1, pendingAbove0]
        refine ⟨hd, ?_⟩
        rw [eb]
        simp only [takeWrite, hw.1, if_true] at hh
        split at hh
        · cases hh
        · exact (k3 hh).2
      · intro hh
        simp [c2] at hh
    · rename_i hw
      refine h.two u hp (fun m h1 h2 => getN_modN_ne (Ne.symm h1) _ _) ?_
      intro a b ha hb
      rw [getN_modN_self] at ha
      rw [getN_modN_ne hne] at hb
      obtain ⟨a0, ha0, rfl⟩ := Option.map_eq_some_iff.1 ha
      obtain ⟨⟨k1, k2, k3⟩, ⟨k4, k5, k6⟩⟩ := h.both u hp ha0 hb
      have ea := lineDriven_congr (n := n) (cfg := cfg) (takeWrite_applied (lineEnabled n cfg) d a0)
      rcases he : lineEnabled n cfg with _ | _
      · simp only [he] at ea
        have eh : (takeWrite false d a0).holdAt = a0.holdAt := rfl
        have ep : pendingAbove0 (takeWrite false d a0) = pendingAbove0 a0 := rfl
        exact ⟨⟨ea ▸ k1, ep ▸ k2, by rw [eh, ep]; exact k3⟩, ⟨ea ▸ k4, ep ▸ k5, by rw [ea]; exact k6⟩⟩
      · have hd : d = 0 := by
          simp only [he, Bool.true_and, decide_eq_true_eq] at hw
          omega
        subst hd
        simp only [he] at ea
        have ep : pendingAbove0 (takeWrite true 0 a0) = false := rfl
        have eh : (takeWrite true 0 a0).holdAt = none := rfl
        exact ⟨⟨ea ▸ k1, by simp [ep], by simp [eh]⟩, ⟨ea ▸ k4, by simp [ep], by rw [ea]; exact k6⟩⟩

/-! ## Period starts (R159, R160) -/

@[simp] theorem applyOffs_length (cfg : Cfg) (now n : Nat) (lines : List Line) :
    (applyOffs cfg now lines n).length = lines.length := by
  unfold applyOffs
  split
  · split <;> simp
  · rfl

theorem applyPending_hold (now : Nat) (l : Line) (h : l.pendingDuty ≠ none) : (applyPending now l).holdAt = none := by
  unfold applyPending
  split
  · rfl
  · exact absurd ‹_› h

theorem applyPending_pending (now : Nat) (l : Line) : (applyPending now l).pendingDuty = none := by
  unfold applyPending
  split
  · rfl
  · assumption

theorem applyPending_notPending (now : Nat) (l : Line) : pendingAbove0 (applyPending now l) = false := by
  simp [pendingAbove0, applyPending_pending]

/-- A line turned off by its pending 0 is not driven. -/
theorem applyPending_zero {now n : Nat} {cfg : Cfg} {l : Line} (h : l.pendingDuty = some 0) :
    lineDriven n cfg (applyPending now l) = false := by
  simp [applyPending, h, lineDriven, appliedAbove0]

/-- A pending duty of 0 is applied: pairs stay in order. -/
theorem applyOffs_pairs {cfg : Cfg} {lines : List Line} (u : AssignedOnce cfg) (h : PairLines cfg lines) (now n : Nat) :
    PairLines cfg (applyOffs cfg now lines n) := by
  unfold applyOffs
  split
  · rename_i l hl
    rcases hp : partnerLine n cfg with _ | p
    · have := h.unpaired (lines' := modN lines n (applyPending now)) u hp fun m hm => getN_modN_ne (Ne.symm hm) _ _
      split <;> first | exact this | exact h
    · have hne := partner_ne hp
      split
      · rename_i h0
        refine h.two u hp (fun m h1 h2 => getN_modN_ne (Ne.symm h1) _ _) ?_
        intro a b ha hb
        rw [getN_modN_self, hl] at ha
        rw [getN_modN_ne hne] at hb
        obtain rfl : applyPending now l = a := by simpa using ha
        obtain ⟨-, ⟨k4, k5, k6⟩⟩ := h.both u hp hl hb
        have hz := applyPending_zero (now := now) (n := n) (cfg := cfg) h0
        have hpend := applyPending_notPending now l
        have hh := applyPending_hold now l (by simp [h0])
        exact ⟨⟨by simp [hz], by simp [hpend], by simp [hh]⟩,
          ⟨by simp [hz], by simp [hpend], fun x => ⟨(k6 x).1, hz⟩⟩⟩
      · rename_i hx
        simp at hx
      · exact h
  · exact h

/-- A line of a pair is turned on while its partner is off: the pair stays in order. -/
theorem turnOn_pair {cfg : Cfg} {now n p : Nat} {a b : Line} (hab : BothOk cfg n p a b)
    (hpend : pendingAbove0 a = true) (hoff : lineDriven p cfg b = false) : BothOk cfg n p (applyPending now a) b := by
  obtain ⟨⟨k1, k2, k3⟩, ⟨k4, k5, k6⟩⟩ := hab
  have hne : a.pendingDuty ≠ none := by
    intro e
    simp [pendingAbove0, e] at hpend
  have hb : b.holdAt.isSome = false := by
    rcases hh : b.holdAt.isSome with _ | _
    · rfl
    · have := (k6 hh).1
      simp [hpend, this] at k2
  have hn := applyPending_notPending now a
  have hh := applyPending_hold now a hne
  refine ⟨⟨by simp [hoff], by simp [hn], by simp [hh]⟩, ⟨by simp [hoff], by simp [hn], ?_⟩⟩
  intro x
  simp [hb] at x

/-- The turn-on of one line keeps every pair in order (R159, R160). -/
theorem turnOn_pairs {cfg : Cfg} {lines : List Line} (u : AssignedOnce cfg) (h : PairLines cfg lines) (now n : Nat) :
    PairLines cfg (turnOn cfg now lines n) := by
  unfold turnOn
  split
  swap
  · exact h
  rename_i l hl
  split
  swap
  · exact h
  rename_i k p hk hp
  have hne := partner_ne hp
  have hpend : pendingAbove0 l = true := by simp [pendingAbove0, hk]
  -- the line turned on with its partner left as it is
  have apply_ok : (∀ b, getN lines p = some b → lineDriven p cfg b = false) →
      PairLines cfg (modN lines n (applyPending now)) := by
    intro hoff
    refine h.two u hp (fun m h1 h2 => getN_modN_ne (Ne.symm h1) _ _) ?_
    intro a b ha hb
    rw [getN_modN_self, hl] at ha
    rw [getN_modN_ne hne] at hb
    obtain rfl : applyPending now l = a := by simpa using ha
    exact turnOn_pair (h.both u hp hl hb) hpend (hoff b hb)
  split
  · rename_i e he
    split
    · exact apply_ok fun b hb => ((h.both u hp hl hb).1.2.2 (by simp [he])).2
    · exact h
  · rename_i hnone
    split
    · rename_i hdr
      refine apply_ok fun b hb => ?_
      have := (h.both u hp hl hb).1.1
      simpa [hdr] using this
    · unfold judgeTurnOn
      split
      · rename_i hq
        exact apply_ok fun b hb => by simp [hq] at hb
      · rename_i q hq
        have hb0 := h.both u hp hl hq
        have hqh : q.holdAt.isSome = false := by
          rcases hh : q.holdAt.isSome with _ | _
          · rfl
          · have := (hb0.2.2.2 hh).1
            have k2 := hb0.1.2.1
            simp [hpend, this] at k2
        have hold_ok (e : Nat) (hoff : lineDriven p cfg q = false) :
            PairLines cfg (modN lines n (holdLine e)) := by
          refine h.two u hp (fun m h1 h2 => getN_modN_ne (Ne.symm h1) _ _) ?_
          intro a b ha hb
          rw [getN_modN_self, hl] at ha
          rw [getN_modN_ne hne, hq] at hb
          obtain rfl : holdLine e l = a := by simpa using ha
          obtain rfl : q = b := by simpa using hb
          obtain ⟨⟨k1, k2, k3⟩, ⟨k4, k5, k6⟩⟩ := hb0
          exact ⟨⟨k1, k2, fun _ => ⟨hpend, hoff⟩⟩, ⟨k4, k5, fun x => by simp [hqh] at x⟩⟩
        split
        · -- the partner is forced off
          have fOff : lineDriven p cfg (forceOff now q) = false := by simp [lineDriven, forceOff, appliedAbove0]
          have fPend : pendingAbove0 (forceOff now q) = pendingAbove0 q := rfl
          have fHold : (forceOff now q).holdAt.isSome = false := hqh
          have kp : pendingAbove0 q = false := by
            have := hb0.1.2.1
            simpa [hpend] using this
          have forced (f : Line → Line) (hf : BothOk cfg n p (f l) (forceOff now q)) :
              PairLines cfg (modN (modN lines p (forceOff now)) n f) := by
            refine h.two u hp (fun m h1 h2 => by rw [getN_modN_ne (Ne.symm h1), getN_modN_ne (Ne.symm h2)]) ?_
            intro a b ha hb
            rw [getN_modN_self, getN_modN_ne (Ne.symm hne), hl] at ha
            rw [getN_modN_ne hne, getN_modN_self, hq] at hb
            obtain rfl : f l = a := by simpa using ha
            obtain rfl : forceOff now q = b := by simpa using hb
            exact hf
          have base : BothOk cfg n p l (forceOff now q) :=
            ⟨⟨by simp [fOff], by simp [fPend, kp], fun x => by simp [hnone] at x⟩,
              ⟨by simp [fOff], by simp [fPend, kp], fun x => by simp [fHold] at x⟩⟩
          split
          · exact forced _ (turnOn_pair base hpend fOff)
          · refine forced _ ⟨⟨by simp [fOff], by simp [fPend, kp], fun _ => ⟨hpend, fOff⟩⟩,
              ⟨by simp [fOff], by simp [fPend, kp], fun x => by simp [fHold] at x⟩⟩
        · rename_i hoff
          have hoff' : lineDriven p cfg q = false := by simpa using hoff
          have app := apply_ok fun b hb => by
            obtain rfl : q = b := by simpa [hq] using hb
            exact hoff'
          split
          · split
            · exact hold_ok _ hoff'
            · exact app
          · exact app

/-- A period start keeps every pair in order (R159). -/
theorem periodStart_pairs {cfg : Cfg} {lines : List Line} (u : AssignedOnce cfg) (h : PairLines cfg lines) (now : Nat) :
    PairLines cfg (periodStartLines cfg now lines) := by
  have fold (f : List Line → Nat → List Line) (hf : ∀ l n, PairLines cfg l → PairLines cfg (f l n)) (ns : List Nat)
      (l : List Line) (hl : PairLines cfg l) : PairLines cfg (ns.foldl f l) := by
    induction ns generalizing l with
    | nil => exact hl
    | cons x xs ih => exact ih _ (hf l x hl)
  exact fold _ (fun l n hl => turnOn_pairs u hl now n) _ _ (fold _ (fun l n hl => applyOffs_pairs u hl now n) _ _ h)

/-! ## A write said once (R158) -/

/-- Without a line of the assignment there is no write. -/
theorem writeDuty_none {a : Assignment} {d : Nat} {s : State} (h : lineOf a s.cfg = none) : writeDuty a d s = s := by
  simp [writeDuty, h]

/-- A write changes the lines alone, as `writeLines` says. -/
theorem writeDuty_some {a : Assignment} {d n : Nat} {s : State} (h : lineOf a s.cfg = some n) :
    writeDuty a d s = { s with dlu := { s.dlu with lines := writeLines s.cfg n d s.dlu.lines } } := by
  simp [writeDuty, h]

end Sys2Proof.Machine
end

