-- ==== Sys2Proof/Laws/Reacts.lean ====
section
/-!
SUPPORT. What one block's change can bring about in the others, said once: `Reacts s t` says what every reaction leaves
unchanged and what it keeps.  Each shared operation has one lemma `<operation>_reacts`, which later proofs cite in place of
unfolding it.
-/

namespace Sys2Proof.Machine

/-- `t` is reached from `s` by reactions alone.  The queue, the clock, the configuration, the port but for its flags,
the peer entries, the gauges and what the drive lines carry are unchanged; no flag is cleared; pairs of lines and the
journal stay in order; no set-point rises above its release threshold, and no winch begins to release above one. -/
structure Reacts (s t : State) : Prop where
  pending : t.pending = s.pending
  clock : t.clock = s.clock
  draws : t.draws = s.draws
  cfg : t.cfg = s.cfg
  svp : t.svp = { s.svp with flags := t.svp.flags }
  flags : ∀ i, s.svp.flags.getLsbD i = true → t.svp.flags.getLsbD i = true
  peers : t.cvu.peers = s.cvu.peers
  pgu : t.pgu = s.pgu
  period : t.dlu.periodAt = s.dlu.periodAt
  carried : t.dlu.lines.map Machine.carried = s.dlu.lines.map Machine.carried
  pairs : AssignedOnce s.cfg → PairLines s.cfg s.dlu.lines → PairLines s.cfg t.dlu.lines
  journal : JournalOk s → JournalOk t
  down : shaftsDown s = true → shaftsDown t = true
  release : ∀ n, isReleasing n t = true → isReleasing n s = true ∨ shaftsDown t = true

namespace Reacts

theorem refl (s : State) : Reacts s s :=
  ⟨rfl, rfl, rfl, rfl, rfl, fun _ h => h, rfl, rfl, rfl, rfl, fun _ h => h, id, id, fun _ h => .inl h⟩

theorem trans {a b c : State} (h : Reacts a b) (k : Reacts b c) : Reacts a c where
  pending := k.pending.trans h.pending
  clock := k.clock.trans h.clock
  draws := k.draws.trans h.draws
  cfg := k.cfg.trans h.cfg
  svp := by rw [k.svp, h.svp]
  flags := fun i x => k.flags i (h.flags i x)
  peers := k.peers.trans h.peers
  pgu := k.pgu.trans h.pgu
  period := k.period.trans h.period
  carried := k.carried.trans h.carried
  pairs := fun u x => by
    have := k.pairs (h.cfg ▸ u) (h.cfg ▸ h.pairs u x)
    exact h.cfg ▸ this
  journal := fun x => k.journal (h.journal x)
  down := fun x => k.down (h.down x)
  release := fun n x => by
    rcases k.release n x with y | y
    · exact (h.release n y).imp id k.down
    · exact .inr y

theorem now {s t : State} (h : Reacts s t) : t.now = s.now := now_of_clock h.clock

theorem mode {s t : State} (h : Reacts s t) : t.svp.mode = s.svp.mode := by rw [h.svp]

theorem configuring {s t : State} (h : Reacts s t) : Machine.configuring t = Machine.configuring s := by
  simp [Machine.configuring, h.mode]

theorem reply {s t : State} (h : Reacts s t) : t.svp.reply = s.svp.reply := by rw [h.svp]

theorem image {s t : State} (h : Reacts s t) : t.svp.image = s.svp.image := by rw [h.svp]

/-- A conditional reaction. -/
theorem ite {s t : State} (c : Prop) [Decidable c] (h : c → Reacts s t) : Reacts s (if c then t else s) := by
  split
  · exact h ‹_›
  · exact refl s

end Reacts

/-- Reactions of a fold, one after another. -/
theorem foldl_reacts {α : Type} {f : State → α → State} (h : ∀ s x, Reacts s (f s x)) (l : List α) (s : State) :
    Reacts s (l.foldl f s) := foldl_keeps (R := Reacts) Reacts.refl Reacts.trans h l s

/-- Repeated reactions. -/
theorem repeat_reacts {f : State → State} (h : ∀ s, Reacts s (f s)) (n : Nat) (s : State) :
    Reacts s (Nat.repeat f n s) := repeat_keeps (R := Reacts) Reacts.refl Reacts.trans h n s

/-! ## Updates of one block -/

theorem shu_reacts (u : Shu) (s : State) : Reacts s { s with shu := u } :=
  ⟨rfl, rfl, rfl, rfl, rfl, fun _ h => h, rfl, rfl, rfl, rfl, fun _ h => h, id, id, fun _ h => .inl h⟩

theorem lif_reacts (l : Lif) (s : State) : Reacts s { s with lif := l } :=
  ⟨rfl, rfl, rfl, rfl, rfl, fun _ h => h, rfl, rfl, rfl, rfl, fun _ h => h, id, id, fun _ h => .inl h⟩

theorem stc_reacts (c : Stc) (s : State) : Reacts s { s with stc := c } :=
  ⟨rfl, rfl, rfl, rfl, rfl, fun _ h => h, rfl, rfl, rfl, rfl, fun _ h => h, id, id, fun _ h => .inl h⟩

theorem cvu_reacts (v : Cvu) (s : State) (h : v.peers = s.cvu.peers) : Reacts s { s with cvu := v } :=
  ⟨rfl, rfl, rfl, rfl, rfl, fun _ h => h, h, rfl, rfl, rfl, fun _ h => h, id, id, fun _ h => .inl h⟩

theorem cpc_reacts (c : Cpc) (s : State) (h : c.winches = s.cpc.winches) : Reacts s { s with cpc := c } :=
  ⟨rfl, rfl, rfl, rfl, rfl, fun _ h => h, rfl, rfl, rfl, rfl, fun _ h => h, id, id,
    fun _ x => .inl (by simpa [isReleasing, h] using x)⟩

theorem fau_reacts (f : Fau) (s : State) (hj : f.journal = s.fau.journal) (hn : f.nextSerial = s.fau.nextSerial) :
    Reacts s { s with fau := f } :=
  ⟨rfl, rfl, rfl, rfl, rfl, fun _ h => h, rfl, rfl, rfl, rfl, fun _ h => h,
    fun x => by simpa [JournalOk, hj, hn] using x, id, fun _ h => .inl h⟩

theorem raiseFlag_reacts (f : Flag) (s : State) : Reacts s (raiseFlag f s) :=
  ⟨rfl, rfl, rfl, rfl, rfl, fun i h => by simp [h], rfl, rfl, rfl, rfl, fun _ h => h, id, id,
    fun _ h => .inl h⟩

theorem stcNotice_reacts (s : State) : Reacts s (stcNotice s) := stc_reacts _ s

theorem setOutcome_reacts (o : CouplingOutcome) (s : State) : Reacts s (setOutcome o s) := cpc_reacts _ s rfl

theorem fuelTotals_reacts (s : State) : Reacts s (fuelTotals s) := fau_reacts _ s rfl rfl

theorem modTank_reacts (n : Nat) (f : Tank → Tank) (s : State) : Reacts s (modTank n f s) := fau_reacts _ s rfl rfl

theorem modBurn_reacts (n : Nat) (f : Burn → Burn) (s : State) : Reacts s (modBurn n f s) := fau_reacts _ s rfl rfl

theorem modRudder_reacts (n : Nat) (f : Rudder → Rudder) (s : State) : Reacts s (modRudder n f s) := stc_reacts _ s

theorem keepSums_reacts (s : State) : Reacts s (keepSums s) := cvu_reacts _ s rfl

theorem setClaim_reacts (c : Claim) (h : Option Nat) (s : State) : Reacts s (setClaim c h s) := cvu_reacts _ s rfl

/-! ## Drive lines (R158) -/

/-- A write of a duty: applied duties stay, pairs stay in order (R158). -/
theorem writeDuty_reacts (a : Assignment) (d : Nat) (s : State) : Reacts s (writeDuty a d s) := by
  unfold writeDuty
  split
  · exact ⟨rfl, rfl, rfl, rfl, rfl, fun _ h => h, rfl, rfl, rfl, writeLines_carried _ _ _ _,
      fun u h => writeLines_pairs u h _ _, id, id, fun _ h => .inl h⟩
  · exact Reacts.refl s

/-! ## Shafts (R49, R100) -/

/-- The test of a pull-off's completion over configurations and records. -/
def allDown (cs : List ShaftCfg) (rs : List Shaft) : Bool :=
  (List.zip cs rs).all fun cr => decide (cr.2.p ≤ cr.1.releaseThreshold)

theorem shaftsDown_eq (s : State) : shaftsDown s = allDown s.cfg.shafts s.sfc := rfl

theorem allDown_changeAt {cs : List ShaftCfg} {rs : List Shaft} {f : Shaft → Shaft} (hf : ∀ r, (f r).p ≤ r.p) (i : Nat)
    (h : allDown cs rs = true) : allDown cs (changeAt f i rs) = true := by
  induction cs generalizing rs i with
  | nil => simp [allDown]
  | cons c cs ih =>
    rcases rs with _ | ⟨r, rs⟩
    · cases i <;> simp [allDown, changeAt]
    · simp only [allDown, List.zip_cons_cons, List.all_cons, Bool.and_eq_true, decide_eq_true_eq] at h
      cases i with
      | zero =>
        simp only [changeAt, allDown, List.zip_cons_cons, List.all_cons, Bool.and_eq_true, decide_eq_true_eq]
        exact ⟨(hf r).trans h.1, h.2⟩
      | succ i =>
        simp only [changeAt, allDown, List.zip_cons_cons, List.all_cons, Bool.and_eq_true, decide_eq_true_eq]
        exact ⟨h.1, ih i h.2⟩

theorem allDown_modN {cs : List ShaftCfg} {rs : List Shaft} {f : Shaft → Shaft} (hf : ∀ r, (f r).p ≤ r.p) (n : Nat)
    (h : allDown cs rs = true) : allDown cs (modN rs n f) = true := by
  cases n with
  | zero => exact h
  | succ i => exact allDown_changeAt hf i h

/-- A shaft record changed without a rise of P. -/
theorem modShaft_reacts (n : Nat) (f : Shaft → Shaft) (hf : ∀ r, (f r).p ≤ r.p) (s : State) :
    Reacts s (modShaft n f s) :=
  ⟨rfl, rfl, rfl, rfl, rfl, fun _ h => h, rfl, rfl, rfl, rfl, fun _ h => h, id,
    fun h => by simpa [shaftsDown_eq] using allDown_modN hf n h, fun _ h => .inl h⟩

@[simp] theorem retune_p (c : ShaftCfg) (r : Shaft) : (retune c r).p = r.p := rfl

@[simp] theorem engage_p (m : Mode) (r : Shaft) : (engage m r).p = r.p := by
  unfold engage
  split
  · split <;> rfl
  · rfl

@[simp] theorem enterDwell_p (now : Nat) (c : ShaftCfg) (r : Shaft) : (enterDwell now c r).p = r.p := rfl

@[simp] theorem dwellIfDue_p (now : Nat) (c : ShaftCfg) (r : Shaft) : (dwellIfDue now c r).p = r.p := by
  unfold dwellIfDue
  split <;> rfl

theorem clampShaft_p (r : Shaft) : (clampShaft r).p ≤ r.p := by
  unfold clampShaft
  split <;> simp

/-- A delivery never raises an applied set-point (R46, R49). -/
theorem takeDelivery_p (now : Nat) (m : Mode) (c : ShaftCfg) (t : Nat) (w : Option Way) (a : Nat × Nat) (r : Shaft) :
    (takeDelivery now m c t w a r).p ≤ r.p := by
  simp only [takeDelivery, retune_p, dwellIfDue_p, engage_p]
  exact clampShaft_p _

theorem writeClutches_reacts (n : Nat) (d : Dir) (s : State) : Reacts s (writeClutches n d s) := by
  unfold writeClutches
  split <;> exact (writeDuty_reacts _ _ _).trans (writeDuty_reacts _ _ _)

theorem writeGovernor_reacts (n : Nat) (s : State) : Reacts s (writeGovernor n s) := by
  unfold writeGovernor
  split
  · split
    · exact Reacts.refl s
    · exact (modShaft_reacts n _ (fun _ => by exact le_rfl) s).trans (writeDuty_reacts _ _ _)
  · exact Reacts.refl s

theorem writeClutchesIf_reacts (n : Nat) (d : Dir) (force : Bool) (s : State) :
    Reacts s (writeClutchesIf n d force s) := by
  unfold writeClutchesIf
  split
  · split
    · exact Reacts.refl s
    · exact (modShaft_reacts n (fun q => { q with clutchWritten := true }) (fun _ => by exact le_rfl) s).trans
        (writeClutches_reacts _ _ _)
  · exact Reacts.refl s

theorem shaftOutputs_reacts (n : Nat) (d : Dir) (force : Bool) (s : State) : Reacts s (shaftOutputs n d force s) :=
  (writeClutchesIf_reacts n d force s).trans (writeGovernor_reacts n _)

/-! ## The share and its delivery (R28, R46) -/

theorem deliverTo_reacts (res : ShareResult) (av : List (Nat × Nat)) (s : State) (n : Nat) :
    Reacts s (deliverTo res av s n) := by
  unfold deliverTo
  split
  · exact (modShaft_reacts n _ (fun _ => takeDelivery_p _ _ _ _ _ _ _) s).trans (shaftOutputs_reacts _ _ _ _)
  · exact Reacts.refl s

theorem raiseShortfall_reacts (was : Bool) (s : State) : Reacts s (raiseShortfall was s) :=
  Reacts.ite _ fun _ => raiseFlag_reacts _ s

theorem noticeDirs_reacts (old : List Dir) (s : State) : Reacts s (noticeDirs old s) := by
  unfold noticeDirs
  split
  · exact Reacts.refl s
  · exact stcNotice_reacts s

/-- A recompute with its delivery (R28, R46). -/
theorem recomputeShare_reacts (s : State) : Reacts s (recomputeShare s) := by
  unfold recomputeShare
  split
  · exact Reacts.refl s
  · exact (((shu_reacts _ s).trans (raiseShortfall_reacts _ _)).trans
      (foldl_reacts (deliverTo_reacts _ _) _ _)).trans (noticeDirs_reacts _ _)

/-! ## Slots (R169, R170) -/

theorem tryStart_reacts (s : State) : Reacts s (tryStart s) := by
  unfold tryStart
  repeat' split
  all_goals exact lif_reacts _ s

theorem placeFrame_reacts (k : FrameKind) (p : List Byte) (s : State) : Reacts s (placeFrame k p s) := by
  unfold placeFrame
  split
  · exact (lif_reacts _ s).trans (tryStart_reacts _)
  · exact Reacts.refl s

theorem placeAlert_reacts (s : State) : Reacts s (placeAlert s) := placeFrame_reacts _ _ s

theorem placeStatus_reacts (s : State) : Reacts s (placeStatus s) := placeFrame_reacts _ _ s

theorem placeFuel_reacts (s : State) : Reacts s (placeFuel s) := placeFrame_reacts _ _ s

theorem placeHelm_reacts (h : HelmContents) (y : Bool) (s : State) : Reacts s (placeHelm h y s) :=
  placeFrame_reacts _ _ s

/-! ## Notices, summary, pull-off (R23, R26, R95 to R97, R100, R106) -/

theorem shuNoticeWith_reacts {rc : State → State} (hrc : ∀ s, Reacts s (rc s)) (force : Bool) (s : State) :
    Reacts s (shuNoticeWith rc force s) := by
  unfold shuNoticeWith
  split
  · split
    · exact hrc s
    · exact Reacts.refl s
  · exact (((shu_reacts _ s).trans (hrc _)).trans (stcNotice_reacts _)).trans (placeAlert_reacts _)

theorem settleWith_reacts {rc : State → State} (hrc : ∀ s, Reacts s (rc s)) (b : Bool) (s : State) :
    Reacts s (settleWith rc b s) := by
  have h1 := (cpc_reacts { s.cpc with summary := summaryNow s, fCpl := fCplNow s } s rfl).trans
    (shuNoticeWith_reacts hrc (decide (fCplNow s ≠ s.cpc.fCpl)) _)
  have h2 : ∀ c : Prop, ∀ [Decidable c], ∀ t, Reacts s t → Reacts s (if c then placeAlert t else t) := by
    intro c _ t h
    split
    · exact h.trans (placeAlert_reacts t)
    · exact h
  have h3 : ∀ c : Prop, ∀ [Decidable c], ∀ t, Reacts s t → Reacts s (if c then t else placeAlert t) := by
    intro c _ t h
    split
    · exact h
    · exact h.trans (placeAlert_reacts t)
  exact h2 _ _ (h3 _ _ h1)

/-! ### Winches (R94, R100) -/

/-- A winch changed in a way that begins no release. -/
theorem modWinch_reacts (n : Nat) (f : Winch → Winch)
    (hf : ∀ w, (f w).state = .releasing → w.state = .releasing) (s : State) : Reacts s (modWinch n f s) := by
  refine ⟨rfl, rfl, rfl, rfl, rfl, fun _ h => h, rfl, rfl, rfl, rfl, fun _ h => h, id, id, fun m x => .inl ?_⟩
  simp only [isReleasing, modWinch_winches, getN_modN] at x ⊢
  by_cases e : n = m
  · simp only [e, if_true] at x
    cases hg : getN s.cpc.winches m with
    | none => simp [hg] at x
    | some w => simpa [hg] using hf w (by simpa [hg] using x)
  · simpa [e] using x

theorem updateHaul_reacts (n v : Nat) (w : Option Nat) (s : State) : Reacts s (updateHaul n v w s) := by
  unfold updateHaul
  split
  · exact Reacts.refl s
  · exact (modWinch_reacts n _ (fun _ h => by exact h) s).trans (writeDuty_reacts _ _ _)

theorem updatePayout_reacts (n v : Nat) (w : Option Nat) (s : State) : Reacts s (updatePayout n v w s) := by
  unfold updatePayout
  split
  · exact Reacts.refl s
  · exact (modWinch_reacts n _ (fun _ h => by exact h) s).trans (writeDuty_reacts _ _ _)

theorem writeWinch_reacts (n : Nat) (s : State) : Reacts s (writeWinch n s) := by
  unfold writeWinch
  split
  · exact Reacts.refl s
  · split
    · exact (updateHaul_reacts _ _ _ _).trans (updatePayout_reacts _ _ _ _)
    · exact (updatePayout_reacts _ _ _ _).trans (updateHaul_reacts _ _ _ _)

theorem changeWinch_reacts (n : Nat) (f : Winch → Winch) (hf : ∀ w, (f w).state = .releasing → w.state = .releasing)
    (s : State) : Reacts s (changeWinch n f s) := (modWinch_reacts n f hf s).trans (writeWinch_reacts n _)

theorem pushMakeUp_reacts (s : State) : Reacts s (pushMakeUp s) := Reacts.ite _ fun _ => cpc_reacts _ s rfl

/-- A winch changed while every shaft is at or below its release threshold. -/
theorem changeWinch_down {s : State} (h : shaftsDown s = true) (n : Nat) (f : Winch → Winch) :
    Reacts s (changeWinch n f s) := by
  have k : Reacts s (modWinch n f s) :=
    ⟨rfl, rfl, rfl, rfl, rfl, fun _ h => h, rfl, rfl, rfl, rfl, fun _ h => h, id, id, fun _ _ => .inr h⟩
  exact k.trans (writeWinch_reacts n _)

theorem releaseOne_reacts {s : State} (h : shaftsDown s = true) (n : Nat) : Reacts s (releaseOne s n) := by
  unfold releaseOne
  split
  · exact changeWinch_down h n _
  · exact Reacts.refl s

theorem releaseAll_reacts (ns : List Nat) {s : State} (h : shaftsDown s = true) : Reacts s (ns.foldl releaseOne s) := by
  induction ns generalizing s with
  | nil => exact Reacts.refl s
  | cons n ns ih =>
    have k := releaseOne_reacts h n
    exact k.trans (ih (k.down h))

/-- A pull-off completes only with every shaft down (R100). -/
theorem finishPullOff_reacts {s : State} (h : shaftsDown s = true) : Reacts s (finishPullOff s) := by
  have h1 := pushMakeUp_reacts s
  have h2 := h1.trans (releaseAll_reacts (numbers s.cpc.winches.length) (h1.down h))
  unfold finishPullOff
  refine Reacts.trans ?_ (settleWith_reacts recomputeShare_reacts _ _)
  refine Reacts.trans ?_ (setOutcome_reacts _ _)
  exact h2.trans (cpc_reacts _ _ rfl)

theorem completePullOff_reacts (s : State) : Reacts s (completePullOff s) := by
  refine Reacts.ite _ fun h => ?_
  simp only [Bool.and_eq_true] at h
  exact finishPullOff_reacts h.2

theorem noticePs_reacts (old : List Nat) (s : State) : Reacts s (noticePs old s) := by
  unfold noticePs
  split
  · exact Reacts.refl s
  · exact completePullOff_reacts s

/-- A recompute with all that its delivery brings about. -/
theorem recompute_reacts (s : State) : Reacts s (recompute s) :=
  (recomputeShare_reacts s).trans (noticePs_reacts _ _)

theorem shuNotice_reacts (force : Bool) (s : State) : Reacts s (shuNotice force s) :=
  shuNoticeWith_reacts recompute_reacts force s

theorem settle_reacts (b : Bool) (s : State) : Reacts s (settle b s) := settleWith_reacts recompute_reacts b s

theorem handOn_reacts (ds : List Dir) (ps : List Nat) (s : State) : Reacts s (handOn ds ps s) :=
  (noticeDirs_reacts ds s).trans (noticePs_reacts ps _)

/-! ## Shaft controllers (R52 to R58) -/

theorem actShaft_reacts (n : Nat) (f : Shaft → Shaft) (hf : ∀ r, (f r).p ≤ r.p) (s : State) :
    Reacts s (actShaft n f s) := by
  unfold actShaft
  split
  · exact ((modShaft_reacts n f hf s).trans (shaftOutputs_reacts _ _ _ _)).trans (handOn_reacts _ _ _)
  · exact Reacts.refl s

theorem estimateNotice_reacts (n : Nat) (s : State) : Reacts s (estimateNotice n s) := by
  have h : Reacts s (if startsEstimating n s then raiseFlag .meterFault s else s) :=
    Reacts.ite _ fun _ => raiseFlag_reacts _ s
  exact (h.trans (modBurn_reacts _ _ _)).trans (fuelTotals_reacts _)

theorem noticeEngine_reacts (n : Nat) (s : State) : Reacts s (noticeEngine n s) :=
  (recompute_reacts s).trans (estimateNotice_reacts n _)

theorem disengage_p (now : Nat) (c : ShaftCfg) (r : Shaft) : (disengage now c r).p ≤ r.p := by
  unfold disengage
  split <;> simp

theorem haltEngine_p (now : Nat) (c : ShaftCfg) (e : Engine) (r : Shaft) : (haltEngine now c e r).p ≤ r.p :=
  disengage_p now c _

theorem stopEngine_reacts (n : Nat) (s : State) : Reacts s (stopEngine n s) := by
  unfold stopEngine
  split
  · refine ((Reacts.trans ?_ (actShaft_reacts n _ (haltEngine_p _ _ _) _))).trans (noticeEngine_reacts _ _)
    exact Reacts.ite _ fun _ => raiseFlag_reacts _ s
  · exact Reacts.refl s

theorem rpmDead_reacts (n : Nat) (s : State) : Reacts s (rpmDead n s) := Reacts.ite _ fun _ => stopEngine_reacts n s

theorem bandReport_reacts (n : Nat) (b : Band) (s : State) : Reacts s (bandReport n b s) := by
  unfold bandReport
  split
  · split
    · split
      · exact Reacts.refl s
      · exact (actShaft_reacts n _ (haltEngine_p _ _ _) _).trans (noticeEngine_reacts _ _)
    · refine Reacts.ite _ fun _ => ?_
      exact (modShaft_reacts n (fun q => { q with engine := .stopped }) (fun _ => by exact le_rfl) s).trans
        (noticeEngine_reacts _ _)
    · exact Reacts.refl s
  · exact Reacts.refl s

theorem classify_p (now : Nat) (c : ShaftCfg) (rpm : Nat) (r : Shaft) : (classify now c rpm r).p = r.p := by
  unfold classify
  dsimp only
  split <;> rfl

theorem judgeRpm_reacts (n : Nat) (c : ShaftCfg) (rpm : Nat) (e : Engine) (s : State) :
    Reacts s (judgeRpm n c rpm e s) := by
  have hc := modShaft_reacts n (classify s.now c rpm) (fun r => (classify_p _ _ _ r).le) s
  cases e with
  | fuelOut => exact Reacts.refl s
  | stopped =>
    refine Reacts.ite _ fun _ => ?_
    exact (modShaft_reacts n (startEngine s.now c rpm) (fun r => (classify_p _ _ _ _).le) s).trans
      (noticeEngine_reacts _ _)
  | running =>
    unfold judgeRpm
    dsimp only
    split
    · exact stopEngine_reacts n s
    · exact hc
  | limited =>
    unfold judgeRpm
    dsimp only
    split
    · exact stopEngine_reacts n s
    · exact hc

theorem rpmResult_reacts (n count elapsed : Nat) (s : State) : Reacts s (rpmResult n count elapsed s) := by
  unfold rpmResult
  split
  · exact (modShaft_reacts n _ (fun _ => by exact le_rfl) s).trans (judgeRpm_reacts _ _ _ _ _)
  · exact Reacts.refl s

theorem deviationExpired_reacts (n : Nat) (r : Shaft) (s : State) : Reacts s (deviationExpired n r s) := by
  have h := modShaft_reacts n
    (fun q => { q with engine := afterDeviation r.deviation r.engine, deviationAt := none }) (fun _ => by exact le_rfl) s
  unfold deviationExpired
  dsimp only
  split
  · exact h
  · exact h.trans (noticeEngine_reacts _ _)

/-! ## Steering (R72 to R79) -/

theorem writePort_reacts (n v : Nat) (s : State) : Reacts s (writePort n v s) :=
  (modRudder_reacts n _ s).trans (writeDuty_reacts _ _ _)

theorem writeStbd_reacts (n v : Nat) (s : State) : Reacts s (writeStbd n v s) :=
  (modRudder_reacts n _ s).trans (writeDuty_reacts _ _ _)

theorem updatePort_reacts (n v : Nat) (w : Option Nat) (b : Bool) (s : State) : Reacts s (updatePort n v w b s) :=
  Reacts.ite _ fun _ => writePort_reacts n v s

theorem updateStbd_reacts (n v : Nat) (w : Option Nat) (b : Bool) (s : State) : Reacts s (updateStbd n v w b s) :=
  Reacts.ite _ fun _ => writeStbd_reacts n v s

theorem writeValves_reacts (n : Nat) (b : Bool) (s : State) : Reacts s (writeValves n b s) := by
  unfold writeValves
  split
  · exact Reacts.refl s
  · dsimp only
    split
    · exact (updateStbd_reacts _ _ _ _ _).trans (updatePort_reacts _ _ _ _ _)
    · exact (updatePort_reacts _ _ _ _ _).trans (updateStbd_reacts _ _ _ _ _)

theorem loseSensor_reacts (n : Nat) (s : State) : Reacts s (loseSensor n s) :=
  (((modRudder_reacts n _ s).trans (writeValves_reacts _ _ _)).trans (raiseFlag_reacts _ _)).trans (stcNotice_reacts _)

theorem angleDead_reacts (n : Nat) (s : State) : Reacts s (angleDead n s) := by
  unfold angleDead
  split
  · split
    · exact Reacts.refl s
    · exact loseSensor_reacts n s
  · exact Reacts.refl s

theorem useAngle_reacts (n : Nat) (a : Int) (s : State) : Reacts s (useAngle n a s) := by
  unfold useAngle
  split
  · split
    · exact modRudder_reacts n _ s
    · exact Reacts.refl s
    · exact (modRudder_reacts n _ s).trans (writeValves_reacts _ _ _)
  · exact Reacts.refl s

theorem angleResult_reacts (n high cycle : Nat) (s : State) : Reacts s (angleResult n high cycle s) := by
  unfold angleResult
  split
  · exact Reacts.refl s
  · split
    · exact Reacts.refl s
    · split
      · exact loseSensor_reacts n s
      · exact useAngle_reacts n _ s

theorem stallRudder_reacts (n : Nat) (s : State) : Reacts s (stallRudder n s) :=
  (((modRudder_reacts n _ s).trans (writeValves_reacts _ _ _)).trans (raiseFlag_reacts _ _)).trans (stcNotice_reacts _)

theorem retryRudder_reacts (n : Nat) (s : State) : Reacts s (retryRudder n s) :=
  (modRudder_reacts n _ s).trans (stcNotice_reacts _)

/-! ## Couplings (R84 to R104) -/

theorem endPullOff_reacts (o : CouplingOutcome) (s : State) : Reacts s (endPullOff o s) :=
  Reacts.ite _ fun _ => Reacts.trans (cpc_reacts { s.cpc with pullOff := none } s rfl) (setOutcome_reacts o _)

theorem partedHandling_reacts (n : Nat) (s : State) : Reacts s (partedHandling n s) := by
  have h := changeWinch_reacts n partWinch (fun w h => by simp [partWinch] at h) s
  unfold partedHandling
  refine Reacts.trans ?_ (settle_reacts _ _)
  refine Reacts.trans ?_ (endPullOff_reacts _ _)
  refine Reacts.trans ?_ (raiseFlag_reacts _ _)
  exact h.trans (cpc_reacts _ _ rfl)

/-- Judging a load result begins no release. -/
theorem judgeLoad_keeps (now : Nat) (c : WinchCfg) (x : Nat) (w : Winch)
    (h : (judgeLoad now c x w).state = .releasing) : w.state = .releasing := by
  unfold judgeLoad at h
  split at h
  · split at h
    · simp [enterHeld] at h
    · split at h
      · simp [enterHeld] at h
      · exact h
  · split at h
    · simp [enterHeld] at h
    · split at h
      · exact h
      · exact h
  · split at h
    · simp [enterHeld] at h
    · exact h
  · assumption
  · exact h
  · exact h

theorem unsense_keeps (now : Nat) (c : WinchCfg) (w : Winch) (h : (unsense now c w).state = .releasing) :
    w.state = .releasing := by
  unfold unsense at h
  dsimp only at h
  split at h <;> first | exact h | assumption | simp [enterHeld] at h

/-- What judging a result leaves alone: the figures stored, the note, and what was written to the lines (R84, R88 to
R90, R93). -/
theorem judgeLoad_frame (now : Nat) (c : WinchCfg) (x : Nat) (w : Winch) :
    (judgeLoad now c x w).tension = w.tension ∧ (judgeLoad now c x w).previous = w.previous ∧
      (judgeLoad now c x w).note = w.note ∧ (judgeLoad now c x w).deadSeen = w.deadSeen ∧
      (judgeLoad now c x w).haulWritten = w.haulWritten ∧ (judgeLoad now c x w).payoutWritten = w.payoutWritten := by
  unfold judgeLoad enterHeld enterHolding
  split <;> (repeat' split) <;> exact ⟨rfl, rfl, rfl, rfl, rfl, rfl⟩

/-- A load result either parts the wire (R91) or is judged by the winch's state (R88 to R90, R92, R93). -/
theorem loadResult_cases {n count elapsed : Nat} {s : State} {w : Winch} {c : WinchCfg}
    (hw : getN s.cpc.winches n = some w) (hc : getN s.cfg.winches n = some c) :
    let x := tensionOf c (loadFrequency count elapsed)
    (marksParted c x (storeTension x w) = true ∧
      loadResult n count elapsed s = partedHandling n (modWinch n (storeTension x) s)) ∨
    (marksParted c x (storeTension x w) = false ∧
      loadResult n count elapsed s =
        settle false (changeWinch n (judgeLoad s.now c x) (modWinch n (storeTension x) s))) := by
  simp only [loadResult, hw, hc]
  split
  · exact .inl ⟨‹_›, rfl⟩
  · exact .inr ⟨Bool.eq_false_iff.mpr ‹_›, rfl⟩

theorem loadResult_reacts (n count elapsed : Nat) (s : State) : Reacts s (loadResult n count elapsed s) := by
  unfold loadResult
  split
  · have h := modWinch_reacts n (storeTension (tensionOf (by assumption) (loadFrequency count elapsed)))
      (fun _ h => h) s
    dsimp only
    split
    · exact h.trans (partedHandling_reacts _ _)
    · exact (h.trans (changeWinch_reacts n _ (judgeLoad_keeps _ _ _) _)).trans (settle_reacts _ _)
  · exact Reacts.refl s

theorem loadDead_reacts (n : Nat) (s : State) : Reacts s (loadDead n s) := by
  unfold loadDead
  split
  · split
    · exact Reacts.refl s
    · exact ((changeWinch_reacts n _ (unsense_keeps _ _) s).trans (raiseFlag_reacts _ _)).trans (settle_reacts _ _)
  · exact Reacts.refl s

theorem changeWinches_reacts (f : Winch → Winch) (hf : ∀ w, (f w).state = .releasing → w.state = .releasing)
    (s : State) : Reacts s (changeWinches f s) := foldl_reacts (fun q n => changeWinch_reacts n f hf q) _ s

theorem acknowledge_reacts (s : State) : Reacts s (acknowledge s) := by
  have h := changeWinches_reacts unpart (fun w h => by
    unfold unpart at h
    split at h
    · simp at h
    · exact h) s
  unfold acknowledge
  refine Reacts.trans ?_ (settle_reacts _ _)
  exact h.trans (cpc_reacts _ _ rfl)

theorem panelAcknowledge_reacts (s : State) : Reacts s (panelAcknowledge s) :=
  Reacts.ite _ fun _ => acknowledge_reacts s

theorem haulRequest_reacts (n : Nat) (s : State) : Reacts s (haulRequest n s) := by
  unfold haulRequest
  split
  · split
    · split
      · exact raiseFlag_reacts _ s
      · exact changeWinch_reacts n _ (fun w h => by simp [startHaul] at h) s
    · exact Reacts.refl s
  · exact Reacts.refl s

theorem haulAll_reacts (ns : List Nat) (s : State) : Reacts s (haulAll ns s) :=
  (foldl_reacts (fun q n => haulRequest_reacts n q) ns s).trans (setOutcome_reacts _ _)

theorem remakeOrder_reacts (s : State) : Reacts s (remakeOrder s) := by
  unfold remakeOrder
  split
  · exact setOutcome_reacts _ s
  · split
    · exact setOutcome_reacts _ s
    · refine Reacts.trans ?_ (settle_reacts _ _)
      refine Reacts.trans ?_ (haulAll_reacts _ _)
      exact cpc_reacts _ s rfl

theorem remakeOwn_reacts (s : State) : Reacts s (remakeOwn s) := by
  unfold remakeOwn
  split
  · exact setOutcome_reacts _ s
  · exact (haulAll_reacts _ _).trans (settle_reacts _ _)

theorem beginPullOff_reacts (o : Origin) (s : State) : Reacts s (beginPullOff o s) := by
  have h := (cpc_reacts { s.cpc with pullOff := some { origin := o, expiry := s.now + pullOffWait s } } s rfl).trans
    (changeWinches_reacts haltHaul (fun w h => by
      unfold haltHaul at h
      split at h
      · simp at h
      · exact h) _)
  exact (h.trans (shuNotice_reacts _ _)).trans (completePullOff_reacts _)

theorem releaseRequest_reacts (o : Origin) (s : State) : Reacts s (releaseRequest o s) := by
  unfold releaseRequest
  split
  · exact setOutcome_reacts _ s
  · split
    · exact setOutcome_reacts _ s
    · exact beginPullOff_reacts o s

theorem withdrawRelease_reacts (o : Origin) (s : State) : Reacts s (withdrawRelease o s) := by
  unfold withdrawRelease
  split
  · exact Reacts.ite _ fun _ => (endPullOff_reacts _ s).trans (shuNotice_reacts _ _)
  · exact Reacts.refl s

theorem pullOffTimeout_reacts (s : State) : Reacts s (pullOffTimeout s) :=
  ((endPullOff_reacts _ s).trans (raiseFlag_reacts _ _)).trans (shuNotice_reacts _ _)

theorem winchExpiry_reacts (n : Nat) (p : Winch → Bool) (f : WinchCfg → Winch → Winch) (after : State → State)
    (hf : ∀ c w, (f c w).state = .releasing → w.state = .releasing) (ha : ∀ s, Reacts s (after s)) (s : State) :
    Reacts s (winchExpiry n p f after s) := by
  unfold winchExpiry
  split
  · exact Reacts.ite _ fun _ => ((changeWinch_reacts n _ (hf _) s).trans (ha _)).trans (settle_reacts _ _)
  · exact Reacts.refl s

end Sys2Proof.Machine
end

