-- ==== Sys2Proof/Laws/Fuel.lean ====
section
/-!
SUPPORT. The fuel accounting unit: the journal's order is kept by every entry (R131), and every operation of chapter 6 is
a reaction in the sense of `Reacts`.
-/

namespace Sys2Proof.Machine

/-! ## The journal (R131) -/

@[simp] theorem appendEntry_serials (e : Entry) (j : List Entry) :
    (appendEntry e j).map (·.serial) =
      (if 128 ≤ j.length then (j.map (·.serial)).drop 1 else j.map (·.serial)) ++ [e.serial] := by
  unfold appendEntry Config.journalMax
  split <;> simp

theorem appendEntry_length (e : Entry) (j : List Entry) (h : j.length ≤ 128) :
    (appendEntry e j).length = min 128 (j.length + 1) := by
  unfold appendEntry Config.journalMax
  split <;> simp <;> omega

/-- A journal whose serials are consecutive up to the last, in 0-based form. -/
theorem serials_append {j : List Entry} {n : Nat} (hlen : j.length < n)
    (h : j.map (·.serial) = (List.range j.length).map fun i => n - j.length + i) :
    j.map (·.serial) ++ [n] = (List.range (j.length + 1)).map fun i => n - j.length + i := by
  rw [List.range_succ, List.map_append, h]
  simp
  omega

theorem serials_drop {j : List Entry} {n : Nat} (hlen : j.length < n) (hpos : 0 < j.length)
    (h : j.map (·.serial) = (List.range j.length).map fun i => n - j.length + i) :
    (j.map (·.serial)).drop 1 ++ [n] = (List.range j.length).map fun i => n + 1 - j.length + i := by
  rw [h]
  apply List.ext_getElem?
  intro i
  simp only [List.getElem?_append, List.length_drop, List.length_map, List.length_range, List.getElem?_drop,
    List.getElem?_map, List.getElem?_singleton]
  split
  · simp [show 1 + i < j.length by omega, show i < j.length by omega]
    omega
  · by_cases e : i = j.length - 1
    · simp [e, show j.length - 1 < j.length by omega]
      omega
    · simp [show ¬ i < j.length by omega, show i - (j.length - 1) ≠ 0 by omega]

/-- One entry more keeps the journal in order (R131). -/
theorem writeEntry_journal {mk : Nat → Nat → Entry} (hmk : ∀ a b, (mk a b).serial = a) {s : State}
    (h : JournalOk s) : JournalOk (writeEntry mk s) := by
  obtain ⟨h1, h2, h3, h4⟩ := h
  have core : ∀ (j : List Entry) (n : Nat), j.length ≤ 128 → j.length < n → n ≤ Config.serialMax →
      j.map (·.serial) = ((List.range j.length).map fun i => n - j.length + i) →
      ∀ e : Entry, e.serial = n → let k := appendEntry e j
        k.length ≤ 128 ∧ k.length < n + 1 ∧ n + 1 ≤ Config.serialMax + 1 ∧
          k.map (·.serial) = (List.range k.length).map fun i => n + 1 - k.length + i := by
    intro j n a1 a2 a3 a4 e he
    simp only [appendEntry_length e j a1, appendEntry_serials, he]
    refine ⟨by omega, by omega, by omega, ?_⟩
    split
    · have hj : j.length = 128 := by omega
      have := serials_drop a2 (by omega) a4
      simpa [hj] using this
    · have := serials_append a2 a4
      rw [this, show min 128 (j.length + 1) = j.length + 1 by omega]
      apply List.map_congr_left
      intro i _
      omega
  unfold writeEntry journalRoom
  by_cases hc : Config.serialMax < s.fau.nextSerial
  · simp only [hc, if_true]
    exact core [] 1 (by simp) (by simp) (by decide) (by simp) _ (hmk _ _)
  · simp only [hc, if_false]
    exact core s.fau.journal s.fau.nextSerial h1 h2 (by omega) h4 _ (hmk _ _)

theorem writeEntry_reacts (mk : Nat → Nat → Entry) (hmk : ∀ a b, (mk a b).serial = a) (s : State) :
    Reacts s (writeEntry mk s) :=
  ⟨rfl, rfl, rfl, rfl, rfl, fun _ h => h, rfl, rfl, rfl, rfl, fun _ h => h, writeEntry_journal hmk, id,
    fun _ h => .inl h⟩

/-! ## Transfers and top-up (R120 to R125) -/

theorem setMovement_reacts (m : Movement) (n : Nat) (s : State) : Reacts s (setMovement m n s) := modTank_reacts n _ s

theorem startTransfer_reacts (o : TransferOrigin) (a b : Nat) (r : Option Nat) (s : State) :
    Reacts s (startTransfer o a b r s) := by
  unfold startTransfer
  refine Reacts.trans ?_ (writeDuty_reacts _ _ _)
  refine Reacts.trans ?_ (setMovement_reacts _ _ _)
  refine Reacts.trans ?_ (setMovement_reacts _ _ _)
  exact fau_reacts _ s rfl rfl

theorem topUp_reacts (s : State) : Reacts s (topUp s) := by
  unfold topUp
  split
  · split
    · split
      · split
        · exact startTransfer_reacts _ _ _ _ s
        · exact Reacts.refl s
      · exact Reacts.refl s
    · exact Reacts.refl s
  · exact Reacts.refl s

theorem settleHold_reacts (r : EndReason) (tr : Transfer) (s : State) : Reacts s (settleHold r tr s) := by
  unfold settleHold
  split
  · exact modTank_reacts _ _ s
  · exact Reacts.refl s

theorem faultIfDead_reacts (r : EndReason) (s : State) : Reacts s (faultIfDead r s) :=
  Reacts.ite _ fun _ => raiseFlag_reacts _ s

theorem stopTransfer_reacts (r : EndReason) (s : State) : Reacts s (stopTransfer r s) := by
  unfold stopTransfer
  refine Reacts.trans ?_ (topUp_reacts _)
  refine Reacts.trans ?_ (settleHold_reacts _ _ _)
  refine Reacts.trans ?_ (faultIfDead_reacts _ _)
  refine Reacts.trans ?_ (writeEntry_reacts _ (fun _ _ => rfl) _)
  refine Reacts.trans ?_ (setMovement_reacts _ _ _)
  refine Reacts.trans ?_ (setMovement_reacts _ _ _)
  refine Reacts.trans ?_ (writeDuty_reacts _ _ _)
  exact fau_reacts _ s rfl rfl

theorem stopCheck_reacts (n : Nat) (s : State) : Reacts s (stopCheck n s) := by
  unfold stopCheck
  split
  · split
    · exact stopTransfer_reacts _ s
    · exact Reacts.refl s
  · exact Reacts.refl s

/-! ## Bookings (R111 to R113) -/

theorem reportBand_reacts (n : Nat) (b : Band) (s : State) : Reacts s (reportBand n b s) := by
  refine foldl_reacts (fun q i => ?_) _ s
  split
  · split
    · exact bandReport_reacts _ _ _
    · exact Reacts.refl q
  · exact Reacts.refl q

theorem bandStep_reacts (n : Nat) (s : State) : Reacts s (bandStep n s) := by
  unfold bandStep
  split
  · dsimp only
    split
    · exact Reacts.refl s
    · refine Reacts.trans ?_ (recompute_reacts _)
      refine Reacts.trans ?_ (reportBand_reacts _ _ _)
      split
      · exact (modTank_reacts n _ s).trans (raiseFlag_reacts _ _)
      · exact modTank_reacts n _ s
  · exact Reacts.refl s

theorem weightStep_reacts (s : State) : Reacts s (weightStep s) := by
  unfold weightStep
  dsimp only
  split
  · exact fuelTotals_reacts s
  · refine Reacts.trans ?_ (recompute_reacts _)
    exact (fuelTotals_reacts s).trans (shu_reacts _ _)

theorem clearHold_reacts (n : Nat) (s : State) : Reacts s (clearHold n s) := by
  unfold clearHold
  split
  · exact modTank_reacts n _ s
  · exact Reacts.refl s

theorem consequences_reacts (n : Nat) (s : State) : Reacts s (consequences n s) :=
  ((((bandStep_reacts n s).trans (weightStep_reacts _)).trans (clearHold_reacts n _)).trans
    (stopCheck_reacts n _)).trans (topUp_reacts _)

theorem addRaw_reacts (n : Nat) (v : Int) (s : State) : Reacts s (addRaw n v s) := modTank_reacts n _ s

theorem book_reacts (n : Nat) (v : Int) (s : State) : Reacts s (book n v s) :=
  (addRaw_reacts n v s).trans (consequences_reacts n _)

/-! ## Burn (R115 to R119) -/

theorem burnEntry_reacts (n : Nat) (c : ShaftCfg) (s : State) : Reacts s (burnEntry n c s) := by
  unfold burnEntry
  split
  · exact (writeEntry_reacts _ (fun _ _ => rfl) s).trans (modBurn_reacts _ _ _)
  · exact Reacts.refl s

theorem burnEntries_reacts (n : Nat) (c : ShaftCfg) (s : State) : Reacts s (burnEntries n c s) := by
  unfold burnEntries
  split
  · exact repeat_reacts (burnEntry_reacts n c) _ s
  · exact Reacts.refl s

theorem bookBurn_reacts (n v : Nat) (c : ShaftCfg) (e : Bool) (s : State) : Reacts s (bookBurn n v c e s) := by
  unfold bookBurn
  split
  · refine Reacts.trans ?_ (burnEntries_reacts _ _ _)
    refine Reacts.trans ?_ (modBurn_reacts _ _ _)
    exact (modBurn_reacts n _ s).trans (book_reacts _ _ _)
  · exact Reacts.refl s

theorem setRate_reacts (n r : Nat) (s : State) : Reacts s (setRate n r s) :=
  (modBurn_reacts n _ s).trans (fuelTotals_reacts _)

theorem flowResult_reacts (n count elapsed : Nat) (s : State) : Reacts s (flowResult n count elapsed s) := by
  unfold flowResult
  split
  · exact ((estimateNotice_reacts n s).trans (setRate_reacts _ _ _)).trans (bookBurn_reacts _ _ _ _ _)
  · exact Reacts.refl s

theorem flowNoPulse_reacts (n : Nat) (h : Health) (s : State) : Reacts s (flowNoPulse n h s) := by
  unfold flowNoPulse
  split
  · exact Reacts.refl s
  · exact setRate_reacts n 0 s

theorem burnHandOn_reacts (n : Nat) (s : State) : Reacts s (burnHandOn n s) := by
  unfold burnHandOn
  split
  · split
    · exact (setRate_reacts _ _ s).trans (bookBurn_reacts _ _ _ _ _)
    · exact Reacts.refl s
  · exact Reacts.refl s

/-! ## Meters, soundings, REBASE (R121, R122, R126 to R130) -/

theorem transferResult_reacts (count : Nat) (s : State) : Reacts s (transferResult count s) := by
  unfold transferResult
  dsimp only
  split
  · refine Reacts.trans ?_ (consequences_reacts _ _)
    refine Reacts.trans ?_ (consequences_reacts _ _)
    refine Reacts.trans ?_ (addRaw_reacts _ _ _)
    refine Reacts.trans ?_ (addRaw_reacts _ _ _)
    exact fau_reacts _ s rfl rfl
  · exact Reacts.refl s

theorem transferMeterDead_reacts (s : State) : Reacts s (transferMeterDead s) :=
  Reacts.ite _ fun _ => stopTransfer_reacts _ s

theorem transferNoPulse_reacts (h : Health) (s : State) : Reacts s (transferNoPulse h s) :=
  Reacts.ite _ fun _ => transferMeterDead_reacts s

theorem bunkerResult_reacts (count : Nat) (s : State) : Reacts s (bunkerResult count s) := by
  unfold bunkerResult
  dsimp only
  split
  · refine Reacts.trans ?_ (book_reacts _ _ _)
    exact fau_reacts _ s rfl rfl
  · exact Reacts.refl s

theorem endBunker_reacts (r : EndReason) (s : State) : Reacts s (endBunker r s) := by
  unfold endBunker
  refine Reacts.trans ?_ (topUp_reacts _)
  refine Reacts.trans ?_ (faultIfDead_reacts _ _)
  refine Reacts.trans ?_ (writeEntry_reacts _ (fun _ _ => rfl) _)
  refine Reacts.trans ?_ (setMovement_reacts _ _ _)
  exact fau_reacts _ s rfl rfl

theorem bunkerMeterDead_reacts (s : State) : Reacts s (bunkerMeterDead s) :=
  Reacts.ite _ fun _ => endBunker_reacts _ s

theorem bunkerNoPulse_reacts (h : Health) (s : State) : Reacts s (bunkerNoPulse h s) :=
  Reacts.ite _ fun _ => bunkerMeterDead_reacts s

theorem startBunker_reacts (n : Nat) (s : State) : Reacts s (startBunker n s) := by
  unfold startBunker
  refine Reacts.trans ?_ (setMovement_reacts _ _ _)
  exact fau_reacts _ s rfl rfl

theorem discrepancyCheck_reacts (n v : Nat) (c : TankCfg) (t : Tank) (s : State) :
    Reacts s (discrepancyCheck n v c t s) := by
  unfold discrepancyCheck
  dsimp only
  split
  · exact Reacts.refl s
  · split
    · split
      · refine Reacts.trans ?_ (modTank_reacts _ _ _)
        exact (raiseFlag_reacts _ s).trans (writeEntry_reacts _ (fun _ _ => rfl) _)
      · exact modTank_reacts _ _ s
    · exact modTank_reacts _ _ s

theorem levelResult_reacts (n count elapsed : Nat) (s : State) : Reacts s (levelResult n count elapsed s) := by
  unfold levelResult
  split
  · exact (modTank_reacts n _ s).trans (discrepancyCheck_reacts _ _ _ _ _)
  · exact Reacts.refl s

theorem rebaseTank_reacts (n v : Nat) (t : Tank) (s : State) : Reacts s (rebaseTank n v t s) := by
  unfold rebaseTank
  refine Reacts.trans ?_ (consequences_reacts _ _)
  exact (writeEntry_reacts _ (fun _ _ => rfl) s).trans (modTank_reacts _ _ _)

/-- A bunkering in flight ends, if there is one. -/
theorem endBunker_if_reacts (r : EndReason) (s : State) :
    Reacts s (if s.fau.bunker.running then endBunker r s else s) := Reacts.ite _ fun _ => endBunker_reacts r s

theorem restartFuel_reacts (s : State) : Reacts s (restartFuel s) := by
  unfold restartFuel
  refine Reacts.trans ?_ (topUp_reacts _)
  refine Reacts.trans ?_ (endBunker_if_reacts _ _)
  exact Reacts.ite _ fun _ => stopTransfer_reacts _ s

theorem startFuel_reacts (s : State) : Reacts s (startFuel s) :=
  ((foldl_reacts (fun q n => bandStep_reacts n q) _ s).trans (weightStep_reacts _)).trans (topUp_reacts _)

/-! ## Results delivered to their owners (R139, R149) -/

theorem deliverResult_reacts (k : ChanCfg) (r : Result) (a b : Health) (s : State) :
    Reacts s (deliverResult k r a b s) := by
  unfold deliverResult
  split
  · split
    · unfold deliverDead
      split
      · exact rpmDead_reacts _ s
      · exact estimateNotice_reacts _ s
      · exact angleDead_reacts _ s
      · exact loadDead_reacts _ s
      · exact transferMeterDead_reacts s
      · exact bunkerMeterDead_reacts s
      · exact Reacts.refl s
      · exact Reacts.refl s
    · unfold deliverNoPulse
      split
      · exact flowNoPulse_reacts _ _ s
      · exact transferNoPulse_reacts _ s
      · exact bunkerNoPulse_reacts _ s
      all_goals exact Reacts.refl s
  · unfold deliverGood
    split
    · exact rpmResult_reacts _ _ _ s
    · exact flowResult_reacts _ _ _ s
    · exact angleResult_reacts _ _ _ s
    · exact loadResult_reacts _ _ _ s
    · exact levelResult_reacts _ _ _ s
    · exact transferResult_reacts _ s
    · exact bunkerResult_reacts _ s
    · exact Reacts.refl s

end Sys2Proof.Machine
end

