-- ==== Sys2Proof/Laws/View.lean ====
section
/-!
SUPPORT. The convoy view, the modes, the convoy line and the panel: which of their operations are reactions in the sense
of `Reacts`, and the order of the peer table (R1).
-/

namespace Sys2Proof.Machine

/-! ## Notices, claim, selection, orders (R10 to R20) -/

theorem noticePeers_reacts (s : State) : Reacts s (noticePeers s) :=
  (((recompute_reacts s).trans (stcNotice_reacts _)).trans (settle_reacts _ _)).trans (fuelTotals_reacts _)

theorem noticeOrder_reacts (s : State) : Reacts s (noticeOrder s) := (recompute_reacts s).trans (stcNotice_reacts _)

theorem sendHelm_reacts (s : State) : Reacts s (sendHelm s) := by
  unfold sendHelm
  refine Reacts.trans ?_ (placeHelm_reacts _ _ _)
  exact cvu_reacts _ s rfl

theorem sendYield_reacts (s : State) : Reacts s (sendYield s) := by
  unfold sendYield
  split
  · exact placeHelm_reacts _ _ s
  · exact Reacts.refl s

theorem evalClaim_reacts (s : State) : Reacts s (evalClaim s) := by
  unfold evalClaim
  split
  · exact Reacts.refl s
  · exact setClaim_reacts _ _ s
  · split
    · exact (setClaim_reacts _ _ s).trans (sendYield_reacts _)
    · exact setClaim_reacts _ _ s
  · exact (setClaim_reacts _ _ s).trans (sendHelm_reacts _)
  · exact setClaim_reacts _ _ s
  · exact setClaim_reacts _ _ s

theorem follow_reacts (n : Nat) (s : State) : Reacts s (follow n s) := by
  unfold follow
  split
  · refine Reacts.trans ?_ (noticeOrder_reacts _)
    exact cvu_reacts _ s rfl
  · exact Reacts.refl s

theorem loseHelm_reacts (s : State) : Reacts s (loseHelm s) := by
  unfold loseHelm
  refine Reacts.trans ?_ (raiseFlag_reacts _ _)
  exact cvu_reacts _ s rfl

theorem reselect_reacts (s : State) : Reacts s (reselect s) := by
  unfold reselect
  refine Reacts.trans ?_ (evalClaim_reacts _)
  split
  · exact Reacts.refl s
  · split
    · exact follow_reacts _ s
    · exact loseHelm_reacts s

theorem takeEffective_reacts (d e : Int) (s : State) : Reacts s (takeEffective d e s) := by
  unfold takeEffective
  split
  · exact Reacts.refl s
  · refine Reacts.trans ?_ (noticeOrder_reacts _)
    exact cvu_reacts _ s rfl

theorem passOrders_reacts (own n : Nat) (b c : Baseline) (s : State) : Reacts s (passOrders own n b c s) := by
  have h : Reacts s (if newlyIn own c.releaseSet b.releaseSet then withdrawRelease (.helm n) s else s) :=
    Reacts.ite _ fun _ => withdrawRelease_reacts _ s
  have k (w : State) : Reacts w
      (if newlyIn own b.releaseSet c.releaseSet then releaseRequest (.helm n) w
      else if newlyIn own b.remakeSet c.remakeSet then remakeOrder w else w) := by
    split
    · exact releaseRequest_reacts _ w
    · exact Reacts.ite _ fun _ => remakeOrder_reacts w
  exact h.trans (k _)

theorem examineOrders_reacts (n : Nat) (s : State) : Reacts s (examineOrders n s) := by
  unfold examineOrders
  split
  · split
    · exact Reacts.refl s
    · refine Reacts.trans ?_ (passOrders_reacts _ _ _ _ _)
      exact cvu_reacts _ s rfl
  · exact Reacts.refl s

theorem takeHelm_reacts (n : Nat) (s : State) : Reacts s (takeHelm n s) := by
  unfold takeHelm
  split
  · split
    · exact (takeEffective_reacts _ _ s).trans (examineOrders_reacts _ _)
    · exact Reacts.refl s
  · exact Reacts.refl s

theorem sendHelm_if_reacts (s : State) : Reacts s (if s.cvu.claim = .claiming then sendHelm s else s) :=
  Reacts.ite _ fun _ => sendHelm_reacts s

theorem examineOwn_reacts (s : State) :
    Reacts s (if s.cvu.followed = some s.cfg.station then examineOrders s.cfg.station s else s) :=
  Reacts.ite _ fun _ => examineOrders_reacts _ s

theorem advanceOrder_reacts (s : State) : Reacts s (advanceOrder s) := by
  unfold advanceOrder
  refine Reacts.trans ?_ (examineOwn_reacts _)
  refine Reacts.trans ?_ (sendHelm_if_reacts _)
  exact cvu_reacts _ s rfl

/-! ## Timers of the CVU, and the mute -/

theorem endGrace_reacts (s : State) : Reacts s (endGrace s) := by
  unfold endGrace
  refine Reacts.trans ?_ (noticeOrder_reacts _)
  exact cvu_reacts _ s rfl

theorem mute_reacts (s : State) : Reacts s (mute s) := by
  unfold mute
  exact (shu_reacts _ s).trans (shuNotice_reacts _ _)

theorem setDeparting_reacts (s : State) : Reacts s (setDeparting s) := by
  unfold setDeparting
  exact (shu_reacts _ s).trans (shuNotice_reacts _ _)

/-! ## Arrivals and removals: what follows a change of the table (R2 to R8) -/

theorem tellArrival_reacts (k : FrameKind) (w : Bool) (s : State) : Reacts s (tellArrival k w s) := by
  have h : Reacts s (if carriesStatus k || w then noticePeers (keepSums s) else s) :=
    Reacts.ite _ fun _ => (keepSums_reacts s).trans (noticePeers_reacts _)
  unfold tellArrival
  dsimp only
  split
  · exact h.trans (fuelTotals_reacts _)
  · exact h

/-- After its contents are stored, an arrival only brings about reactions. -/
theorem deliverFrame_reacts (k : FrameKind) (f : RxFrame) (s : State) :
    Reacts (storeFrame k f s) (deliverFrame k f s) := by
  have h := tellArrival_reacts k (wakes (peerOf (RxFrame.sender f) s)) (storeFrame k f s)
  unfold deliverFrame
  dsimp only
  have h2 : Reacts (storeFrame k f s)
      (if (decide (k = .helm) && helmEvent f.payload) || wasLost (peerOf (RxFrame.sender f) s) then
        reselect (tellArrival k (wakes (peerOf (RxFrame.sender f) s)) (storeFrame k f s))
      else tellArrival k (wakes (peerOf (RxFrame.sender f) s)) (storeFrame k f s)) := by
    split
    · exact h.trans (reselect_reacts _)
    · exact h
  split
  · exact h2.trans (takeHelm_reacts _ _)
  · exact h2

/-- The table with one entry less. -/
def withoutPeer (n : Nat) (s : State) : State :=
  { s with cvu := { s.cvu with peers := s.cvu.peers.filter fun p => decide (p.number ≠ n) } }

theorem removePeer_reacts (n : Nat) (s : State) : Reacts (withoutPeer n s) (removePeer n s) := by
  unfold removePeer
  refine Reacts.trans ?_ (noticePeers_reacts _)
  refine Reacts.trans ?_ (reselect_reacts _)
  exact keepSums_reacts (withoutPeer n s)

theorem markStale_reacts (n : Nat) (s : State) :
    Reacts (modPeer n (fun p => { p with state := .stale }) s) (markStale n s) := noticePeers_reacts _

theorem markLost_reacts (n : Nat) (s : State) :
    Reacts (modPeer n (fun p => { p with state := .lost }) s) (markLost n s) := by
  unfold markLost
  refine Reacts.trans ?_ (reselect_reacts _)
  exact (raiseFlag_reacts _ _).trans (noticePeers_reacts _)

/-! ## Modes (R185) -/

theorem noticeMode_reacts (s : State) : Reacts s (noticeMode s) :=
  ((reselect_reacts s).trans (shuNotice_reacts _ _)).trans (stcNotice_reacts _)

theorem enterRunning_reacts (s : State) : Reacts (setMode .running none s) (enterRunning s) :=
  (noticeMode_reacts _).trans (placeAlert_reacts _)

theorem enterSilent_reacts (s : State) : Reacts (setMode .silent none (stopTransmitter s)) (enterSilent s) :=
  noticeMode_reacts _

/-! ## The convoy line (R165 to R175) -/

theorem frameSeen_reacts (s : State) : Reacts s (frameSeen s) := lif_reacts _ s

theorem countCrcError_reacts (s : State) : Reacts s (countCrcError s) := lif_reacts _ s

theorem countMalformed_reacts (s : State) : Reacts s (countMalformed s) := lif_reacts _ s

theorem countReceived_reacts (s : State) : Reacts s (countReceived s) := lif_reacts _ s

theorem discardFrame_reacts (x : RxFault) (s : State) : Reacts s (discardFrame x s) := by
  unfold discardFrame
  split
  · exact (frameSeen_reacts s).trans (countCrcError_reacts _)
  · exact Reacts.ite _ fun _ => (lif_reacts _ s).trans (countCrcError_reacts _)

theorem lineBecomesIdle_reacts (b : Option Nat) (s : State) : Reacts s (lineBecomesIdle b s) :=
  Reacts.ite _ fun _ => (lif_reacts _ s).trans (tryStart_reacts _)

theorem loseArbitration_reacts (x : Tx) (s : State) : Reacts s (loseArbitration x s) := by
  unfold loseArbitration
  split
  · exact Reacts.refl s
  · exact lif_reacts _ s

theorem sealFrame_reacts (x : Tx) (s : State) : Reacts s (sealFrame x s) := by
  unfold sealFrame
  split
  · exact Reacts.refl s
  · exact lif_reacts _ s

theorem recordSend_reacts (s : State) : Reacts s (recordSend s) := by
  unfold recordSend
  refine Reacts.trans ?_ (shuNotice_reacts _ _)
  exact (lif_reacts { s.lif with lastSent := some s.now } s).trans (shu_reacts _ _)

theorem finishSend_reacts (x : Tx) (s : State) : Reacts s (finishSend x s) := by
  unfold finishSend
  dsimp only
  split
  · refine Reacts.trans ?_ (recordSend_reacts _)
    exact lif_reacts _ s
  · exact lif_reacts _ s

theorem suspendIfDue_reacts (s : State) : Reacts s (suspendIfDue s) := by
  unfold suspendIfDue
  split
  · exact (lif_reacts _ s).trans (raiseFlag_reacts _ _)
  · exact Reacts.refl s

theorem abandonFrame_reacts (x : Tx) (s : State) : Reacts s (abandonFrame x s) := by
  unfold abandonFrame
  exact (lif_reacts _ s).trans (suspendIfDue_reacts _)

theorem statusExpired_reacts (s : State) : Reacts s (statusExpired s) := by
  unfold statusExpired
  refine Reacts.trans ?_ (tryStart_reacts _)
  exact (placeStatus_reacts s).trans (lif_reacts _ _)

/-! ## The panel (R194, R195) -/

theorem shuNotice_if_reacts (c : Prop) [Decidable c] (s : State) : Reacts s (if c then shuNotice true s else s) :=
  Reacts.ite _ fun _ => shuNotice_reacts _ s

theorem stcNotice_if_reacts (c : Prop) [Decidable c] (s : State) : Reacts s (if c then stcNotice s else s) :=
  Reacts.ite _ fun _ => stcNotice_reacts s

theorem handOnLever_reacts (p q : Panel) (own : Bool) (s : State) : Reacts s (handOnLever p q own s) := by
  have h := (shuNotice_if_reacts (p.lever ≠ q.lever ∨ p.localMode ≠ q.localMode) s).trans
    (stcNotice_if_reacts (p.tiller ≠ q.tiller ∨ p.localMode ≠ q.localMode) _)
  have k (w : State) : Reacts w
      (if own = true ∧ (p.lever ≠ q.lever ∨ p.tiller ≠ q.tiller) ∧ w.cvu.followed = some w.cfg.station then
        takeEffective q.lever q.tiller w
      else w) := Reacts.ite _ fun _ => takeEffective_reacts _ _ w
  exact h.trans (k _)

theorem handOnClaim_reacts (p q : Panel) (s : State) : Reacts s (handOnClaim p q s) := by
  unfold handOnClaim
  split
  · exact Reacts.refl s
  · exact reselect_reacts s

theorem handOnSets_reacts (p q : Panel) (s : State) : Reacts s (handOnSets p q s) := by
  unfold handOnSets
  split
  · exact Reacts.refl s
  · exact advanceOrder_reacts s

theorem handOnRelease_reacts (p q : Panel) (s : State) : Reacts s (handOnRelease p q s) := by
  unfold handOnRelease
  split
  · exact Reacts.refl s
  · split
    · exact releaseRequest_reacts _ s
    · exact withdrawRelease_reacts _ s

theorem panelAcknowledge_if_reacts (b : Bool) (s : State) : Reacts s (if b then panelAcknowledge s else s) :=
  Reacts.ite _ fun _ => panelAcknowledge_reacts s

theorem handOnCouplings_reacts (p q : Panel) (s : State) : Reacts s (handOnCouplings p q s) := by
  have h := (panelAcknowledge_if_reacts (!p.partedAck && q.partedAck) s).trans (handOnRelease_reacts p q _)
  unfold handOnCouplings
  dsimp only
  split
  · exact h.trans (remakeOwn_reacts _)
  · exact h

/-- Handing on the panel's changed fields only brings about reactions (R194). -/
theorem handOnPanel_reacts (p q : Panel) (own : Bool) (s : State) : Reacts s (handOnPanel p q own s) :=
  (((handOnLever_reacts p q own s).trans (handOnClaim_reacts p q _)).trans (handOnSets_reacts p q _)).trans
    (handOnCouplings_reacts p q _)

/-! ## The peer table keeps its order (R1, R2, R8) -/

theorem insertPeer_numbers (p : Peer) (l : List Peer) : ∀ q ∈ insertPeer p l, q = p ∨ q ∈ l := by
  induction l with
  | nil => simp [insertPeer]
  | cons x xs ih =>
    unfold insertPeer
    split
    · simp
    · intro q hq
      rcases List.mem_cons.1 hq with rfl | h
      · simp
      · rcases ih q h with rfl | h
        · simp
        · simp [h]

/-- A new entry takes its place in ascending station number (R1). -/
theorem insertPeer_sorted {p : Peer} {l : List Peer} (h : (l.map (·.number)).Pairwise (· < ·))
    (hn : ∀ q ∈ l, q.number ≠ p.number) : ((insertPeer p l).map (·.number)).Pairwise (· < ·) := by
  induction l with
  | nil => simp [insertPeer]
  | cons x xs ih =>
    simp only [List.map_cons, List.pairwise_cons] at h
    unfold insertPeer
    split
    · rename_i hlt
      simp only [List.map_cons, List.pairwise_cons]
      refine ⟨?_, h.1, h.2⟩
      intro b hb
      rcases List.mem_cons.1 hb with rfl | hb
      · exact hlt
      · exact hlt.trans (h.1 b hb)
    · rename_i hge
      simp only [List.map_cons, List.pairwise_cons]
      refine ⟨?_, ih h.2 fun q hq => hn q (List.mem_cons_of_mem _ hq)⟩
      intro b hb
      obtain ⟨q, hq, rfl⟩ := List.mem_map.1 hb
      rcases insertPeer_numbers p xs q hq with rfl | hq
      · have := hn x List.mem_cons_self
        omega
      · exact h.1 _ (List.mem_map.2 ⟨q, hq, rfl⟩)

theorem peersOk_insert {own : Nat} {p : Peer} {l : List Peer} (h : PeersOk own l) (hn : ∀ q ∈ l, q.number ≠ p.number)
    (h1 : 1 ≤ p.number) (h6 : p.number ≤ 6) (ho : p.number ≠ own) : PeersOk own (insertPeer p l) :=
  ⟨insertPeer_sorted h.1 hn, fun q hq => (insertPeer_numbers p l q hq).elim (fun e => e ▸ ⟨h1, h6, ho⟩) (h.2 q)⟩

/-- An entry changed without its number keeps the table in order. -/
theorem peersOk_mod {own : Nat} {l : List Peer} (h : PeersOk own l) {f : Peer → Peer}
    (hf : ∀ p, (f p).number = p.number) (n : Nat) :
    PeersOk own (l.map fun p => if p.number = n then f p else p) := by
  have e : ∀ p : Peer, (if p.number = n then f p else p).number = p.number := by
    intro p
    split
    · exact hf p
    · rfl
  constructor
  · rw [List.map_map, show ((·.number) ∘ fun p : Peer => if p.number = n then f p else p) = (·.number) from funext e]
    exact h.1
  · intro q hq
    obtain ⟨p, hp, rfl⟩ := List.mem_map.1 hq
    simp only [e]
    exact h.2 p hp

theorem peersOk_filter {own : Nat} {l : List Peer} (h : PeersOk own l) (f : Peer → Bool) : PeersOk own (l.filter f) :=
  ⟨h.1.sublist (List.filter_sublist.map _), fun p hp => h.2 p (List.mem_filter.1 hp).1⟩

@[simp] theorem storeParts_number (k : FrameKind) (f : RxFrame) (now : Nat) (p : Peer) :
    (storeParts k f now p).number = p.number := by
  cases k
  · rfl
  · simp only [storeParts]
    split <;> rfl
  · simp only [storeParts, keepSequence]
    split <;> rfl
  · rfl

/-- A frame from a station other than the own one keeps the table in order (R1, R2). -/
theorem storeFrame_peersOk {k : FrameKind} {f : RxFrame} {s : State} (h : PeersOk s.cfg.station s.cvu.peers)
    (h1 : 1 ≤ RxFrame.sender f) (h6 : RxFrame.sender f ≤ 6) (ho : RxFrame.sender f ≠ s.cfg.station) :
    PeersOk s.cfg.station (storeFrame k f s).cvu.peers := by
  have ha : PeersOk s.cfg.station (admitPeer (RxFrame.sender f) s).cvu.peers := by
    unfold admitPeer
    split
    · exact h
    · rename_i hnone
      refine peersOk_insert h ?_ h1 h6 ho
      intro q hq e
      have := List.find?_eq_none.1 hnone q hq
      simp only [decide_eq_true_eq] at this
      exact this (e.trans (by simp [newPeer]))
  exact peersOk_mod ha (fun p => by simp [refreshPeer]) _

/-! ## The receiver and the share outside RUNNING (R43, R165, R176) -/

/-- While the receiver waits for an idle line a frame changes nothing (R165, R176). -/
theorem receiveFrame_waiting {kind : Nat} {f : RxFrame} {s : State} (h : assembling s = false) :
    receiveFrame kind f s = s := by simp [receiveFrame, h]

/-- While the receiver waits for an idle line a failure is counted for the part of a frame it saw in mid-frame alone
(R176). -/
theorem discardFrame_waiting {x : RxFault} {s : State} (h : assembling s = false) :
    discardFrame x s = if receiverOn s.svp.mode && s.lif.midFrame then failPart s else s := by
  simp [discardFrame, h]

/-- Outside RUNNING every target is 0 (R43). -/
theorem shareResult_notRunning {s : State} (h : s.svp.mode ≠ .running) :
    (shareResult s).targets = List.replicate (availabilities s).length 0 := by
  simp [shareResult, localApplied, contributes, h, noShare]

end Sys2Proof.Machine
end

