-- ==== Sys2Proof/Laws/Exec.lean ====
section
/-!
SUPPORT. What the commands can do, said once for each class: an event whose effect is a reaction, a request whose effect is
a reaction with its reply, a gauge event, and the commands that change the peer table, the panel, the mode or the
configuration.
-/

namespace Sys2Proof.Machine

/-! ## Replies and gauges beside a reaction -/

/-- The reply held becomes another. -/
def withReply (r : Reply) (s : State) : State := { s with svp := { s.svp with reply := r } }

/-- The gauge records become others. -/
def withPgu (g : Pgu) (s : State) : State := { s with pgu := g }

theorem Reacts.withReply {s t : State} (h : Reacts s t) (r : Reply) :
    Reacts (Machine.withReply r s) (Machine.withReply r t) :=
  { h with svp := by simp only [Machine.withReply]; rw [h.svp] }

theorem Reacts.withPgu {s t : State} (h : Reacts s t) (g : Pgu) : Reacts (Machine.withPgu g s) (Machine.withPgu g t) :=
  { h with pgu := rfl }

/-- A request's effect: a reaction, and then a reply. -/
def Answers (s u : State) : Prop := ∃ t r, Reacts s t ∧ u = withReply r t

theorem replyOk_answers (d : List Byte) (s : State) : Answers s (replyOk d s) := ⟨s, _, Reacts.refl s, rfl⟩

theorem refuse_answers (r : Reason) (s : State) : Answers s (refuse r s) := ⟨s, _, Reacts.refl s, rfl⟩

theorem replyStatus_answers (a : Status) (s : State) : Answers s (replyStatus a s) := ⟨s, _, Reacts.refl s, rfl⟩

theorem okAfter_answers {f : State → State} {s : State} (h : Reacts s (f s)) : Answers s (okAfter f s) :=
  ⟨f s, _, h, rfl⟩

theorem inService_answers {f : State → State} {s : State} (h : Answers s (f s)) : Answers s (inService f s) := by
  unfold inService
  split
  · exact replyStatus_answers _ s
  · exact h

/-! ## Requests whose effect is a reaction -/

theorem transferAnswer_answers (a b : Nat) (r : Option Nat) (s : State) : Answers s (transferAnswer a b r s) := by
  unfold transferAnswer
  split
  · exact refuse_answers _ s
  split
  · exact refuse_answers _ s
  split
  · exact replyStatus_answers _ s
  split
  · exact replyStatus_answers _ s
  split
  · exact refuse_answers _ s
  split
  · exact refuse_answers _ s
  · exact okAfter_answers (startTransfer_reacts _ _ _ _ s)

theorem abortAnswer_answers (s : State) : Answers s (abortAnswer s) := by
  unfold abortAnswer
  split
  · exact okAfter_answers (stopTransfer_reacts _ s)
  · exact refuse_answers _ s

theorem bunkerAnswer_answers (n : Nat) (s : State) : Answers s (bunkerAnswer n s) := by
  unfold bunkerAnswer
  split
  · exact refuse_answers _ s
  split
  · exact refuse_answers _ s
  split
  · exact replyStatus_answers _ s
  split
  · exact replyStatus_answers _ s
  · exact okAfter_answers (startBunker_reacts n s)

theorem bunkerStopAnswer_answers (s : State) : Answers s (bunkerStopAnswer s) := by
  unfold bunkerStopAnswer
  split
  · exact okAfter_answers (endBunker_reacts _ s)
  · exact refuse_answers _ s

theorem rebaseAnswer_answers (n : Nat) (s : State) : Answers s (rebaseAnswer n s) := by
  unfold rebaseAnswer
  split
  · split
    · exact refuse_answers _ s
    · split
      · exact replyStatus_answers _ s
      · exact okAfter_answers (rebaseTank_reacts _ _ _ s)
  · exact refuse_answers _ s

theorem clearPartedAnswer_answers (s : State) : Answers s (clearPartedAnswer s) := by
  unfold clearPartedAnswer
  split
  · exact okAfter_answers (acknowledge_reacts s)
  · exact refuse_answers _ s

theorem retryAnswer_answers (n : Nat) (s : State) : Answers s (retryAnswer n s) := by
  unfold retryAnswer
  split
  · exact refuse_answers _ s
  · split
    · exact refuse_answers _ s
    · split
      · exact refuse_answers _ s
      · exact okAfter_answers (retryRudder_reacts n s)

theorem lineAnswer_answers (n : Nat) (s : State) : Answers s (lineAnswer n s) := by
  unfold lineAnswer
  split
  · exact replyOk_answers _ s
  · exact refuse_answers _ s

/-- The requests that leave the port's own records, the peer table, the gauges and the configuration alone. -/
theorem request_answers {c : Instr} {t : Nat} {s : State}
    (h : c = .depart t ∨ (∃ a b v, c = .transferStart t a b v) ∨ c = .transferAbort t ∨ (∃ n, c = .bunkerStart t n) ∨
      c = .bunkerStop t ∨ (∃ n, c = .rebase t n) ∨ c = .clearParted t ∨ (∃ n, c = .rudderRetry t n) ∨
      c = .readStation t ∨ c = .readPeers t ∨ c = .readShafts t ∨ c = .readRudders t ∨ c = .readWinches t ∨
      c = .readTanks t ∨ c = .readGauges t ∨ (∃ n, c = .readJournal t n) ∨ (∃ n, c = .readLine t n)) :
    ∃ u, exec c s = .next u ∧ Answers (setClock t s) u := by
  rcases h with rfl | ⟨a, b, v, rfl⟩ | rfl | ⟨n, rfl⟩ | rfl | ⟨n, rfl⟩ | rfl | ⟨n, rfl⟩ | rfl | rfl | rfl | rfl | rfl |
    rfl | rfl | ⟨n, rfl⟩ | ⟨n, rfl⟩
  · exact ⟨_, rfl, inService_answers (okAfter_answers (setDeparting_reacts _))⟩
  · exact ⟨_, rfl, inService_answers (transferAnswer_answers _ _ _ _)⟩
  · exact ⟨_, rfl, inService_answers (abortAnswer_answers _)⟩
  · exact ⟨_, rfl, inService_answers (bunkerAnswer_answers _ _)⟩
  · exact ⟨_, rfl, inService_answers (bunkerStopAnswer_answers _)⟩
  · exact ⟨_, rfl, inService_answers (rebaseAnswer_answers _ _)⟩
  · exact ⟨_, rfl, inService_answers (clearPartedAnswer_answers _)⟩
  · exact ⟨_, rfl, inService_answers (retryAnswer_answers _ _)⟩
  · exact ⟨_, rfl, replyOk_answers _ _⟩
  · exact ⟨_, rfl, replyOk_answers _ _⟩
  · exact ⟨_, rfl, replyOk_answers _ _⟩
  · exact ⟨_, rfl, replyOk_answers _ _⟩
  · exact ⟨_, rfl, replyOk_answers _ _⟩
  · exact ⟨_, rfl, replyOk_answers _ _⟩
  · exact ⟨_, rfl, replyOk_answers _ _⟩
  · exact ⟨_, rfl, replyOk_answers _ _⟩
  · exact ⟨_, rfl, lineAnswer_answers _ _⟩

/-! ## Events whose effect is a reaction -/

/-- A choice between a reaction and no change. -/
theorem next_ite {s t : State} (c : Prop) [Decidable c] (h : Reacts s t) :
    ∃ u, (if c then Host.Outcome.next t else Host.Outcome.next s : Host.Outcome State Fault Refusal) = .next u ∧
      Reacts s u := by
  split
  · exact ⟨t, rfl, h⟩
  · exact ⟨s, rfl, Reacts.refl s⟩

/-- A write broken off, and the events of the convoy line. -/
theorem lineEvent_reacts {c : Instr} {t : Nat} {s : State}
    (h : c = .writeBrokenOff t ∨
      (∃ x, c = .crcError t x) ∨
      (∃ b, c = .lineIdle ⟨t, b⟩) ∨
      c = .arbitrationLost t ∨
      c = .arbitrationComplete t ∨
      c = .sentSuccessfully t ∨
      c = .transmitError t ∨
      c = .suspensionExpiry t ∨
      c = .statusTimerExpiry t) :
    ∃ u, exec c s = .next u ∧ Reacts (setClock t s) u := by
  rcases h with rfl | ⟨x, rfl⟩ | ⟨b, rfl⟩ | rfl | rfl | rfl | rfl | rfl | rfl
  · exact ⟨_, rfl, Reacts.refl _⟩
  · exact ⟨_, rfl, discardFrame_reacts _ _⟩
  · exact ⟨_, rfl, lineBecomesIdle_reacts _ _⟩
  · simp only [exec, execArbitrationLost]
    split
    · exact ⟨_, rfl, loseArbitration_reacts _ _⟩
    · exact ⟨_, rfl, Reacts.refl _⟩
  · simp only [exec, execArbitrationComplete]
    split
    · exact ⟨_, rfl, sealFrame_reacts _ _⟩
    · exact ⟨_, rfl, Reacts.refl _⟩
  · simp only [exec, execSentSuccessfully]
    split
    · exact next_ite _ (finishSend_reacts _ _)
    · exact ⟨_, rfl, Reacts.refl _⟩
  · simp only [exec, execTransmitError]
    split
    · exact ⟨_, rfl, abandonFrame_reacts _ _⟩
    · exact ⟨_, rfl, Reacts.refl _⟩
  · simp only [exec, execSuspensionExpiry]
    exact next_ite _ ((lif_reacts _ _).trans (tryStart_reacts _))
  · exact next_ite _ (statusExpired_reacts _)

/-- The timers of the view, the mute and the fuel period. -/
theorem viewTimer_reacts {c : Instr} {t : Nat} {s : State}
    (h : c = .helmPeriodExpiry t ∨
      c = .graceExpiry t ∨
      c = .muteExpiry t ∨
      c = .fuelPeriodExpiry t) :
    ∃ u, exec c s = .next u ∧ Reacts (setClock t s) u := by
  rcases h with rfl | rfl | rfl | rfl
  · simp only [exec, execHelmPeriodExpiry]
    refine next_ite _ ?_
    refine Reacts.trans ?_ (sendHelm_reacts _)
    exact cvu_reacts _ _ rfl
  · exact next_ite _ (endGrace_reacts _)
  · exact next_ite _ (mute_reacts _)
  · simp only [exec, execFuelPeriodExpiry]
    refine next_ite _ ?_
    refine Reacts.trans ?_ (placeFuel_reacts _)
    exact fau_reacts _ _ rfl rfl

/-- The timers of shafts and rudders. -/
theorem shaftTimer_reacts {c : Instr} {t : Nat} {s : State}
    (h : (∃ n, c = .dwellExpiry t n) ∨
      (∃ n, c = .deviationExpiry t n) ∨
      (∃ n, c = .stallExpiry t n)) :
    ∃ u, exec c s = .next u ∧ Reacts (setClock t s) u := by
  rcases h with ⟨n, rfl⟩ | ⟨n, rfl⟩ | ⟨n, rfl⟩
  · simp only [exec, execDwellExpiry]
    split
    · exact next_ite _ (actShaft_reacts n _ (fun _ => by exact le_rfl) _)
    · exact ⟨_, rfl, Reacts.refl _⟩
  · simp only [exec, execDeviationExpiry]
    split
    · exact next_ite _ (deviationExpired_reacts _ _ _)
    · exact ⟨_, rfl, Reacts.refl _⟩
  · simp only [exec, execStallExpiry]
    split
    · exact next_ite _ (stallRudder_reacts _ _)
    · exact ⟨_, rfl, Reacts.refl _⟩

/-- The timers of the winches and of a pull-off. -/
theorem winchTimer_reacts {c : Instr} {t : Nat} {s : State}
    (h : (∃ n, c = .haulTimeoutExpiry t n) ∨
      (∃ n, c = .haulPulseExpiry t n) ∨
      (∃ n, c = .releaseWaitExpiry t n) ∨
      (∃ n, c = .releaseHoldExpiry t n) ∨
      c = .pullOffTimerExpiry t) :
    ∃ u, exec c s = .next u ∧ Reacts (setClock t s) u := by
  rcases h with ⟨n, rfl⟩ | ⟨n, rfl⟩ | ⟨n, rfl⟩ | ⟨n, rfl⟩ | rfl
  · exact ⟨_, rfl, winchExpiry_reacts _ _ (fun _ => timeOutHaul) _ (fun _ w h => by simp [timeOutHaul] at h)
      (raiseFlag_reacts _) _⟩
  · exact ⟨_, rfl, winchExpiry_reacts _ _ (fun _ => endPulse) id (fun _ _ h => by exact h) Reacts.refl _⟩
  · exact ⟨_, rfl, winchExpiry_reacts _ _ (enterHolding _) id (fun _ _ h => by exact h) Reacts.refl _⟩
  · exact ⟨_, rfl, winchExpiry_reacts _ _ (fun _ => endHold) id (fun _ w h => by simp [endHold] at h) Reacts.refl _⟩
  · exact next_ite _ (pullOffTimeout_reacts _)

/-! ## The control step (R47, R48) -/

/-- After the ramp of its one shaft a control step only brings about reactions. -/
theorem rampStep_reacts (n : Nat) (c : ShaftCfg) (r : Shaft) (s : State) :
    Reacts (modShaft n (stepShaft s c) s) (burnHandOn n (rampStep n c r s)) :=
  ((shaftOutputs_reacts _ _ _ _).trans (handOn_reacts _ _ _)).trans (burnHandOn_reacts _ _)

/-! ## Gauge events (R141 to R148) -/

@[simp] theorem withPgu_pgu (g : Pgu) (s : State) : (withPgu g s).pgu = g := rfl

theorem modChan_withPgu (n : Nat) (f : Chan → Chan) (s : State) :
    modChan n f s = withPgu { s.pgu with chans := modN s.pgu.chans n f } s := rfl

theorem takeOnce_withPgu (s : State) : ∃ g, takeOnce s = withPgu g s := by
  unfold takeOnce
  split
  · exact ⟨_, rfl⟩
  · exact ⟨s.pgu, rfl⟩

theorem takeAll_withPgu (s : State) : ∃ g, takeAll s = withPgu g s := by
  unfold takeAll
  exact repeat_keeps (R := fun a b => ∃ g, b = withPgu g a) (fun s => ⟨s.pgu, rfl⟩)
    (fun {a b c} ⟨g, hg⟩ ⟨k, hk⟩ => ⟨k, by rw [hk, hg]; rfl⟩) takeOnce_withPgu 6 s

theorem requestChan_withPgu (n : Nat) (r : ReqState) (s : State) : ∃ g, requestChan n r s = withPgu g s := by
  cases r
  · obtain ⟨g, hg⟩ := takeAll_withPgu (joinQueue n s)
    exact ⟨g, hg⟩
  · exact ⟨_, rfl⟩
  · exact ⟨_, rfl⟩

theorem intervalExpired_withPgu (n : Nat) (k : ChanCfg) (r : Chan) (s : State) :
    ∃ g, intervalExpired n k r s = withPgu g s := by
  obtain ⟨g, hg⟩ := requestChan_withPgu n r.req
    (modChan n (fun c => { c with intervalAt := restartTimer k.interval c.intervalAt }) s)
  exact ⟨g, hg⟩

/-- A result: the gauge records change, and beside them only a reaction of the owner happens (R148). -/
theorem makeResult_reacts (e n : Nat) (r : Result) (s : State) :
    ∃ g, Reacts (withPgu g s) (makeResult e n r s) := by
  unfold makeResult
  split
  · rename_i k c hk hc
    dsimp only
    obtain ⟨g, hg⟩ := takeAll_withPgu (setEngine e none (modChan n (fun q => { q with req := .idle })
      (deliverResult k r c.health (judgeHealth k.deadCount r.outcome c).health
        (modChan n (fun _ => { judgeHealth k.deadCount r.outcome c with last := some (r.outcome, s.now) }) s))))
    rw [hg]
    refine ⟨g, ?_⟩
    exact (deliverResult_reacts k r c.health (judgeHealth k.deadCount r.outcome c).health
      (modChan n (fun _ => { judgeHealth k.deadCount r.outcome c with last := some (r.outcome, s.now) }) s)).withPgu g
  · exact ⟨s.pgu, Reacts.refl s⟩

theorem applyEdge_reacts (e n : Nat) (x : Meas ⊕ Result) (s : State) : ∃ g, Reacts (withPgu g s) (applyEdge e n x s) := by
  cases x with
  | inl m => exact ⟨_, Reacts.refl _⟩
  | inr r => exact makeResult_reacts e n r s

/-- A gauge event changes the gauge records, and beside them only a reaction of the owner happens. -/
theorem gauge_reacts {c : Instr} {t : Nat} {s : State}
    (h : (∃ n, c = .intervalExpiry t n) ∨ (∃ n e, c = .periodEdge t n e) ∨ (∃ n e, c = .dutyEdge t n e) ∨
      (∃ n, c = .periodWindowExpiry t n) ∨ (∃ n, c = .dutyWindowExpiry t n)) :
    ∃ u g, exec c s = .next u ∧ Reacts (withPgu g (setClock t s)) u := by
  have none (s : State) : ∃ u g, (Host.Outcome.next s : Host.Outcome State Fault Refusal) = .next u ∧
      Reacts (withPgu g s) u := ⟨s, s.pgu, rfl, Reacts.refl s⟩
  have some {s u : State} (h : ∃ g, Reacts (withPgu g s) u) :
      ∃ v g, (Host.Outcome.next u : Host.Outcome State Fault Refusal) = .next v ∧ Reacts (withPgu g s) v := by
    obtain ⟨g, hg⟩ := h
    exact ⟨u, g, rfl, hg⟩
  rcases h with ⟨n, rfl⟩ | ⟨n, e, rfl⟩ | ⟨n, e, rfl⟩ | ⟨n, rfl⟩ | ⟨n, rfl⟩
  · simp only [exec, execIntervalExpiry]
    split
    · split
      · obtain ⟨g, hg⟩ := intervalExpired_withPgu n (by assumption) (by assumption) (setClock t s)
        exact some ⟨g, hg ▸ Reacts.refl _⟩
      · exact none _
    · exact none _
  · simp only [exec, execPeriodEdge]
    split
    · split
      · exact some (applyEdge_reacts _ _ _ _)
      · exact none _
    · exact none _
  · simp only [exec, execDutyEdge]
    split
    · split
      · exact some (applyEdge_reacts _ _ _ _)
      · exact none _
    · exact none _
  · simp only [exec, execPeriodWindowExpiry]
    split
    · split
      · exact some (makeResult_reacts _ _ _ _)
      · exact none _
    · exact none _
  · simp only [exec, execDutyWindowExpiry]
    split
    · split
      · exact some (makeResult_reacts _ _ _ _)
      · exact none _
    · exact none _

/-! ## START and RESTART: what follows the records they set -/

theorem startChan_withPgu (s : State) (n : Nat) : ∃ g, startChan s n = withPgu g s := by
  unfold startChan
  split
  · split
    · exact ⟨_, rfl⟩
    · exact ⟨s.pgu, rfl⟩
  · exact ⟨s.pgu, rfl⟩

theorem startChans_withPgu (s : State) : ∃ g, startChans s = withPgu g s := by
  obtain ⟨g, hg⟩ := foldl_keeps (R := fun a b => ∃ g, b = withPgu g a) (fun s => ⟨s.pgu, rfl⟩)
    (fun {a b c} ⟨g, hg⟩ ⟨k, hk⟩ => ⟨k, by rw [hk, hg]; rfl⟩) startChan_withPgu (numbers 24) s
  obtain ⟨k, hk⟩ := takeAll_withPgu ((numbers 24).foldl startChan s)
  exact ⟨k, by rw [startChans, hk, hg]; rfl⟩

theorem firstWrites_reacts (s : State) : Reacts s (firstWrites s) :=
  (foldl_reacts (fun q n => writeGovernor_reacts n q) _ s).trans (foldl_reacts (fun q n => writeWinch_reacts n q) _ _)

/-- START accepted: the configuration, the modes and timers, the records, and then only reactions and the gauges'
start (R192). -/
theorem startUp_reacts (c : Cfg) (s : State) :
    ∃ g, Reacts (withPgu g (startRecords (startBase c s))) (startUp c s) := by
  have h : Reacts (startRecords (startBase c s))
      (startFuel (stcNotice (settle false (shuNotice true (firstWrites (startRecords (startBase c s))))))) :=
    ((((firstWrites_reacts _).trans (shuNotice_reacts _ _)).trans (settle_reacts _ _)).trans
      (stcNotice_reacts _)).trans (startFuel_reacts _)
  obtain ⟨g, hg⟩ := startChans_withPgu
    (startFuel (stcNotice (settle false (shuNotice true (firstWrites (startRecords (startBase c s)))))))
  exact ⟨g, by rw [startUp, hg]; exact h.withPgu g⟩

/-- RESTART acted on: the records it sets, and then only reactions and the gauges' start (R193). -/
theorem restartAll_reacts (s : State) : ∃ g, Reacts (withPgu g (restartBase s)) (restartAll s) := by
  have h : Reacts (restartBase s)
      (restartFuel (fuelTotals (settle false (stcNotice (shuNotice true (restartBase s)))))) :=
    ((((shuNotice_reacts _ _).trans (stcNotice_reacts _)).trans (settle_reacts _ _)).trans
      (fuelTotals_reacts _)).trans (restartFuel_reacts _)
  obtain ⟨g, hg⟩ := startChans_withPgu
    (restartFuel (fuelTotals (settle false (stcNotice (shuNotice true (restartBase s))))))
  exact ⟨g, by rw [restartAll, hg]; exact h.withPgu g⟩

/-! ## The panel (R194, R195) -/

theorem takePanel_reacts (p : Panel) (s : State) :
    Reacts { s with svp := { s.svp with panel := p, panelState := .current, panelAt := some (s.now + 500) } }
      (takePanel p s) := handOnPanel_reacts _ _ _ _

theorem timeOutPanel_reacts (s : State) :
    Reacts { s with svp := { s.svp with panel := panelTimedOut s.svp.panel, panelState := .timedOut, panelAt := none } }
      (timeOutPanel s) := (raiseFlag_reacts _ _).trans (handOnPanel_reacts _ _ _ _)

/-! ## Every command completes -/

/-- No command faults, and none is refused: every command answers a next state, in every state. -/
theorem exec_next (c : Instr) (s : State) : ∃ t, exec c s = .next t := by
  have ite {a b : State} {p : Prop} [Decidable p] :
      ∃ t, (if p then Host.Outcome.next a else Host.Outcome.next b : Host.Outcome State Fault Refusal) = .next t := by
    split <;> exact ⟨_, rfl⟩
  cases c
  case arbitrationLost t => simp only [exec, execArbitrationLost]; split <;> exact ⟨_, rfl⟩
  case arbitrationComplete t => simp only [exec, execArbitrationComplete]; split <;> exact ⟨_, rfl⟩
  case sentSuccessfully t => simp only [exec, execSentSuccessfully]; split <;> first | exact ite | exact ⟨_, rfl⟩
  case transmitError t => simp only [exec, execTransmitError]; split <;> exact ⟨_, rfl⟩
  case suspensionExpiry t => exact ite
  case statusTimerExpiry t => exact ite
  case helmPeriodExpiry t => exact ite
  case staleExpiry t n => simp only [exec, execStaleExpiry]; split <;> first | exact ite | exact ⟨_, rfl⟩
  case lostExpiry t n => simp only [exec, execLostExpiry]; split <;> first | exact ite | exact ⟨_, rfl⟩
  case helmAgeExpiry t n => simp only [exec, execHelmAgeExpiry]; split <;> first | exact ite | exact ⟨_, rfl⟩
  case graceExpiry t => exact ite
  case muteExpiry t => exact ite
  case controlStep t n => simp only [exec, execControlStep]; split <;> first | exact ite | exact ⟨_, rfl⟩
  case dwellExpiry t n => simp only [exec, execDwellExpiry]; split <;> first | exact ite | exact ⟨_, rfl⟩
  case deviationExpiry t n => simp only [exec, execDeviationExpiry]; split <;> first | exact ite | exact ⟨_, rfl⟩
  case stallExpiry t n => simp only [exec, execStallExpiry]; split <;> first | exact ite | exact ⟨_, rfl⟩
  case pullOffTimerExpiry t => exact ite
  case fuelPeriodExpiry t => exact ite
  case intervalExpiry t n => simp only [exec, execIntervalExpiry]; split <;> first | exact ite | exact ⟨_, rfl⟩
  case periodEdge t n e => simp only [exec, execPeriodEdge]; split <;> first | exact ite | exact ⟨_, rfl⟩
  case dutyEdge t n e => simp only [exec, execDutyEdge]; split <;> first | exact ite | exact ⟨_, rfl⟩
  case periodWindowExpiry t n =>
    simp only [exec, execPeriodWindowExpiry]; split <;> first | exact ite | exact ⟨_, rfl⟩
  case dutyWindowExpiry t n => simp only [exec, execDutyWindowExpiry]; split <;> first | exact ite | exact ⟨_, rfl⟩
  case periodStart t => exact ite
  case joinTimerExpiry t => exact ite
  case panelTimeout t => exact ite
  all_goals exact ⟨_, rfl⟩

/-- Every step answers a next state. -/
theorem step_next (s : State) : ∃ t, step s = .next t := by
  unfold step
  split
  · exact ⟨_, rfl⟩
  · exact exec_next _ _

end Sys2Proof.Machine
end

