-- ==== Sys2Proof/Laws/InForce.lean ====
section
/-!
SUPPORT. What a shared operation leaves, each said once: the transmitter offered the line (R165, R170), the bytes of an own
STATUS or ALERT (R167, R200), the steering figures after a notice to the STC (R66 to R71); and the candidates of R14 as the
model's list of them holds them.
-/

namespace Sys2Proof.Machine

/-! ## The start of a transmission (R165, R170) -/

theorem ownStart_iff (s : State) (b : Nat) : ownStart s = some b ↔ OwnStartBit b s := by
  unfold ownStart OwnStartBit nextBitTime Config.bitTime
  rcases s.lif.lineIdle with _ | ⟨since, _ | o⟩ <;> simp [eq_comm]
  exact ⟨fun h => ⟨h.2, h.2 ▸ h.1⟩, fun h => ⟨h.1 ▸ h.2, h.1⟩⟩

theorem mayStart_iff (s : State) :
    mayStart s = true ↔ (s.svp.mode = .joining ∨ s.svp.mode = .running) ∧ s.lif.listening = false ∧
      s.lif.suspendedAt = none ∧ s.lif.tx = none := by
  simp only [mayStart, Bool.and_eq_true, Option.isNone_iff_eq_none, Bool.not_eq_true']
  cases s.svp.mode <;> simp [transmitterOn, and_assoc]

/-- Where a slot is filled and every lower class empty, that slot is the lowest; with all four empty there is none. -/
theorem lowestSlot_eq {l : Lif} {k : FrameKind} {p : List Byte} (h : LowestFrame k p l) :
    lowestSlot l = some (k, p) := by
  obtain ⟨hk, hlow⟩ := h
  have ha := hlow .alert
  have hh := hlow .helm
  have hs := hlow .status
  cases k <;> simp_all [slotOf, lowestSlot, FrameKind.cls]

theorem lowestSlot_none {l : Lif} (h : ∀ j, slotOf j l = none) : lowestSlot l = none := by
  have ha := h .alert
  have hh := h .helm
  have hs := h .status
  have hf := h .fuel
  simp_all [slotOf, lowestSlot]

/-- All that offering the transmitter the line can do. -/
theorem tryStart_offers (s : State) : OffersLine s (tryStart s) := by
  refine ⟨fun b k p hm hb hk => ?_, fun h => ?_⟩
  · rw [tryStart, if_pos ((mayStart_iff s).2 hm), (ownStart_iff s b).2 hb, lowestSlot_eq hk]
  · by_cases hm : mayStart s = true
    · rcases h with h | h | h
      · exact absurd ((mayStart_iff s).1 hm) h
      · have hn : ownStart s = none := Option.eq_none_iff_forall_ne_some.2 fun b hb => h b ((ownStart_iff s b).1 hb)
        rw [tryStart, if_pos hm, hn]
      · rw [tryStart, if_pos hm, lowestSlot_none h]
        cases ownStart s <;> rfl
    · rw [tryStart, if_neg hm]

@[simp] theorem setSlot_tx (k : FrameKind) (v : Option (List Byte)) (l : Lif) : (setSlot k v l).tx = l.tx := by
  cases k <;> rfl

theorem lowestSlot_placed (k : FrameKind) (p : List Byte) (l : Lif) :
    ∃ f, lowestSlot (setSlot k (some p) l) = some f := by
  cases k <;> cases ha : l.slotAlert <;> cases hh : l.slotHelm <;> cases hs : l.slotStatus <;>
    exact ⟨_, by unfold lowestSlot setSlot; simp [*]; rfl⟩

/-- All that a placement can do to a frame already chosen: before its start bit the choice is made again, after it the copy
stays (R169, R170). -/
theorem placeFrame_tx {s : State} {x : Tx} (k : FrameKind) (p : List Byte) (hm : transmitterOn s.svp.mode = true)
    (hx : s.lif.tx = some x) :
    placeFrame k p s = { s with
      lif := { setSlot k (some p) s.lif with tx := txAfterPlacement s.clock k (setSlot k (some p) s.lif) } } := by
  have hs : ∃ y, txAfterPlacement s.clock k (setSlot k (some p) s.lif) = some y := by
    obtain ⟨f, hf⟩ := lowestSlot_placed k p s.lif
    simp only [txAfterPlacement, setSlot_tx, hx, hf]
    split <;> exact ⟨_, rfl⟩
  obtain ⟨y, hy⟩ := hs
  simp [placeFrame, hm, tryStart, mayStart, hy]

/-! ## Own frames (R167, R200) -/

theorem byte_ofNat (x : Nat) : (BitVec.ofNat 8 x).toNat = x % 256 := by simp

/-- The direction byte of shaft `n`, read back. -/
theorem shaftDirByte_eq (n : Nat) (s : State) :
    shaftDirByte n s % 256 =
      match getN s.sfc n with
      | some r => (match r.dir with | .neutral => 0 | .ahead => 1 | .astern => 2 | .dwell => 3)
      | none => 0 := by
  unfold shaftDirByte
  cases getN s.sfc n with
  | none => rfl
  | some r => cases h : r.dir <;> simp [dirCode, h]

/-- The payload of an own STATUS or ALERT says what the state holds. -/
theorem statusPayload_bytes (s : State) : StatusBytes (statusPayload s) s := by
  simp only [StatusBytes, statusPayload, be, List.cons_append, List.nil_append, u16, u8, List.getD_cons_zero,
    List.getD_cons_succ, byte_ofNat, pow_zero, pow_one, Nat.div_one, shaftDirByte_eq, Cfg.ratedTotal]
  and_intros <;>
    first
    | trivial
    | rfl
    | omega
    | (cases s.svp.mode <;> rfl)
    | (cases s.cpc.summary <;> rfl)
    | (cases s.shu.contributing <;> cases s.shu.departing <;> cases s.cpc.parted <;> rfl)

/-! ## The STC (R66 to R71) -/

/-- The own live authority is the sum over the own rudders. -/
theorem liveAuthority_eq : ∀ (cs : List ShaftCfg) (rs : List Rudder) (hs : List Shaft),
    liveAuthority cs rs hs =
      ((List.zip cs (List.zip rs hs)).map fun x =>
        if x.2.1.state = .following ∧ x.2.2.dir ≠ .astern then x.1.gRud else 0).sum
  | [], _, _ => by simp [liveAuthority]
  | _ :: _, [], _ => by simp [liveAuthority]
  | _ :: _, _ :: _, [] => by simp [liveAuthority]
  | c :: cs, r :: rs, h :: hs => by simp [liveAuthority, liveGain, liveAuthority_eq cs rs hs]

/-- A record changed by its own configuration item. -/
theorem getN_mapWith {κ α : Type} (f : κ → α → α) : ∀ (ks : List κ) (xs : List α) (n : Nat),
    getN (mapWith f ks xs) n =
      match getN ks n with
      | some k => (getN xs n).map (f k)
      | none => getN xs n
  | _, _, 0 => by simp [getN]
  | [], _, n + 1 => by simp [getN, mapWith]
  | _ :: _, [], n + 1 => by simp only [getN, mapWith]; split <;> simp
  | k :: ks, x :: xs, 1 => by simp [getN, mapWith]
  | k :: ks, x :: xs, n + 2 => by simpa [getN, mapWith] using getN_mapWith f ks xs (n + 1)

theorem aimRudder_state (b : Bool) (x y : Int) (k : Nat) (c : ShaftCfg) (r : Rudder) :
    (aimRudder b x y k c r).state = r.state := by unfold aimRudder; split <;> rfl

/-- Aiming the rudders leaves what their own live authority is summed over. -/
theorem zip_aim (b : Bool) (x y : Int) (k : Nat) (g : ShaftCfg → RudderState → Shaft → Nat) :
    ∀ (ks : List ShaftCfg) (cs : List ShaftCfg) (rs : List Rudder) (hs : List Shaft),
      ((List.zip cs (List.zip (mapWith (aimRudder b x y k) ks rs) hs)).map fun z => g z.1 z.2.1.state z.2.2) =
        (List.zip cs (List.zip rs hs)).map fun z => g z.1 z.2.1.state z.2.2
  | [], _, _, _ => by simp [mapWith]
  | _ :: _, _, [], _ => by simp [mapWith]
  | _ :: _, [], _ :: _, _ => by simp
  | _ :: _, _ :: _, _ :: _, [] => by simp
  | k1 :: ks, c :: cs, r :: rs, h :: hs => by
    simp [mapWith, aimRudder_state, zip_aim b x y k g ks cs rs hs]

theorem getN_map {α β : Type} (f : α → β) (l : List α) (n : Nat) : getN (l.map f) n = (getN l n).map f := by
  cases n <;> simp [getN]

theorem serveRudder_state (o : Bool) (r : Rudder) :
    ((serveRudder o r).state = .following → o = true) ∧ ((serveRudder o r).state = .parked → o = false) := by
  unfold serveRudder
  cases h : r.state <;> cases o <;> simp [h]

/-- A notice to the STC leaves the steering figures that the inputs in force give. -/
theorem stcNotice_inForce (s : State) : SteeringInForce (stcNotice s) := by
  refine ⟨?_, ?_, ?_, ?_⟩
  · simp only [stcNotice]
    rw [liveAuthority_eq]
    exact congrArg List.sum (zip_aim _ _ _ _ (fun c st h => if st = .following ∧ h.dir ≠ .astern then c.gRud else 0) _ _ _ _).symm
  · simp only [stcNotice, convoyLive]
    refine congrArg₂ (· + ·) rfl (congrArg List.sum (List.map_congr_left fun p _ => ?_))
    unfold peerLive counted
    cases p.statusPart with
    | none => rfl
    | some st => cases p.state <;> simp [Nat.min_comm]
  · simp only [stcNotice, compensation, clampNat]
    rfl
  · intro n r h
    simp only [stcNotice] at h ⊢
    rw [getN_mapWith, getN_map] at h
    have hs : ∃ r₀, r.state = (serveRudder (steeringOrder s) r₀).state := by
      cases hr : getN s.stc.rudders n <;> cases hc : getN s.cfg.shafts n <;> simp [hr, hc] at h
      all_goals exact ⟨_, by rw [← h]; first | done | exact aimRudder_state ..⟩
    obtain ⟨r₀, hr₀⟩ := hs
    refine ⟨?_, ?_, ?_⟩
    · intro hf
      simpa [steeringOrder, localApplied] using (serveRudder_state (steeringOrder s) r₀).1 (by rw [← hr₀]; exact hf)
    · intro hf
      simpa [steeringOrder, localApplied] using (serveRudder_state (steeringOrder s) r₀).2 (by rw [← hr₀]; exact hf)
    · intro c hc hf
      cases hr : getN s.stc.rudders n <;> simp [hr, hc] at h
      rw [← h, aimRudder_state] at hf
      rw [← h, aimRudder, if_pos hf]
      show (if s.shu.contributing = true then _ else _) = _
      by_cases hb : s.shu.contributing = true <;> simp [hb, setPointOf, clampInt, Int.mul_right_comm]

/-! ## The selection of the followed claimant (R10, R14) -/

theorem eligible_iff (s : State) : claimEligible s = true ↔ Eligible s := by
  simp [claimEligible, Eligible, and_assoc]

theorem peerCandidate_iff (p : Peer) (c : Candidate) :
    peerCandidate p = some c ↔
      ∃ h, p.helmPart = some h ∧ p.state ≠ .lost ∧ h.expired = false ∧ h.yielded = false ∧
        c = { rank := h.rank, number := p.number } := by
  unfold peerCandidate
  cases p.helmPart with
  | none => simp
  | some h =>
    cases hs : p.state <;> simp [counted, hs, and_assoc] <;> exact fun _ _ => eq_comm

/-- The candidate set of R14 is the model's list of candidates. -/
theorem helmCandidate_iff (s : State) (r n : Nat) :
    HelmCandidate s r n ↔ { rank := r, number := n } ∈ candidates s := by
  simp only [HelmCandidate, candidates, List.mem_append, List.mem_filterMap, peerCandidate_iff, ← eligible_iff]
  constructor
  · rintro (⟨he, rfl, rfl⟩ | ⟨p, h, hp, rfl, hl, hh, hx, hy, rfl⟩)
    · simp [he]
    · exact .inr ⟨p, hp, h, hh, hl, hx, hy, rfl⟩
  · rintro (hm | ⟨p, hp, h, hh, hl, hx, hy, hc⟩)
    · split at hm
      · next he => simp at hm; exact .inl ⟨he, hm.2, hm.1⟩
      · simp at hm
    · cases hc
      exact .inr ⟨p, h, hp, rfl, hl, hh, hx, hy, rfl⟩

theorem preferred_iff (s : State) (n : Nat) :
    Preferred s n ↔
      ∃ c ∈ candidates s, c.number = n ∧
        ∀ d ∈ candidates s, d = c ∨ c.rank < d.rank ∨ (c.rank = d.rank ∧ c.number < d.number) := by
  simp only [Preferred, helmCandidate_iff]
  constructor
  · rintro ⟨rank, hc, hall⟩
    refine ⟨_, hc, rfl, fun d hd => ?_⟩
    rcases hall d.rank d.number hd with ⟨hr, hn⟩ | h
    · exact .inl (by cases d; simp_all)
    · exact .inr h
  · rintro ⟨c, hc, rfl, hall⟩
    refine ⟨c.rank, hc, fun r m hm => ?_⟩
    rcases hall _ hm with h | h
    · exact .inl (by cases h; exact ⟨rfl, rfl⟩)
    · exact .inr h

theorem no_candidate_iff (s : State) : (∀ r n, ¬HelmCandidate s r n) ↔ candidates s = [] := by
  simp only [helmCandidate_iff, List.eq_nil_iff_forall_not_mem]
  exact ⟨fun h c => h c.rank c.number, fun h r n => h _⟩

end Sys2Proof.Machine
end

