-- ==== Sys2Proof/Laws/Inversion.lean ====
section
/-!
SUPPORT. The one inversion lemma of `exec`: whatever a command does, it first makes one direct change of its own (`Base`), and
all that follows is a reaction, with a reply where the command is a request.
-/

namespace Sys2Proof.Machine

/-! ## What two large updates leave alone -/

/-- Storing a frame changes the convoy view alone (R3, R4). -/
theorem storeFrame_eq (k : FrameKind) (f : RxFrame) (s : State) :
    storeFrame k f s = { s with cvu := (storeFrame k f s).cvu } := by
  simp only [storeFrame, modPeer, admitPeer]
  split <;> rfl

/-- Ending a pull-off changes the coupling controller alone (R101). -/
theorem endPullOff_eq (o : CouplingOutcome) (s : State) : endPullOff o s = { s with cpc := (endPullOff o s).cpc } := by
  simp only [endPullOff]
  split <;> rfl

/-- Ending a pull-off leaves the winches (R101). -/
theorem endPullOff_winches (o : CouplingOutcome) (s : State) : (endPullOff o s).cpc.winches = s.cpc.winches := by
  simp only [endPullOff]
  split <;> rfl

/-- What RESTART sets before anything reacts to it (R22, R44, R154, R182, R193). -/
theorem restartBase_eq (s : State) :
    restartBase s = { s with
      svp := { s.svp with mode := .joining, startCause := .restart, joinAt := some (s.now + s.cfg.lostTime) }
      lif := restartLine s.now s.cfg s.lif, shu := restartShare s.shu
      pgu := { chans := s.pgu.chans.map restartChan }
      cvu := (restartBase s).cvu, cpc := (restartBase s).cpc } := by
  simp only [restartBase, keepSums]
  rw [endPullOff_eq]

/-- RESTART leaves the winches (R108). -/
theorem restartBase_winches (s : State) : (restartBase s).cpc.winches = s.cpc.winches := by
  simp only [restartBase, keepSums]
  rw [endPullOff_winches]

/-- RESTART empties the peer table (R22). -/
theorem restartBase_peers (s : State) : (restartBase s).cvu.peers = [] := by
  simp only [restartBase, keepSums]
  rw [endPullOff_eq]
  rfl

/-- The direct change a command makes to a state, at the moment it is taken. -/
inductive Base : Instr → State → State → Prop where
  | same (c : Instr) (s : State) : Base c s s
  | gauges (c : Instr) (g : Pgu) (s : State) (h : touchesGauges c = true) : Base c s (withPgu g s)
  | control (t n : Nat) (k : ShaftCfg) (s : State) : Base (.controlStep t n) s (modShaft n (stepShaft s k) s)
  | stored (c : Instr) (k : FrameKind) (f : RxFrame) (s : State) (h : isFrame c = true) (h1 : 1 ≤ RxFrame.sender f)
      (h6 : RxFrame.sender f ≤ 6) (ho : RxFrame.sender f ≠ s.cfg.station) (hm : s.svp.mode ≠ .configuring) :
      Base c s (storeFrame k f (countReceived (frameSeen s)))
  | aged (c : Instr) (n : Nat) (f : Peer → Peer) (s : State) (h : touchesPeers c = true)
      (hf : ∀ p, (f p).number = p.number) : Base c s (modPeer n f s)
  | removed (c : Instr) (n : Nat) (s : State) (h : touchesPeers c = true) : Base c s (withoutPeer n s)
  | panel (t : Nat) (l r : BitVec 16) (f x y : Byte) (p : Panel) (e : Nat) (s : State)
      (hm : s.svp.mode ≠ .configuring) :
      Base (.panel t l r f x y) s { s with svp := { s.svp with panel := p, panelState := .current, panelAt := some e } }
  | panelTimeout (t : Nat) (p : Panel) (s : State) (hp : s.svp.panelState = .current) :
      Base (.panelTimeout t) s { s with svp := { s.svp with panel := p, panelState := .timedOut, panelAt := none } }
  | image (t : Nat) (page : BitVec 7) (d : List Byte) (o : Nat) (s : State) (h : o + d.length ≤ Config.imageLength)
      (hm : s.svp.mode = .configuring) : Base (.configWrite t page d) s (writeImage o d s)
  | flags (t : Nat) (m : BitVec 16) (s : State) : Base (.clearAttention t m) s (clearFlags m s)
  | started (t : Nat) (g : Pgu) (s : State) (hm : s.svp.mode = .configuring)
      (hf : firstFailure (wholeImage s.svp.image) = none) :
      Base (.start t) s (withPgu g (startRecords (startBase (parseImage (wholeImage s.svp.image)) s)))
  | restarted (t : Nat) (g : Pgu) (s : State) (hm : s.svp.mode ≠ .configuring) :
      Base (.restart t) s (withPgu g (restartBase s))
  | running (t : Nat) (s : State) (hm : s.svp.mode = .joining) : Base (.joinTimerExpiry t) s (setMode .running none s)
  | silent (c : Instr) (s : State) (h : isFrame c = true) (ho : ownFrame c s.cfg.station = true)
      (hm : s.svp.mode = .joining ∨ s.svp.mode = .running) :
      Base c s (setMode .silent none (stopTransmitter (raiseFlag .duplicate (frameSeen s))))
  | period (t : Nat) (e : Option Nat) (s : State) :
      Base (.periodStart t) s
        { s with dlu := { s.dlu with lines := periodStartLines s.cfg s.now s.dlu.lines, periodAt := e } }

/-- A command's effect: its direct change, then a reaction, then, for a request, a reply. -/
def Effect (c : Instr) (s t : State) : Prop :=
  ∃ b, Base c s b ∧ (Reacts b t ∨ (isRequest c = true ∧ Answers b t))

theorem Effect.react {c : Instr} {s t : State} (h : Reacts s t) : Effect c s t := ⟨s, .same c s, .inl h⟩

theorem Effect.answer {c : Instr} {s t : State} (hc : isRequest c = true) (h : Answers s t) : Effect c s t :=
  ⟨s, .same c s, .inr ⟨hc, h⟩⟩

/-- A received frame (R176 to R179). -/
theorem receiveFrame_effect {c : Instr} (hc : isFrame c = true) (kind : Nat) (f : RxFrame) (s : State)
    (hf : carriedFrame c = some (kind, f)) : Effect c s (receiveFrame kind f s) := by
  unfold receiveFrame
  split
  swap
  · exact .react (Reacts.refl s)
  rename_i hr
  have hm : s.svp.mode ≠ .configuring := by
    intro e
    simp [e, assembling, receiverOn] at hr
  split
  · exact .react ((frameSeen_reacts s).trans (countCrcError_reacts _))
  · rename_i hcrc
    split
    swap
    · exact .react ((frameSeen_reacts s).trans (countMalformed_reacts _))
    rename_i k hk
    split
    swap
    · exact .react ((frameSeen_reacts s).trans (countMalformed_reacts _))
    rename_i hh
    unfold acceptFrame
    split
    · rename_i hs
      have ho : ownFrame c s.cfg.station = true := by
        simpa [ownFrame, hf, hh, not_not.mp hcrc] using hs
      unfold duplicateFound
      split
      · rename_i hon
        have hm2 : s.svp.mode = .joining ∨ s.svp.mode = .running := by
          simp only [frameSeen_svp] at hon
          cases h : s.svp.mode <;> simp [h, transmitterOn] at hon ⊢
        exact ⟨_, .silent c s hc ho hm2, .inl (enterSilent_reacts _)⟩
      · exact .react ((frameSeen_reacts s).trans (raiseFlag_reacts _ _))
    · rename_i hne
      simp only [headerOk, hk, Bool.and_eq_true, bne_iff_ne, decide_eq_true_eq] at hh
      have hlt : RxFrame.sender f < 8 := Nat.mod_lt _ (by decide)
      exact ⟨_, .stored c k f s hc (by omega) (by omega) hne hm, .inl (deliverFrame_reacts k f _)⟩

theorem forgetPeer_effect (t : Nat) (n : Byte) (s : State) :
    Effect (.forgetPeer t n) s (inService (forgetAnswer n.toNat) s) := by
  unfold inService
  split
  · exact .answer rfl (replyStatus_answers _ s)
  · unfold forgetAnswer
    split
    · exact .answer rfl (refuse_answers _ s)
    · split
      · exact ⟨_, .removed _ n.toNat s rfl, .inr ⟨rfl, removePeer n.toNat s, _, removePeer_reacts _ s, rfl⟩⟩
      · exact .answer rfl (refuse_answers _ s)

theorem panel_effect (t : Nat) (l r : BitVec 16) (f x y : Byte) (s : State) :
    Effect (.panel t l r f x y) s (inService (okAfter (takePanel (panelOf l r f x y))) s) := by
  unfold inService
  split
  · exact .answer rfl (replyStatus_answers _ s)
  · rename_i hm
    simp only [configuring, decide_eq_true_eq] at hm
    exact ⟨_, .panel t l r f x y _ _ s hm,
      .inr ⟨rfl, takePanel (panelOf l r f x y) s, _, takePanel_reacts _ s, rfl⟩⟩

theorem restart_effect (t : Nat) (s : State) : Effect (.restart t) s (inService (okAfter restartAll) s) := by
  unfold inService
  split
  · exact .answer rfl (replyStatus_answers _ s)
  · rename_i hm
    simp only [configuring, decide_eq_true_eq] at hm
    obtain ⟨g, hg⟩ := restartAll_reacts s
    exact ⟨_, .restarted t g s hm, .inr ⟨rfl, restartAll s, _, hg, rfl⟩⟩

theorem start_effect (t : Nat) (s : State) :
    Effect (.start t) s (if configuring s then startAnswer s else replyStatus .notNow s) := by
  split
  swap
  · exact .answer rfl (replyStatus_answers _ s)
  rename_i hm
  simp only [configuring, decide_eq_true_eq] at hm
  unfold startAnswer
  dsimp only
  split
  · exact .answer rfl ⟨s, _, Reacts.refl s, rfl⟩
  · split
    · exact .answer rfl ⟨s, _, Reacts.refl s, rfl⟩
    · rename_i hf
      obtain ⟨g, hg⟩ := startUp_reacts (parseImage (wholeImage s.svp.image)) s
      exact ⟨_, .started t g s hm hf, .inr ⟨rfl, startUp _ s, _, hg, rfl⟩⟩

theorem configWrite_effect (t : Nat) (page : BitVec 7) (d : List Byte) (o : Nat) (s : State) :
    Effect (.configWrite t page d) s (configAnswer o d s) := by
  unfold configAnswer
  split
  · exact .answer rfl (replyStatus_answers _ s)
  split
  · exact .answer rfl (replyStatus_answers _ s)
  split
  · exact .answer rfl (refuse_answers _ s)
  · rename_i hm hlen
    have hm : s.svp.mode = .configuring := by simpa [configuring] using hm
    exact ⟨_, .image t page d o s (by omega) hm, .inr ⟨rfl, writeImage o d s, _, Reacts.refl _, rfl⟩⟩

/-- An effect on either side of a choice. -/
theorem Effect.ite {c : Instr} {s a : State} {p : Prop} [Decidable p] (h : p → Effect c s a) {t : State}
    (ht : (if p then Host.Outcome.next a else Host.Outcome.next s : Host.Outcome State Fault Refusal) = .next t) :
    Effect c s t := by
  split at ht
  · cases ht
    exact h ‹_›
  · cases ht
    exact .react (Reacts.refl s)

/-- The ageing expiries of the view (R5, R6, R15). -/
theorem staleExpiry_effect {t n : Nat} {s u : State} (h : exec (.staleExpiry t n) s = .next u) :
    Effect (.staleExpiry t n) (setClock t s) u := by
  simp only [exec, execStaleExpiry] at h
  split at h
  · exact .ite (fun _ => ⟨_, .aged _ n _ _ rfl (fun _ => by rfl), .inl (markStale_reacts n _)⟩) h
  · cases h
    exact .react (Reacts.refl _)

theorem lostExpiry_effect {t n : Nat} {s u : State} (h : exec (.lostExpiry t n) s = .next u) :
    Effect (.lostExpiry t n) (setClock t s) u := by
  simp only [exec, execLostExpiry] at h
  split at h
  · refine .ite (fun _ => ?_) h
    split
    · exact ⟨_, .removed _ n _ rfl, .inl (removePeer_reacts n _)⟩
    · exact ⟨_, .aged _ n _ _ rfl (fun _ => by rfl), .inl (markLost_reacts n _)⟩
  · cases h
    exact .react (Reacts.refl _)

theorem helmAgeExpiry_effect {t n : Nat} {s u : State} (h : exec (.helmAgeExpiry t n) s = .next u) :
    Effect (.helmAgeExpiry t n) (setClock t s) u := by
  simp only [exec, execHelmAgeExpiry] at h
  split at h
  · exact .ite (fun _ => ⟨_, .aged _ n expireHelm _ rfl (fun _ => by rfl), .inl (reselect_reacts _)⟩) h
  · cases h
    exact .react (Reacts.refl _)

theorem controlStep_effect {t n : Nat} {s u : State} (h : exec (.controlStep t n) s = .next u) :
    Effect (.controlStep t n) (setClock t s) u := by
  simp only [exec, execControlStep] at h
  split at h
  · exact .ite (fun _ => ⟨_, .control t n _ _, .inl (rampStep_reacts n _ _ _)⟩) h
  · cases h
    exact .react (Reacts.refl _)

theorem periodStart_effect {t : Nat} {s u : State} (h : exec (.periodStart t) s = .next u) :
    Effect (.periodStart t) (setClock t s) u :=
  .ite (fun _ => ⟨_, .period t _ _, .inl (Reacts.refl _)⟩) h

theorem joinTimer_effect {t : Nat} {s u : State} (h : exec (.joinTimerExpiry t) s = .next u) :
    Effect (.joinTimerExpiry t) (setClock t s) u :=
  .ite (fun hm => ⟨_, .running t _ hm.1, .inl (enterRunning_reacts _)⟩) h

theorem panelTimeout_effect {t : Nat} {s u : State} (h : exec (.panelTimeout t) s = .next u) :
    Effect (.panelTimeout t) (setClock t s) u :=
  .ite (fun hm => ⟨_, .panelTimeout t _ _ hm.1, .inl (timeOutPanel_reacts _)⟩) h

theorem clearAttention_effect {t : Nat} {m : BitVec 16} {s u : State} (h : exec (.clearAttention t m) s = .next u) :
    Effect (.clearAttention t m) (setClock t s) u := by
  cases h
  exact ⟨_, .flags t m _, .inr ⟨rfl, clearFlags m (setClock t s), _, Reacts.refl _, rfl⟩⟩

theorem badRequest_effect {t : Nat} {bytes : List Byte} {s u : State} (h : exec (.badRequest t bytes) s = .next u) :
    Effect (.badRequest t bytes) (setClock t s) u := by
  cases h
  unfold badWrite
  split
  · exact .react (Reacts.refl _)
  · split
    · exact .react (Reacts.refl _)
    · exact .answer rfl (replyStatus_answers _ _)

/-- The event of one of the reaction classes. -/
theorem effect_of_reacts {c : Instr} {s b u : State} (h : exec c s = .next u)
    (k : ∃ u, exec c s = .next u ∧ Reacts b u) : Effect c b u := by
  obtain ⟨v, hv, hr⟩ := k
  rw [h] at hv
  cases hv
  exact .react hr

theorem effect_of_answers {c : Instr} {s b u : State} (hc : isRequest c = true) (h : exec c s = .next u)
    (k : ∃ u, exec c s = .next u ∧ Answers b u) : Effect c b u := by
  obtain ⟨v, hv, hr⟩ := k
  rw [h] at hv
  cases hv
  exact .answer hc hr

theorem effect_of_gauge {c : Instr} {s b u : State} (hc : touchesGauges c = true) (h : exec c s = .next u)
    (k : ∃ u g, exec c s = .next u ∧ Reacts (withPgu g b) u) : Effect c b u := by
  obtain ⟨v, g, hv, hr⟩ := k
  rw [h] at hv
  cases hv
  exact ⟨_, .gauges c g b hc, .inl hr⟩

/-- What a command can do, said once: a reset, or its direct change at the moment it is taken, then reactions, then a reply. -/
theorem exec_effect {c : Instr} {s u : State} (h : exec c s = .next u) :
    (∃ cause straps, u = afterReset cause straps s ∧ isReset c = true) ∨ ∃ t, timeOf c = some t ∧ Effect c (setClock t s) u := by
  cases c
  case powerOn x => cases h; exact .inl ⟨_, _, rfl, rfl⟩
  case pinReset x => cases h; exact .inl ⟨_, _, rfl, rfl⟩
  all_goals right
  case badRequest t b => exact ⟨t, rfl, badRequest_effect h⟩
  case configWrite t p d => cases h; exact ⟨t, rfl, configWrite_effect t p d _ _⟩
  case start t => cases h; exact ⟨t, rfl, start_effect t _⟩
  case restart t => cases h; exact ⟨t, rfl, restart_effect t _⟩
  case panel t l r f x y => cases h; exact ⟨t, rfl, panel_effect t l r f x y _⟩
  case forgetPeer t n => cases h; exact ⟨t, rfl, forgetPeer_effect t n _⟩
  case clearAttention t m => exact ⟨t, rfl, clearAttention_effect h⟩
  case helmFrame t f => cases h; exact ⟨t, rfl, receiveFrame_effect rfl _ f _ rfl⟩
  case statusFrame t f => cases h; exact ⟨t, rfl, receiveFrame_effect rfl _ f _ rfl⟩
  case alertFrame t f => cases h; exact ⟨t, rfl, receiveFrame_effect rfl _ f _ rfl⟩
  case fuelFrame t f => cases h; exact ⟨t, rfl, receiveFrame_effect rfl _ f _ rfl⟩
  case malformed t k f => cases h; exact ⟨t, rfl, receiveFrame_effect rfl _ f _ rfl⟩
  case duplicate t k f => cases h; exact ⟨t, rfl, receiveFrame_effect rfl _ f _ rfl⟩
  case staleExpiry t n => exact ⟨t, rfl, staleExpiry_effect h⟩
  case lostExpiry t n => exact ⟨t, rfl, lostExpiry_effect h⟩
  case helmAgeExpiry t n => exact ⟨t, rfl, helmAgeExpiry_effect h⟩
  case controlStep t n => exact ⟨t, rfl, controlStep_effect h⟩
  case periodStart t => exact ⟨t, rfl, periodStart_effect h⟩
  case joinTimerExpiry t => exact ⟨t, rfl, joinTimer_effect h⟩
  case panelTimeout t => exact ⟨t, rfl, panelTimeout_effect h⟩
  case intervalExpiry t n => exact ⟨t, rfl, effect_of_gauge rfl h (gauge_reacts (by simp))⟩
  case periodEdge t n e => exact ⟨t, rfl, effect_of_gauge rfl h (gauge_reacts (by simp))⟩
  case dutyEdge t n e => exact ⟨t, rfl, effect_of_gauge rfl h (gauge_reacts (by simp))⟩
  case periodWindowExpiry t n => exact ⟨t, rfl, effect_of_gauge rfl h (gauge_reacts (by simp))⟩
  case dutyWindowExpiry t n => exact ⟨t, rfl, effect_of_gauge rfl h (gauge_reacts (by simp))⟩
  case depart t => exact ⟨t, rfl, effect_of_answers rfl h (request_answers (by simp))⟩
  case transferStart t a b v => exact ⟨t, rfl, effect_of_answers rfl h (request_answers (by simp))⟩
  case transferAbort t => exact ⟨t, rfl, effect_of_answers rfl h (request_answers (by simp))⟩
  case bunkerStart t n => exact ⟨t, rfl, effect_of_answers rfl h (request_answers (by simp))⟩
  case bunkerStop t => exact ⟨t, rfl, effect_of_answers rfl h (request_answers (by simp))⟩
  case rebase t n => exact ⟨t, rfl, effect_of_answers rfl h (request_answers (by simp))⟩
  case clearParted t => exact ⟨t, rfl, effect_of_answers rfl h (request_answers (by simp))⟩
  case rudderRetry t n => exact ⟨t, rfl, effect_of_answers rfl h (request_answers (by simp))⟩
  case readStation t => exact ⟨t, rfl, effect_of_answers rfl h (request_answers (by simp))⟩
  case readPeers t => exact ⟨t, rfl, effect_of_answers rfl h (request_answers (by simp))⟩
  case readShafts t => exact ⟨t, rfl, effect_of_answers rfl h (request_answers (by simp))⟩
  case readRudders t => exact ⟨t, rfl, effect_of_answers rfl h (request_answers (by simp))⟩
  case readWinches t => exact ⟨t, rfl, effect_of_answers rfl h (request_answers (by simp))⟩
  case readTanks t => exact ⟨t, rfl, effect_of_answers rfl h (request_answers (by simp))⟩
  case readGauges t => exact ⟨t, rfl, effect_of_answers rfl h (request_answers (by simp))⟩
  case readJournal t n => exact ⟨t, rfl, effect_of_answers rfl h (request_answers (by simp))⟩
  case readLine t n => exact ⟨t, rfl, effect_of_answers rfl h (request_answers (by simp))⟩
  case writeBrokenOff t => exact ⟨t, rfl, effect_of_reacts h (lineEvent_reacts (by simp))⟩
  case crcError t x => exact ⟨t, rfl, effect_of_reacts h (lineEvent_reacts (by simp))⟩
  case lineIdle i =>
    exact ⟨i.since, rfl, effect_of_reacts h (lineEvent_reacts (.inr (.inr (.inl ⟨i.otherStart, rfl⟩))))⟩
  case arbitrationLost t => exact ⟨t, rfl, effect_of_reacts h (lineEvent_reacts (by simp))⟩
  case arbitrationComplete t => exact ⟨t, rfl, effect_of_reacts h (lineEvent_reacts (by simp))⟩
  case sentSuccessfully t => exact ⟨t, rfl, effect_of_reacts h (lineEvent_reacts (by simp))⟩
  case transmitError t => exact ⟨t, rfl, effect_of_reacts h (lineEvent_reacts (by simp))⟩
  case suspensionExpiry t => exact ⟨t, rfl, effect_of_reacts h (lineEvent_reacts (by simp))⟩
  case statusTimerExpiry t => exact ⟨t, rfl, effect_of_reacts h (lineEvent_reacts (by simp))⟩
  case helmPeriodExpiry t => exact ⟨t, rfl, effect_of_reacts h (viewTimer_reacts (by simp))⟩
  case graceExpiry t => exact ⟨t, rfl, effect_of_reacts h (viewTimer_reacts (by simp))⟩
  case muteExpiry t => exact ⟨t, rfl, effect_of_reacts h (viewTimer_reacts (by simp))⟩
  case fuelPeriodExpiry t => exact ⟨t, rfl, effect_of_reacts h (viewTimer_reacts (by simp))⟩
  case dwellExpiry t n => exact ⟨t, rfl, effect_of_reacts h (shaftTimer_reacts (by simp))⟩
  case deviationExpiry t n => exact ⟨t, rfl, effect_of_reacts h (shaftTimer_reacts (by simp))⟩
  case stallExpiry t n => exact ⟨t, rfl, effect_of_reacts h (shaftTimer_reacts (by simp))⟩
  case haulTimeoutExpiry t n => exact ⟨t, rfl, effect_of_reacts h (winchTimer_reacts (by simp))⟩
  case haulPulseExpiry t n => exact ⟨t, rfl, effect_of_reacts h (winchTimer_reacts (by simp))⟩
  case releaseWaitExpiry t n => exact ⟨t, rfl, effect_of_reacts h (winchTimer_reacts (by simp))⟩
  case releaseHoldExpiry t n => exact ⟨t, rfl, effect_of_reacts h (winchTimer_reacts (by simp))⟩
  case pullOffTimerExpiry t => exact ⟨t, rfl, effect_of_reacts h (winchTimer_reacts (by simp))⟩

end Sys2Proof.Machine
end

