-- ==== Sys2Proof/Laws/Lines.lean ====
section
/-!
SUPPORT. What the owners write to their drive lines (R60, R61, R94, R158): a write by itself, which lines an operation can have
written, the direction state that a control step or a delivery settles (R50, R51), and what the outputs of a shaft and of a
winch leave on their lines.
-/

namespace Sys2Proof.Machine

/-! ## One write (R158) -/

/-- A line has one assignment. -/
theorem lineOf_inj {a b : Assignment} {cfg : Cfg} {p : Nat} (ha : lineOf a cfg = some p) (hb : lineOf b cfg = some p) :
    a = b := by
  obtain ⟨c, hc, rfl⟩ := lineOf_spec ha
  obtain ⟨d, hd, rfl⟩ := lineOf_spec hb
  rw [Option.some.inj (hc.symm.trans hd)]

@[simp] theorem writeDuty_cfg (a : Assignment) (d : Nat) (s : State) : (writeDuty a d s).cfg = s.cfg :=
  (writeDuty_reacts a d s).cfg

@[simp] theorem writeDuty_sfc (a : Assignment) (d : Nat) (s : State) : (writeDuty a d s).sfc = s.sfc := by
  unfold writeDuty; split <;> rfl

@[simp] theorem writeDuty_cpc (a : Assignment) (d : Nat) (s : State) : (writeDuty a d s).cpc = s.cpc := by
  unfold writeDuty; split <;> rfl

/-- A line after a write to the line of an assignment: taken by its own line, a pending duty of its partner cancelled by a duty
above 0, every other line left alone. -/
theorem writeDuty_line {b : Assignment} {m : Nat} (d : Nat) {s : State} (hm : lineOf b s.cfg = some m) (p : Nat) :
    getN (writeDuty b d s).dlu.lines p =
      if p = m then (getN s.dlu.lines p).map (takeWrite (lineEnabled m s.cfg) d)
      else if lineEnabled m s.cfg = true ∧ 0 < d ∧ partnerLine m s.cfg = some p then
        (getN s.dlu.lines p).map cancelPending
      else getN s.dlu.lines p := by
  unfold writeDuty
  rw [hm]
  simp only [writeLines]
  by_cases hb : lineEnabled m s.cfg = true ∧ 0 < d
  · rw [if_pos (by simpa using hb)]
    cases hp : partnerLine m s.cfg with
    | none => by_cases hpm : p = m <;> simp [getN_modN, hpm, Ne.symm]
    | some q =>
      have hne := partner_ne hp
      by_cases hpm : p = m
      · subst hpm; simp [getN_modN, Ne.symm hne]
      · by_cases hpq : q = p <;> simp [getN_modN, hpm, Ne.symm hpm, hb, hpq]
  · rw [if_neg (by simpa using hb)]
    have : ¬(lineEnabled m s.cfg = true ∧ 0 < d ∧ partnerLine m s.cfg = some p) := fun h => hb ⟨h.1, h.2.1⟩
    by_cases hpm : p = m <;> simp [this, getN_modN, hpm, Ne.symm]

/-- The partner of the line of an assignment has the partner assignment. -/
theorem partnerLine_of {b : Assignment} {m p : Nat} {cfg : Cfg} (hm : lineOf b cfg = some m)
    (hp : partnerLine m cfg = some p) : ∃ a, partnerOf b = some a ∧ lineOf a cfg = some p := by
  obtain ⟨c, hc, rfl⟩ := lineOf_spec hm
  unfold partnerLine at hp
  rw [hc] at hp
  simp only at hp
  split at hp
  · exact ⟨_, ‹_›, hp⟩
  · cases hp

/-- A write is taken by its own line. -/
theorem writeDuty_written (a : Assignment) (v : Nat) (s : State) : Written a v s (writeDuty a v s) := by
  intro p l hp hl
  refine ⟨takeWrite (lineEnabled p s.cfg) v l, by simp [writeDuty_line v hp, hl], ?_, fun h => ?_⟩
  · unfold takeWrite; split <;> rfl
  · simp +contextual [takeWrite, h]

/-- A write leaves alone every line but its own and its partner's. -/
theorem writeDuty_kept {a b : Assignment} (d : Nat) (s : State) (h : a ≠ b) (hp : partnerOf b ≠ some a) :
    LineKept a s (writeDuty b d s) := by
  intro p ha
  cases hm : lineOf b s.cfg with
  | none => simp [writeDuty, hm]
  | some m =>
    rw [writeDuty_line d hm, if_neg, if_neg]
    · rintro ⟨-, -, hq⟩
      obtain ⟨c, hc, hl⟩ := partnerLine_of hm hq
      exact hp (lineOf_inj hl ha ▸ hc)
    · rintro rfl
      exact h (lineOf_inj ha hm)

/-- What has been written stays through a later write to another line, but for a duty above 0 under a write above 0 to the
partner. -/
theorem Written.write {a b : Assignment} {v d : Nat} {s t : State} (h : Written a v s t) (hc : t.cfg = s.cfg) (hab : a ≠ b)
    (hp : partnerOf b = some a → v = 0 ∨ d = 0) : Written a v s (writeDuty b d t) := by
  intro p l ha hl
  obtain ⟨x, hx, hr, he⟩ := h p l ha hl
  cases hm : lineOf b t.cfg with
  | none => exact ⟨x, by simpa [writeDuty, hm] using hx, hr, he⟩
  | some m =>
    rw [writeDuty_line d hm, if_neg (by rintro rfl; exact hab (lineOf_inj (hc ▸ ha) hm))]
    split
    · next hq =>
      obtain ⟨c, hcb, hlc⟩ := partnerLine_of hm hq.2.2
      obtain rfl := lineOf_inj hlc (hc ▸ ha)
      obtain rfl : v = 0 := (hp hcb).resolve_right (by omega)
      refine ⟨cancelPending x, by simp [hx], ?_, fun hen => ?_⟩
      · unfold cancelPending; split <;> exact hr
      · simp [cancelPending, he hen]
    · exact ⟨x, hx, hr, he⟩

theorem Written.kept {a : Assignment} {v : Nat} {s t u : State} (h : Written a v s t) (hc : t.cfg = s.cfg)
    (k : LineKept a t u) : Written a v s u := by
  intro p l ha hl
  rw [k p (hc ▸ ha)]
  exact h p l ha hl

/-- A reaction leaves every line in place. -/
theorem Reacts.line {s t : State} (h : Reacts s t) {p : Nat} {l : Line} (hl : getN s.dlu.lines p = some l) :
    ∃ x, getN t.dlu.lines p = some x := by
  have hlen : t.dlu.lines.length = s.dlu.lines.length := by simpa using congrArg List.length h.carried
  have := getN_lt hl
  cases p with
  | zero => omega
  | succ i => exact ⟨t.dlu.lines[i]'(by omega), by simp⟩

theorem LineKept.written {a : Assignment} {v : Nat} {s t u : State} (h : LineKept a s t) (hc : t.cfg = s.cfg)
    (k : Written a v t u) : Written a v s u := by
  intro p l ha hl
  have := k p l (hc ▸ ha) ((h p ha).trans hl)
  rwa [hc] at this

/-- What is written after a reaction has been written from before it on. -/
theorem Written.after {a : Assignment} {v : Nat} {s t u : State} (h : Reacts s t) (k : Written a v t u) :
    Written a v s u := by
  intro p l ha hl
  obtain ⟨x, hx⟩ := h.line hl
  have := k p x (h.cfg ▸ ha) hx
  rwa [h.cfg] at this

theorem LineKept.trans {a : Assignment} {s t u : State} (h : LineKept a s t) (hc : t.cfg = s.cfg) (k : LineKept a t u) :
    LineKept a s u := fun p ha => (k p (hc ▸ ha)).trans (h p ha)

/-! ## Which lines an operation can have written -/

/-- From `s` to `t` no line has been written but those whose assignment `P` takes. -/
def OnlyLines (P : Assignment → Prop) (s t : State) : Prop := t.cfg = s.cfg ∧ ∀ a, ¬P a → LineKept a s t

namespace OnlyLines

variable {P Q : Assignment → Prop} {s t u : State}

theorem refl (s : State) : OnlyLines P s s := ⟨rfl, fun _ _ _ _ => rfl⟩

theorem trans (h : OnlyLines P s t) (k : OnlyLines P t u) : OnlyLines P s u :=
  ⟨k.1.trans h.1, fun a ha => (h.2 a ha).trans h.1 (k.2 a ha)⟩

theorem mono (hPQ : ∀ a, P a → Q a) (h : OnlyLines P s t) : OnlyLines Q s t :=
  ⟨h.1, fun a ha => h.2 a fun hp => ha (hPQ a hp)⟩

/-- An operation on other blocks. -/
theorem same (hc : t.cfg = s.cfg) (hd : t.dlu = s.dlu) : OnlyLines P s t := ⟨hc, fun _ _ _ _ => by rw [hd]⟩

theorem write {b : Assignment} (d : Nat) (s : State) (hb : P b) (hp : ∀ a, partnerOf b = some a → P a) :
    OnlyLines P s (writeDuty b d s) :=
  ⟨writeDuty_cfg b d s, fun _ ha => writeDuty_kept d s (fun e => ha (e ▸ hb)) fun h => ha (hp _ h)⟩

theorem ite (c : Prop) [Decidable c] (h : OnlyLines P s t) : OnlyLines P s (if c then t else s) := by
  split
  · exact h
  · exact refl s

theorem fold {α : Type} {f : State → α → State} (h : ∀ s x, OnlyLines P s (f s x)) (l : List α) (s : State) :
    OnlyLines P s (l.foldl f s) := foldl_keeps (R := OnlyLines P) refl trans h l s

end OnlyLines

/-- The lines of shaft `n`. -/
def ofShaft (n : Nat) (a : Assignment) : Prop := a = .governor n ∨ a = .clutchAhead n ∨ a = .clutchAstern n

/-- The lines of winch `n`. -/
def ofWinch (n : Nat) (a : Assignment) : Prop := a = .winchHaul n ∨ a = .winchPayout n

theorem writeClutches_only (n : Nat) (d : Dir) (s : State) :
    OnlyLines (fun a => a = .clutchAhead n ∨ a = .clutchAstern n) s (writeClutches n d s) := by
  have h : ∀ d s, OnlyLines (fun a => a = .clutchAhead n ∨ a = .clutchAstern n) s (writeDuty (.clutchAhead n) d s) :=
    fun d s => .write d s (.inl rfl) (by simp [partnerOf])
  have k : ∀ d s, OnlyLines (fun a => a = .clutchAhead n ∨ a = .clutchAstern n) s (writeDuty (.clutchAstern n) d s) :=
    fun d s => .write d s (.inr rfl) (by simp [partnerOf])
  cases d
  · exact (h _ _).trans (k _ _)
  · exact (k _ _).trans (h _ _)
  · exact (h _ _).trans (k _ _)
  · exact (h _ _).trans (k _ _)

theorem writeGovernor_only (n : Nat) (s : State) : OnlyLines (· = .governor n) s (writeGovernor n s) := by
  unfold writeGovernor
  split
  · split
    · exact .refl s
    · exact (OnlyLines.same (t := modShaft n _ s) rfl rfl).trans (.write _ _ rfl (by simp [partnerOf]))
  · exact .refl s

theorem writeClutchesIf_only (n : Nat) (old : Dir) (force : Bool) (s : State) :
    OnlyLines (fun a => a = .clutchAhead n ∨ a = .clutchAstern n) s (writeClutchesIf n old force s) := by
  unfold writeClutchesIf
  split
  · split
    · exact .refl s
    · exact (OnlyLines.same (t := modShaft n _ s) rfl rfl).trans (writeClutches_only n _ _)
  · exact .refl s

theorem shaftOutputs_only (n : Nat) (old : Dir) (force : Bool) (s : State) :
    OnlyLines (ofShaft n) s (shaftOutputs n old force s) :=
  ((writeClutchesIf_only n old force s).mono fun _ => .inr).trans ((writeGovernor_only n _).mono fun _ => .inl)

theorem deliverTo_only (res : ShareResult) (av : List (Nat × Nat)) (s : State) (n : Nat) :
    OnlyLines (ofShaft n) s (deliverTo res av s n) := by
  unfold deliverTo
  split
  · exact (OnlyLines.same (t := modShaft n _ s) rfl rfl).trans (shaftOutputs_only n _ _ _)
  · exact .refl s

theorem noticeDirs_only {P : Assignment → Prop} (old : List Dir) (s : State) : OnlyLines P s (noticeDirs old s) := by
  unfold noticeDirs
  split
  · exact .refl s
  · exact .same rfl rfl

/-- A recompute writes to lines of shafts alone. -/
theorem recomputeShare_only (s : State) : OnlyLines (fun a => ∃ n, ofShaft n a) s (recomputeShare s) := by
  unfold recomputeShare
  split
  · exact .refl s
  · refine OnlyLines.trans (t := raiseShortfall s.shu.shortfall { s with shu := keepShare (shareResult s) (availabilities s) s.shu }) ?_ ?_
    · unfold raiseShortfall; split <;> exact .same rfl rfl
    · exact (OnlyLines.fold (fun q n => (deliverTo_only (shareResult s) (availabilities s) q n).mono fun _ h => ⟨n, h⟩)
        (numbers s.sfc.length) _).trans (noticeDirs_only _ _)

theorem updateHaul_only (n v : Nat) (w : Option Nat) (s : State) : OnlyLines (ofWinch n) s (updateHaul n v w s) := by
  unfold updateHaul
  split
  · exact .refl s
  · exact (OnlyLines.same (t := modWinch n _ s) rfl rfl).trans (.write _ _ (.inl rfl) (by simp [partnerOf, ofWinch]))

theorem updatePayout_only (n v : Nat) (w : Option Nat) (s : State) : OnlyLines (ofWinch n) s (updatePayout n v w s) := by
  unfold updatePayout
  split
  · exact .refl s
  · exact (OnlyLines.same (t := modWinch n _ s) rfl rfl).trans (.write _ _ (.inr rfl) (by simp [partnerOf, ofWinch]))

/-- A winch changed writes to its own lines alone. -/
theorem changeWinch_only (n : Nat) (f : Winch → Winch) (s : State) : OnlyLines (ofWinch n) s (changeWinch n f s) := by
  refine OnlyLines.trans (t := modWinch n f s) (.same rfl rfl) ?_
  unfold changeWinch writeWinch
  split
  · exact .refl _
  · split
    · exact (updateHaul_only ..).trans (updatePayout_only ..)
    · exact (updatePayout_only ..).trans (updateHaul_only ..)

/-! ## The direction state of a shaft (R50, R51) -/

theorem reversalPending_iff (r : Shaft) : reversalPending r = true ↔
    r.target ≠ 0 ∧ ((r.dir = .ahead ∧ r.targetWay = some .astern) ∨ (r.dir = .astern ∧ r.targetWay = some .ahead)) := by
  unfold reversalPending
  cases r.dir <;> rcases r.targetWay with - | w <;> (try cases w) <;> simp

theorem engineTurns_iff (e : Engine) : engineTurns e = true ↔ e = .running ∨ e = .limited := by
  cases e <;> simp [engineTurns]

/-- Engagement settles the direction state of a NEUTRAL shaft and leaves the rest of the record alone (R50). -/
theorem engage_cases (m : Mode) (r : Shaft) :
    (∃ w, r.dir = .neutral ∧ r.target ≠ 0 ∧ (r.engine = .running ∨ r.engine = .limited) ∧ m ≠ .configuring ∧
      r.targetWay = some w ∧ engage m r = { r with dir := dirOfWay w }) ∨
    (¬(r.dir = .neutral ∧ r.target ≠ 0 ∧ (r.engine = .running ∨ r.engine = .limited) ∧ m ≠ .configuring ∧
      r.targetWay ≠ none) ∧ engage m r = r) := by
  unfold engage
  split
  · next h =>
    split
    · next w hw => exact .inl ⟨w, h.1, h.2.1, (engineTurns_iff _).1 h.2.2.1, h.2.2.2, hw, rfl⟩
    · next hw => exact .inr ⟨fun k => k.2.2.2.2 hw, rfl⟩
  · next h => exact .inr ⟨fun k => h ⟨k.1, k.2.1, (engineTurns_iff _).2 k.2.2.1, k.2.2.2.1⟩, rfl⟩

/-- Entry to DWELL at P 0 with a reversal pending (R51). -/
theorem dwellIfDue_cases (now : Nat) (c : ShaftCfg) (r : Shaft) :
    (r.p = 0 ∧ reversalPending r = true ∧
      dwellIfDue now c r = { r with dir := .dwell, dwellAt := some (now + c.dwell) }) ∨
    (¬(r.p = 0 ∧ reversalPending r = true) ∧ dwellIfDue now c r = r) := by
  unfold dwellIfDue
  split
  · next h => exact .inl ⟨h.1, h.2, rfl⟩
  · next h => exact .inr ⟨h, rfl⟩

/-- A record whose direction state and dwell timer do not change: neither rule applies. -/
theorem settled_rest {now : Nat} {m : Mode} {c : ShaftCfg} {r q : Shaft} (hd : q.dir = r.dir) (hw : q.dwellAt = r.dwellAt)
    (he : ¬(q.dir = .neutral ∧ q.target ≠ 0 ∧ (q.engine = .running ∨ q.engine = .limited) ∧ m ≠ .configuring ∧
      q.targetWay ≠ none)) (hr : ¬(q.p = 0 ∧ reversalPending q = true)) : DirectionSettled now m c r q := by
  rw [reversalPending_iff, hd] at hr
  have h : ∀ w, q.targetWay = some w →
      ¬(r.dir = .neutral ∧ q.target ≠ 0 ∧ (q.engine = .running ∨ q.engine = .limited) ∧ m ≠ .configuring) :=
    fun w k h => he ⟨hd.trans h.1, h.2.1, h.2.2.1, h.2.2.2, by simp [k]⟩
  exact ⟨fun e k => absurd e (h _ k), fun e k => absurd e (h _ k), fun k => absurd k hr, fun _ _ => ⟨hd, hw⟩⟩

/-- A NEUTRAL shaft that has engaged. -/
theorem settled_engaged {now : Nat} {m : Mode} {c : ShaftCfg} {r q : Shaft} {w : Way} (hn : r.dir = .neutral)
    (hq : q.dir = dirOfWay w) (hw : q.dwellAt = r.dwellAt) (ht : q.target ≠ 0)
    (he : q.engine = .running ∨ q.engine = .limited) (hm : m ≠ .configuring) (hk : q.targetWay = some w) :
    DirectionSettled now m c r q := by
  refine ⟨fun _ k => ⟨?_, hw⟩, fun _ k => ⟨?_, hw⟩, fun h => ?_, fun h => ?_⟩
  · rw [hq, Option.some.inj (hk.symm.trans k)]; rfl
  · rw [hq, Option.some.inj (hk.symm.trans k)]; rfl
  · simp [hn] at h
  · simp [hn, ht, he, hm, hk] at h

/-- A shaft that has entered DWELL. -/
theorem settled_dwell {now : Nat} {m : Mode} {c : ShaftCfg} {r q : Shaft} {x : Shaft} (hx : x.dir = r.dir)
    (h : reversalPending x = true) (ht : q.target = x.target) (hk : q.targetWay = x.targetWay) (hp : q.p = 0)
    (hd : q.dir = .dwell) (hw : q.dwellAt = some (now + c.dwell)) : DirectionSettled now m c r q := by
  rw [reversalPending_iff, hx, ← ht, ← hk] at h
  obtain ⟨h0, h⟩ := h
  have hn : r.dir ≠ .neutral := fun k => by simp [k] at h
  exact ⟨fun k => absurd k.1 hn, fun k => absurd k.1 hn, fun _ => ⟨hd, hw⟩, fun _ k => absurd ⟨hp, h0, h⟩ k⟩

/-- What a control step makes of a record: entry to DWELL, then engagement. -/
theorem settled_step (now : Nat) (m : Mode) (c : ShaftCfg) {r x : Shaft} (hd : x.dir = r.dir) (hw : x.dwellAt = r.dwellAt) :
    DirectionSettled now m c r (retune c (engage m (dwellIfDue now c x))) := by
  rcases dwellIfDue_cases now c x with ⟨h1, h2, h3⟩ | ⟨h1, h3⟩
  · rw [h3, show engage m { x with dir := .dwell, dwellAt := some (now + c.dwell) } =
      { x with dir := .dwell, dwellAt := some (now + c.dwell) } by simp [engage]]
    exact settled_dwell hd h2 rfl rfl h1 rfl rfl
  · rw [h3]
    rcases engage_cases m x with ⟨w, e1, e2, e3, e4, e5, e6⟩ | ⟨e1, e2⟩
    · rw [e6]
      exact settled_engaged (hd ▸ e1) rfl hw e2 e3 e4 e5
    · rw [e2]
      exact settled_rest hd hw e1 h1

/-- What a delivery makes of a record: engagement, then entry to DWELL. -/
theorem settled_delivery (now : Nat) (m : Mode) (c : ShaftCfg) {r x : Shaft} (hd : x.dir = r.dir)
    (hw : x.dwellAt = r.dwellAt) : DirectionSettled now m c r (retune c (dwellIfDue now c (engage m x))) := by
  rcases engage_cases m x with ⟨w, e1, e2, e3, e4, e5, e6⟩ | ⟨e1, e2⟩
  · rw [e6]
    rcases dwellIfDue_cases now c { x with dir := dirOfWay w } with ⟨_, h2, _⟩ | ⟨_, h3⟩
    · rw [reversalPending_iff] at h2
      cases w <;> simp [e5, dirOfWay] at h2
    · rw [h3]
      exact settled_engaged (hd ▸ e1) rfl hw e2 e3 e4 e5
  · rw [e2]
    rcases dwellIfDue_cases now c x with ⟨h1, h2, h3⟩ | ⟨h1, h3⟩
    · rw [h3]
      exact settled_dwell hd h2 rfl rfl h1 rfl rfl
    · rw [h3]
      exact settled_rest hd hw e1 h1

/-! ## The outputs of a shaft (R60, R61) -/

/-- Two lines written one after the other, not both with a duty above 0. -/
theorem write_two {a b : Assignment} {v w : Nat} (s : State) (hab : a ≠ b) (h : v = 0 ∨ w = 0) :
    Written a v s (writeDuty b w (writeDuty a v s)) ∧ Written b w s (writeDuty b w (writeDuty a v s)) :=
  ⟨(writeDuty_written a v s).write (writeDuty_cfg a v s) hab fun _ => h,
    (writeDuty_written b w _).after (writeDuty_reacts a v s)⟩

/-- The two clutch lines after they have been written for a direction state, the line turned off first. -/
theorem writeClutches_written (n : Nat) (d : Dir) (s : State) :
    Written (.clutchAhead n) (if d = .ahead then 1000 else 0) s (writeClutches n d s) ∧
      Written (.clutchAstern n) (if d = .astern then 1000 else 0) s (writeClutches n d s) := by
  cases d
  · exact write_two s (by simp) (.inl rfl)
  · exact (write_two s (by simp) (.inl rfl)).symm
  · exact write_two s (by simp) (.inl rfl)
  · exact write_two s (by simp) (.inl rfl)

@[simp] theorem writeClutches_sfc (n : Nat) (d : Dir) (s : State) : (writeClutches n d s).sfc = s.sfc := by
  cases d <;> simp [writeClutches]

/-- Writes to lines change no other block. -/
theorem writeDuty_only (a : Assignment) (d : Nat) (s : State) : writeDuty a d s = { s with dlu := (writeDuty a d s).dlu } := by
  unfold writeDuty; split <;> rfl

theorem writeClutches_dlu (n : Nat) (d : Dir) (s : State) :
    writeClutches n d s = { s with dlu := (writeClutches n d s).dlu } := by
  cases d <;> (simp only [writeClutches]; rw [writeDuty_only, writeDuty_only _ 0])

/-- The clutch lines of a shaft changed by `f`: written on a change of direction state and where `force` asks for it. -/
theorem clutches_lines {n : Nat} {s : State} {r : Shaft} (f : Shaft → Shaft) (force : Bool) (hr : getN s.sfc n = some r)
    (hw : (f r).clutchWritten = r.clutchWritten) :
    let u := writeClutchesIf n r.dir force (modShaft n f s)
    ∃ q, getN u.sfc n = some q ∧ q = { f r with clutchWritten := q.clutchWritten } ∧
      (∀ m, m ≠ n → getN u.sfc m = getN s.sfc m) ∧
      (q.dir ≠ r.dir ∨ force = true →
        q.clutchWritten = true ∧ Written (.clutchAhead n) (if q.dir = .ahead then 1000 else 0) s u ∧
          Written (.clutchAstern n) (if q.dir = .astern then 1000 else 0) s u) ∧
      (q.dir = r.dir → ¬force = true → q.clutchWritten = r.clutchWritten ∧ u.dlu = s.dlu) ∧
      u = { s with sfc := u.sfc, dlu := u.dlu } := by
  intro u
  have h1 : getN (modShaft n f s).sfc n = some (f r) := by simp [modShaft, hr]
  by_cases hc : (f r).dir = r.dir ∧ force = false
  · have hu : u = modShaft n f s := by
      simp only [u, writeClutchesIf, h1]
      exact if_pos hc
    refine ⟨f r, hu ▸ h1, rfl, fun m hm => ?_, fun h => ?_, fun _ _ => ⟨hw, by rw [hu]; rfl⟩, by rw [hu]; rfl⟩
    · rw [hu]; exact getN_modN_ne (Ne.symm hm) _ _
    · rcases h with h | h
      · exact absurd hc.1 h
      · simp [hc.2] at h
  · have hu : u = writeClutches n (f r).dir (modShaft n (fun q => { q with clutchWritten := true }) (modShaft n f s)) := by
      simp only [u, writeClutchesIf, h1]
      exact if_neg hc
    have hs : OnlyLines (fun _ => False) s (modShaft n (fun q => { q with clutchWritten := true }) (modShaft n f s)) :=
      .same rfl rfl
    have hwr := writeClutches_written n (f r).dir (modShaft n (fun q => { q with clutchWritten := true }) (modShaft n f s))
    refine ⟨{ f r with clutchWritten := true }, ?_, rfl, fun m hm => ?_, fun _ => ⟨rfl, ?_, ?_⟩, fun h h' => ?_, ?_⟩
    · rw [hu]; simp [modShaft, hr]
    · rw [hu]; simp [modShaft, getN_modN_ne (Ne.symm hm)]
    · rw [hu]; exact (LineKept.written (hs.2 _ id) hs.1 hwr.1)
    · rw [hu]; exact (LineKept.written (hs.2 _ id) hs.1 hwr.2)
    · exact absurd ⟨h, by simpa using h'⟩ hc
    · rw [hu, writeClutches_dlu]; rfl

/-- The governor line of a shaft: written where its duty is not the one last written. -/
theorem governor_lines {n : Nat} {s : State} {r : Shaft} (hr : getN s.sfc n = some r) :
    let u := writeGovernor n s
    getN u.sfc n = some { r with dutyWritten := some r.duty } ∧ (∀ m, m ≠ n → getN u.sfc m = getN s.sfc m) ∧
      (r.dutyWritten ≠ some r.duty → Written (.governor n) r.duty s u) ∧
      (r.dutyWritten = some r.duty → u.dlu = s.dlu) ∧ u = { s with sfc := u.sfc, dlu := u.dlu } := by
  intro u
  by_cases hd : r.dutyWritten = some r.duty
  · have hu : u = s := by simp [u, writeGovernor, hr, hd]
    rw [hu]
    refine ⟨?_, fun _ _ => rfl, fun h => absurd hd h, fun _ => rfl, rfl⟩
    rw [hr, ← hd]
  · have hu : u = writeDuty (.governor n) r.duty (modShaft n (fun q => { q with dutyWritten := some r.duty }) s) := by
      simp [u, writeGovernor, hr, hd]
    have hs : OnlyLines (fun _ => False) s (modShaft n (fun q => { q with dutyWritten := some r.duty }) s) := .same rfl rfl
    rw [hu]
    refine ⟨by simp [modShaft, hr], fun m hm => by simp [modShaft, getN_modN_ne (Ne.symm hm)],
      fun _ => LineKept.written (hs.2 _ id) hs.1 (writeDuty_written _ _ _), fun h => absurd h hd, ?_⟩
    rw [writeDuty_only]; rfl

/-- All that the outputs of a shaft changed by `f` do: its record notes what is written, its lines stand as R60 and R61 say, and
every other shaft and every other block is left alone. -/
theorem shaftOutputs_lines {n : Nat} {s : State} {r : Shaft} (f : Shaft → Shaft) (force : Bool) (hr : getN s.sfc n = some r)
    (hd : (f r).dutyWritten = r.dutyWritten) (hw : (f r).clutchWritten = r.clutchWritten) :
    let u := shaftOutputs n r.dir force (modShaft n f s)
    ∃ q, getN u.sfc n = some q ∧
      q = { f r with dutyWritten := some (f r).duty, clutchWritten := q.clutchWritten } ∧
      (∀ m, m ≠ n → getN u.sfc m = getN s.sfc m) ∧ ShaftLines n (force = true) r q s u ∧
      u = { s with sfc := u.sfc, dlu := u.dlu } := by
  intro u
  obtain ⟨x, hx, hxe, hxm, hon, hoff, hxs⟩ := clutches_lines f force hr hw
  obtain ⟨hq, hqm, hgon, hgoff, hqs⟩ := governor_lines hx
  have hxd : x.duty = (f r).duty := by rw [hxe]
  have hxw : x.dutyWritten = r.dutyWritten := by rw [hxe]; exact hd
  have hcfg : (writeClutchesIf n r.dir force (modShaft n f s)).cfg = s.cfg := by rw [hxs]
  have hg := writeGovernor_only n (writeClutchesIf n r.dir force (modShaft n f s))
  have hcl := writeClutchesIf_only n r.dir force (modShaft n f s)
  refine ⟨{ x with dutyWritten := some x.duty }, hq, ?_, fun m hm => (hqm m hm).trans (hxm m hm), ⟨?_, ?_, rfl, ?_, ?_⟩, ?_⟩
  · rw [hxe]
  · intro h
    obtain ⟨h1, h2, h3⟩ := hon h
    exact ⟨h1, h2.kept hcfg (hg.2 _ (by simp)), h3.kept hcfg (hg.2 _ (by simp))⟩
  · intro h1 h2
    obtain ⟨h3, h4⟩ := hoff h1 h2
    have hk : ∀ a, LineKept a s (writeClutchesIf n r.dir force (modShaft n f s)) := fun a p _ => by rw [h4]
    exact ⟨h3, (hk _).trans hcfg (hg.2 _ (by simp)), (hk _).trans hcfg (hg.2 _ (by simp))⟩
  · intro h
    exact (hcl.2 _ (by simp)).written hcfg (hgon (hxw ▸ h))
  · intro h
    refine (hcl.2 _ (by simp)).trans hcfg fun p _ => ?_
    exact congrArg (fun d : Dlu => getN d.lines p) (hgoff (hxw ▸ h))
  · exact hqs.trans (congrArg (fun z : State => { z with sfc := u.sfc, dlu := u.dlu }) hxs)

/-! ## The outputs of a winch (R94) -/

/-- The haul line of a winch: written where its duty is not the one last written, and what the winch's record notes. -/
theorem haul_line {n v : Nat} {s : State} {w : Winch} (hw : getN s.cpc.winches n = some w) :
    getN (updateHaul n v w.haulWritten s).cpc.winches n = some { w with haulWritten := some v } ∧
      (∀ m, m ≠ n → getN (updateHaul n v w.haulWritten s).cpc.winches m = getN s.cpc.winches m) ∧
      (w.haulWritten ≠ some v → Written (.winchHaul n) v s (updateHaul n v w.haulWritten s)) := by
  unfold updateHaul
  split
  · next h => exact ⟨by rw [hw, ← h], fun _ _ => rfl, fun h' => absurd h h'⟩
  · exact ⟨by simp [hw], fun m hm => by simp [getN_modN_ne (Ne.symm hm)],
      fun _ => .after (modWinch_reacts n _ (fun _ h => by exact h) s) (writeDuty_written _ _ _)⟩

/-- The pay-out line of a winch, in the same way. -/
theorem payout_line {n v : Nat} {s : State} {w : Winch} (hw : getN s.cpc.winches n = some w) :
    getN (updatePayout n v w.payoutWritten s).cpc.winches n = some { w with payoutWritten := some v } ∧
      (∀ m, m ≠ n → getN (updatePayout n v w.payoutWritten s).cpc.winches m = getN s.cpc.winches m) ∧
      (w.payoutWritten ≠ some v → Written (.winchPayout n) v s (updatePayout n v w.payoutWritten s)) := by
  unfold updatePayout
  split
  · next h => exact ⟨by rw [hw, ← h], fun _ _ => rfl, fun h' => absurd h h'⟩
  · exact ⟨by simp [hw], fun m hm => by simp [getN_modN_ne (Ne.symm hm)],
      fun _ => .after (modWinch_reacts n _ (fun _ h => by exact h) s) (writeDuty_written _ _ _)⟩

/-- What has been written to a valve line of a winch with a duty of 0 or with a 0 to the other line stays through a write to
that other line. -/
theorem haul_through {n v d : Nat} {w : Option Nat} {s t : State} (h : Written (.winchHaul n) v s t) (hc : t.cfg = s.cfg)
    (hz : v = 0 ∨ d = 0) : Written (.winchHaul n) v s (updatePayout n d w t) := by
  unfold updatePayout
  split
  · exact h
  · exact h.write (t := modWinch n _ t) hc (by simp) fun _ => hz

theorem payout_through {n v d : Nat} {w : Option Nat} {s t : State} (h : Written (.winchPayout n) v s t)
    (hc : t.cfg = s.cfg) (hz : v = 0 ∨ d = 0) : Written (.winchPayout n) v s (updateHaul n d w t) := by
  unfold updateHaul
  split
  · exact h
  · exact h.write (t := modWinch n _ t) hc (by simp) fun _ => hz

/-- The valve lines of a winch after they have been written for its state. -/
theorem writeWinch_lines {n : Nat} {s : State} {w : Winch} (hw : getN s.cpc.winches n = some w) :
    let u := writeWinch n s
    ∃ q, getN u.cpc.winches n = some q ∧
      q = { w with haulWritten := some (haulDuty w), payoutWritten := some (payoutDuty w) } ∧
      (∀ m, m ≠ n → getN u.cpc.winches m = getN s.cpc.winches m) ∧ ValvesByState n w q s u := by
  have hh : haulDuty w = if w.state = .hauling ∨ (w.state = .made ∧ w.pulse = true) then 1000 else 0 := by
    unfold haulDuty
    cases w.state <;> simp
  have hp : payoutDuty w = if w.state = .rendering ∨ w.state = .releasing then 1000 else 0 := by
    unfold payoutDuty
    cases w.state <;> simp
  have hz : haulDuty w = 0 ∨ payoutDuty w = 0 := by
    rw [hh, hp]
    cases w.state <;> simp
  intro u
  by_cases h0 : haulDuty w = 0
  · have hu : u = updatePayout n (payoutDuty w) w.payoutWritten (updateHaul n (haulDuty w) w.haulWritten s) := by
      simp only [u, writeWinch, hw]
      exact if_pos h0
    obtain ⟨h1, h2, h3⟩ := haul_line (v := haulDuty w) hw
    obtain ⟨k1, k2, k3⟩ := payout_line (v := payoutDuty w) h1
    refine ⟨_, hu ▸ k1, rfl, fun m hm => hu ▸ (k2 m hm).trans (h2 m hm), congrArg some hh, congrArg some hp, fun h => ?_,
      fun h => ?_⟩
    · rw [hu]
      exact hh ▸ haul_through (h3 (hh ▸ h)) (updateHaul_only ..).1 hz
    · rw [hu]
      exact hp ▸ .after (updateHaul_reacts ..) (k3 (hp ▸ h))
  · have hu : u = updateHaul n (haulDuty w) w.haulWritten (updatePayout n (payoutDuty w) w.payoutWritten s) := by
      simp only [u, writeWinch, hw]
      exact if_neg h0
    obtain ⟨h1, h2, h3⟩ := payout_line (v := payoutDuty w) hw
    obtain ⟨k1, k2, k3⟩ := haul_line (v := haulDuty w) h1
    refine ⟨_, hu ▸ k1, rfl, fun m hm => hu ▸ (k2 m hm).trans (h2 m hm), congrArg some hh, congrArg some hp, fun h => ?_,
      fun h => ?_⟩
    · rw [hu]
      exact hh ▸ .after (updatePayout_reacts ..) (k3 (hh ▸ h))
    · rw [hu]
      exact hp ▸ payout_through (h3 (hp ▸ h)) (updatePayout_only ..).1 hz.symm

/-- All that a winch changed by `f` does: its record notes what its lines stand at, the lines stand as R94's table says for its
state, and every other winch is left alone. -/
theorem changeWinch_lines {n : Nat} {s : State} {w : Winch} (f : Winch → Winch) (hw : getN s.cpc.winches n = some w)
    (hh : (f w).haulWritten = w.haulWritten) (hp : (f w).payoutWritten = w.payoutWritten) :
    let u := changeWinch n f s
    ∃ q, getN u.cpc.winches n = some q ∧
      q = { f w with haulWritten := some (haulDuty (f w)), payoutWritten := some (payoutDuty (f w)) } ∧
      (∀ m, m ≠ n → getN u.cpc.winches m = getN s.cpc.winches m) ∧ ValvesByState n w q s u := by
  obtain ⟨q, h1, h2, h3, k1, k2, k3, k4⟩ := writeWinch_lines (n := n) (s := modWinch n f s) (w := f w) (by simp [hw])
  have hs : ∀ a, LineKept a s (modWinch n f s) := fun _ _ _ => rfl
  exact ⟨q, h1, h2, fun m hm => (h3 m hm).trans (by simp [getN_modN_ne (Ne.symm hm)]), k1, k2,
    fun h => (hs _).written rfl (k3 (hh ▸ h)), fun h => (hs _).written rfl (k4 (hp ▸ h))⟩

end Sys2Proof.Machine
end

