-- ==== Sys2Proof/Laws/PerInstr.lean ====
section
/-!
SUPPORT. One statement about every command as syntax, made per constructor: the family `Timing`.
-/

namespace Sys2Proof.Laws.Timing

open Sys2Proof.Machine

/-- A command carries the microsecond at which it is taken exactly when it is no reset; no command is both a request of the
service port and a frame off the line; and a command that is NOT_NOW in CONFIGURING is a request. -/
def Statement (i : Instr) : Prop :=
  isReset i = (timeOf i).isNone ∧ (isRequest i && isFrame i) = false ∧ (!serviceOnly i || isRequest i) = true

theorem powerOn (straps : BitVec 2) : Statement (.powerOn straps) := ⟨rfl, rfl, rfl⟩
theorem pinReset (straps : BitVec 2) : Statement (.pinReset straps) := ⟨rfl, rfl, rfl⟩
theorem writeBrokenOff (t : Nat) : Statement (.writeBrokenOff t) := ⟨rfl, rfl, rfl⟩
theorem badRequest (t : Nat) (bytes : List Byte) : Statement (.badRequest t bytes) := ⟨rfl, rfl, rfl⟩
theorem configWrite (t : Nat) (page : BitVec 7) (data : List Byte) : Statement (.configWrite t page data) := ⟨rfl, rfl, rfl⟩
theorem start (t : Nat) : Statement (.start t) := ⟨rfl, rfl, rfl⟩
theorem restart (t : Nat) : Statement (.restart t) := ⟨rfl, rfl, rfl⟩
theorem panel (t : Nat) (lever tiller : BitVec 16) (flags release remake : Byte) : Statement (.panel t lever tiller flags release remake) := ⟨rfl, rfl, rfl⟩
theorem depart (t : Nat) : Statement (.depart t) := ⟨rfl, rfl, rfl⟩
theorem forgetPeer (t : Nat) (n : Byte) : Statement (.forgetPeer t n) := ⟨rfl, rfl, rfl⟩
theorem transferStart (t : Nat) (source destination : Byte) (volume : BitVec 32) : Statement (.transferStart t source destination volume) := ⟨rfl, rfl, rfl⟩
theorem transferAbort (t : Nat) : Statement (.transferAbort t) := ⟨rfl, rfl, rfl⟩
theorem bunkerStart (t : Nat) (tank : Byte) : Statement (.bunkerStart t tank) := ⟨rfl, rfl, rfl⟩
theorem bunkerStop (t : Nat) : Statement (.bunkerStop t) := ⟨rfl, rfl, rfl⟩
theorem rebase (t : Nat) (tank : Byte) : Statement (.rebase t tank) := ⟨rfl, rfl, rfl⟩
theorem clearParted (t : Nat) : Statement (.clearParted t) := ⟨rfl, rfl, rfl⟩
theorem rudderRetry (t : Nat) (rudder : Byte) : Statement (.rudderRetry t rudder) := ⟨rfl, rfl, rfl⟩
theorem clearAttention (t : Nat) (mask : BitVec 16) : Statement (.clearAttention t mask) := ⟨rfl, rfl, rfl⟩
theorem readStation (t : Nat) : Statement (.readStation t) := ⟨rfl, rfl, rfl⟩
theorem readPeers (t : Nat) : Statement (.readPeers t) := ⟨rfl, rfl, rfl⟩
theorem readShafts (t : Nat) : Statement (.readShafts t) := ⟨rfl, rfl, rfl⟩
theorem readRudders (t : Nat) : Statement (.readRudders t) := ⟨rfl, rfl, rfl⟩
theorem readWinches (t : Nat) : Statement (.readWinches t) := ⟨rfl, rfl, rfl⟩
theorem readTanks (t : Nat) : Statement (.readTanks t) := ⟨rfl, rfl, rfl⟩
theorem readGauges (t : Nat) : Statement (.readGauges t) := ⟨rfl, rfl, rfl⟩
theorem readJournal (t : Nat) (serial : BitVec 32) : Statement (.readJournal t serial) := ⟨rfl, rfl, rfl⟩
theorem readLine (t : Nat) (line : Byte) : Statement (.readLine t line) := ⟨rfl, rfl, rfl⟩
theorem helmFrame (t : Nat) (f : RxFrame) : Statement (.helmFrame t f) := ⟨rfl, rfl, rfl⟩
theorem statusFrame (t : Nat) (f : RxFrame) : Statement (.statusFrame t f) := ⟨rfl, rfl, rfl⟩
theorem alertFrame (t : Nat) (f : RxFrame) : Statement (.alertFrame t f) := ⟨rfl, rfl, rfl⟩
theorem fuelFrame (t : Nat) (f : RxFrame) : Statement (.fuelFrame t f) := ⟨rfl, rfl, rfl⟩
theorem crcError (t : Nat) (cause : RxFault) : Statement (.crcError t cause) := ⟨rfl, rfl, rfl⟩
theorem malformed (t : Nat) (kind : Byte) (f : RxFrame) : Statement (.malformed t kind f) := ⟨rfl, rfl, rfl⟩
theorem duplicate (t : Nat) (kind : FrameKind) (f : RxFrame) : Statement (.duplicate t kind f) := ⟨rfl, rfl, rfl⟩
theorem lineIdle (i : IdleLine) : Statement (.lineIdle i) := ⟨rfl, rfl, rfl⟩
theorem arbitrationLost (t : Nat) : Statement (.arbitrationLost t) := ⟨rfl, rfl, rfl⟩
theorem arbitrationComplete (t : Nat) : Statement (.arbitrationComplete t) := ⟨rfl, rfl, rfl⟩
theorem sentSuccessfully (t : Nat) : Statement (.sentSuccessfully t) := ⟨rfl, rfl, rfl⟩
theorem transmitError (t : Nat) : Statement (.transmitError t) := ⟨rfl, rfl, rfl⟩
theorem suspensionExpiry (t : Nat) : Statement (.suspensionExpiry t) := ⟨rfl, rfl, rfl⟩
theorem statusTimerExpiry (t : Nat) : Statement (.statusTimerExpiry t) := ⟨rfl, rfl, rfl⟩
theorem helmPeriodExpiry (t : Nat) : Statement (.helmPeriodExpiry t) := ⟨rfl, rfl, rfl⟩
theorem staleExpiry (t : Nat) (n : Nat) : Statement (.staleExpiry t n) := ⟨rfl, rfl, rfl⟩
theorem lostExpiry (t : Nat) (n : Nat) : Statement (.lostExpiry t n) := ⟨rfl, rfl, rfl⟩
theorem helmAgeExpiry (t : Nat) (n : Nat) : Statement (.helmAgeExpiry t n) := ⟨rfl, rfl, rfl⟩
theorem graceExpiry (t : Nat) : Statement (.graceExpiry t) := ⟨rfl, rfl, rfl⟩
theorem muteExpiry (t : Nat) : Statement (.muteExpiry t) := ⟨rfl, rfl, rfl⟩
theorem controlStep (t : Nat) (shaft : Nat) : Statement (.controlStep t shaft) := ⟨rfl, rfl, rfl⟩
theorem dwellExpiry (t : Nat) (shaft : Nat) : Statement (.dwellExpiry t shaft) := ⟨rfl, rfl, rfl⟩
theorem deviationExpiry (t : Nat) (shaft : Nat) : Statement (.deviationExpiry t shaft) := ⟨rfl, rfl, rfl⟩
theorem stallExpiry (t : Nat) (rudder : Nat) : Statement (.stallExpiry t rudder) := ⟨rfl, rfl, rfl⟩
theorem haulTimeoutExpiry (t : Nat) (winch : Nat) : Statement (.haulTimeoutExpiry t winch) := ⟨rfl, rfl, rfl⟩
theorem haulPulseExpiry (t : Nat) (winch : Nat) : Statement (.haulPulseExpiry t winch) := ⟨rfl, rfl, rfl⟩
theorem releaseWaitExpiry (t : Nat) (winch : Nat) : Statement (.releaseWaitExpiry t winch) := ⟨rfl, rfl, rfl⟩
theorem releaseHoldExpiry (t : Nat) (winch : Nat) : Statement (.releaseHoldExpiry t winch) := ⟨rfl, rfl, rfl⟩
theorem pullOffTimerExpiry (t : Nat) : Statement (.pullOffTimerExpiry t) := ⟨rfl, rfl, rfl⟩
theorem fuelPeriodExpiry (t : Nat) : Statement (.fuelPeriodExpiry t) := ⟨rfl, rfl, rfl⟩
theorem intervalExpiry (t : Nat) (chan : Nat) : Statement (.intervalExpiry t chan) := ⟨rfl, rfl, rfl⟩
theorem periodEdge (t : Nat) (chan : Nat) (edge : Edge) : Statement (.periodEdge t chan edge) := ⟨rfl, rfl, rfl⟩
theorem dutyEdge (t : Nat) (chan : Nat) (edge : Edge) : Statement (.dutyEdge t chan edge) := ⟨rfl, rfl, rfl⟩
theorem periodWindowExpiry (t : Nat) (chan : Nat) : Statement (.periodWindowExpiry t chan) := ⟨rfl, rfl, rfl⟩
theorem dutyWindowExpiry (t : Nat) (chan : Nat) : Statement (.dutyWindowExpiry t chan) := ⟨rfl, rfl, rfl⟩
theorem periodStart (t : Nat) : Statement (.periodStart t) := ⟨rfl, rfl, rfl⟩
theorem joinTimerExpiry (t : Nat) : Statement (.joinTimerExpiry t) := ⟨rfl, rfl, rfl⟩
theorem panelTimeout (t : Nat) : Statement (.panelTimeout t) := ⟨rfl, rfl, rfl⟩

end Sys2Proof.Laws.Timing
end

