-- ==== Sys2Proof/Laws/Share.lean ====
section
/-!
SUPPORT. What share filling (R37, R38) and the shaft split (R40) do: the visiting order and the stopping point of the walk, and
every target as R40 gives it.
-/

namespace Sys2Proof.Machine

/-! ## Share filling (R37, R38) -/

theorem realMember_w {m : Member} (h : realMember m = true) : 0 < m.w := by
  simp only [realMember, Bool.and_eq_true, decide_eq_true_eq] at h
  exact Nat.pos_of_ne_zero h.2

theorem insertMember_perm (m : Member) : ∀ l : List Member, (insertMember m l).Perm (m :: l)
  | [] => .refl _
  | x :: xs => by
    unfold insertMember
    split
    · exact ((insertMember_perm m xs).cons x).trans (.swap m x xs)
    · exact .refl _

theorem orderMembers_perm : ∀ l : List Member, (orderMembers l).Perm l
  | [] => .refl _
  | m :: ms => (insertMember_perm m _).trans ((orderMembers_perm ms).cons m)

theorem visitedFirst_of_before {i j : Member} (h : before i j = true) : VisitedFirst i j := by
  simp only [before, Bool.or_eq_true, Bool.and_eq_true, decide_eq_true_eq] at h
  exact h.imp id fun h => ⟨h.1, h.2.le⟩

theorem visitedFirst_of_not_before {i j : Member} (h : ¬before i j = true) : VisitedFirst j i := by
  simp only [before, Bool.or_eq_true, Bool.and_eq_true, decide_eq_true_eq, not_or, not_and] at h
  unfold VisitedFirst
  rcases Nat.lt_or_eq_of_le (Nat.not_lt.1 h.1) with h1 | h1
  · exact .inl h1
  · exact .inr ⟨h1, Nat.not_lt.1 (h.2 h1.symm)⟩

/-- The order of R38 is transitive where the weights are above 0. -/
theorem VisitedFirst.trans {i j k : Member} (hi : 0 < i.w) (hj : 0 < j.w) (hk : 0 < k.w) (h1 : VisitedFirst i j)
    (h2 : VisitedFirst j k) : VisitedFirst i k := by
  have l1 : i.c * j.w ≤ j.c * i.w := h1.elim Nat.le_of_lt fun h => h.1.le
  have l2 : j.c * k.w ≤ k.c * j.w := h2.elim Nat.le_of_lt fun h => h.1.le
  have m1 : i.c * k.w * j.w ≤ j.c * i.w * k.w := by
    rw [Nat.mul_right_comm]; exact Nat.mul_le_mul_right _ l1
  have m2 : j.c * i.w * k.w ≤ k.c * i.w * j.w := by
    rw [Nat.mul_right_comm, Nat.mul_right_comm k.c]; exact Nat.mul_le_mul_right _ l2
  rcases Nat.lt_or_eq_of_le (Nat.le_of_mul_le_mul_right (m1.trans m2) hj) with h | h
  · exact .inl h
  · have t1 : i.c * j.w = j.c * i.w := by
      refine Nat.eq_of_mul_eq_mul_right hk (le_antisymm (Nat.mul_le_mul_right _ l1) ?_)
      rw [Nat.mul_right_comm i.c, h]; exact m2
    have t2 : j.c * k.w = k.c * j.w := by
      refine Nat.eq_of_mul_eq_mul_right hi (le_antisymm (Nat.mul_le_mul_right _ l2) ?_)
      rw [Nat.mul_right_comm k.c, ← h, Nat.mul_right_comm j.c]; exact m1
    unfold VisitedFirst at h1 h2
    exact .inr ⟨h, by omega⟩

theorem insertMember_sorted {m : Member} (hm : 0 < m.w) : ∀ {l : List Member}, (∀ x ∈ l, 0 < x.w) →
    l.Pairwise VisitedFirst → (insertMember m l).Pairwise VisitedFirst
  | [], _, _ => by simp [insertMember]
  | x :: xs, hw, hs => by
    have hx := hw x (by simp)
    have hxs := List.pairwise_cons.1 hs
    unfold insertMember
    split
    · next hb =>
      refine List.pairwise_cons.2 ⟨fun y hy => ?_, insertMember_sorted hm (fun y hy => hw y (by simp [hy])) hxs.2⟩
      rcases List.mem_cons.1 ((insertMember_perm m xs).mem_iff.1 hy) with rfl | hy
      · exact visitedFirst_of_before hb
      · exact hxs.1 y hy
    · next hb =>
      have hmx := visitedFirst_of_not_before hb
      refine List.pairwise_cons.2 ⟨fun y hy => ?_, hs⟩
      rcases List.mem_cons.1 hy with rfl | hy
      · exact hmx
      · exact hmx.trans hm hx (hw y (by simp [hy])) (hxs.1 y hy)

/-- The members in the order of R38. -/
theorem orderMembers_sorted : ∀ {l : List Member}, (∀ x ∈ l, 0 < x.w) → (orderMembers l).Pairwise VisitedFirst
  | [], _ => List.Pairwise.nil
  | m :: ms, h => insertMember_sorted (h m (by simp))
      (fun x hx => h x (by simp [(orderMembers_perm ms).mem_iff.1 hx])) (orderMembers_sorted fun x hx => h x (by simp [hx]))

/-- The walk from `er` and `wr`: members that take their capacity, then the stopping point (R38). -/
theorem walk_stops : ∀ (er : Nat) (l : List Member), (∀ x ∈ l, 0 < x.w) → er < sumC l →
    ∃ full m b, l = full ++ m :: b ∧
      walk er (sumW l) l = full.map (fun x => (x.number, x.c)) ++
        (m :: b).map (fun x => (x.number, rulePart er l full x)) ∧
      (∀ a x c, full = a ++ x :: c → x.c ≤ rulePart er l a x) ∧ rulePart er l full m < m.c
  | _, [], _, h => by simp [sumC] at h
  | er, m :: ms, hw, h => by
    unfold walk
    by_cases ht : m.c ≤ er * m.w / sumW (m :: ms)
    · rw [if_pos ht]
      have hle : m.c ≤ er := by
        refine ht.trans (Nat.div_le_of_le_mul ?_)
        rw [Nat.mul_comm]
        exact Nat.mul_le_mul_right _ (by simp [sumW])
      have hlt : er - m.c < sumC ms := by simp [sumC] at h ⊢; omega
      obtain ⟨full, n, b, hl, hwalk, hfull, hstop⟩ := walk_stops (er - m.c) ms (fun x hx => hw x (by simp [hx])) hlt
      have hpart : ∀ (a : List Member) (x : Member), rulePart er (m :: ms) (m :: a) x = rulePart (er - m.c) ms a x := by
        intro a x
        simp only [rulePart, List.map_cons, List.sum_cons]
        rw [show er - (m.c + (a.map (·.c)).sum) = er - m.c - (a.map (·.c)).sum by omega,
          show m.w + (ms.map (·.w)).sum - (m.w + (a.map (·.w)).sum) = (ms.map (·.w)).sum - (a.map (·.w)).sum by omega]
      refine ⟨m :: full, n, b, by simp [hl], ?_, ?_, by rw [hpart]; exact hstop⟩
      · rw [show sumW (m :: ms) - m.w = sumW ms by simp [sumW], hwalk]
        simp [hpart]
      · intro a x c hx
        cases a with
        | nil =>
          obtain ⟨rfl, -⟩ := List.cons.inj hx
          simpa [rulePart, sumW] using ht
        | cons y a =>
          have hy := List.cons.inj hx
          rw [← hy.1, hpart]; exact hfull a x c hy.2
    · rw [if_neg ht]
      exact ⟨[], m, ms, rfl, by simp [rulePart, sumW], by simp, by simpa [rulePart, sumW] using ht⟩

/-- All that share filling does: every capacity where the demand covers them, else R38's walk. -/
theorem takes_eq {e : Nat} {ms : List Member} (hr : ∀ m ∈ ms, realMember m = true) :
    ((ms.map (·.c)).sum ≤ e → takes e ms = ms.map fun m => (m.number, m.c)) ∧
      (e < (ms.map (·.c)).sum → ∃ full rest, WalkStops e ms full rest ∧
        takes e ms = full.map (fun m => (m.number, m.c)) ++ rest.map fun m => (m.number, rulePart e ms full m)) := by
  refine ⟨fun h => if_pos h, fun h => ?_⟩
  have hp := orderMembers_perm ms
  have hw : ∀ x ∈ ms, 0 < x.w := fun x hx => realMember_w (hr x hx)
  have hW : sumW (orderMembers ms) = sumW ms := (hp.map _).sum_eq
  have hC : sumC (orderMembers ms) = sumC ms := (hp.map _).sum_eq
  have hpart : ∀ a x, rulePart e (orderMembers ms) a x = rulePart e ms a x := fun a x => by
    unfold rulePart; rw [(hp.map (·.w)).sum_eq]
  obtain ⟨full, m, b, hl, hwalk, hfull, hstop⟩ :=
    walk_stops e (orderMembers ms) (fun x hx => hw x (hp.mem_iff.1 hx)) (hC ▸ h)
  refine ⟨full, m :: b, ⟨hl ▸ hp, hl ▸ orderMembers_sorted hw, fun a x c hx => hpart a x ▸ hfull a x c hx,
    m, b, rfl, hpart full m ▸ hstop⟩, ?_⟩
  rw [takes, if_neg (by simp only [sumC]; omega), ← hW, hwalk]
  simp only [hpart]

/-! ## The shaft split (R40) -/

/-- Shaft `n` is served before shaft `m` (R40). -/
def servedFirst (a n x m : Nat) : Prop := x < a ∨ (x = a ∧ n ≤ m)

/-- The shaft served next: of those not yet served the one with the largest A_dir, the lower number first (R40). -/
theorem largest_next (served : List Nat) : ∀ (as : List Nat) (n : Nat) (best : Option (Nat × Nat)),
    (∀ k b, best = some (k, b) → k < n) →
    (largest served n best as = none → best = none ∧ ∀ i, i < as.length → n + i ∈ served) ∧
    ∀ k a, largest served n best as = some (k, a) →
      (best = some (k, a) ∨ ∃ i, as[i]? = some a ∧ k = n + i ∧ k ∉ served) ∧
        (∀ j b, best = some (j, b) → servedFirst a k b j) ∧
        ∀ i x, as[i]? = some x → n + i ∉ served → servedFirst a k x (n + i)
  | [], n, best, hb => by
    refine ⟨by simp [largest], fun k a h => ⟨.inl h, fun j b hj => ?_, by simp⟩⟩
    simp only [largest] at h
    cases h.symm.trans hj
    exact .inr ⟨rfl, le_rfl⟩
  | x :: xs, n, best, hb => by
    rw [largest.eq_def]
    simp only
    generalize hbe : (if n ∈ served then best else _) = best'
    have hfrom : ∀ p, best' = some p → best = some p ∨ (p = (n, x) ∧ n ∉ served) := by
      intro p hp
      subst hbe
      split at hp
      · exact .inl hp
      · cases best with
        | none => exact .inr ⟨by simpa using hp.symm, ‹_›⟩
        | some q =>
          simp only at hp
          split at hp
          · exact .inr ⟨by simpa using hp.symm, ‹_›⟩
          · exact .inl hp
    have hold : ∀ j b, best = some (j, b) → ∃ k a, best' = some (k, a) ∧ servedFirst a k b j := by
      rintro j b rfl
      subst hbe
      by_cases hn : n ∈ served
      · exact ⟨j, b, by simp [hn], .inr ⟨rfl, le_rfl⟩⟩
      · by_cases hx : b < x
        · exact ⟨n, x, by simp [hn, hx], .inl hx⟩
        · exact ⟨j, b, by simp [hn, hx], .inr ⟨rfl, le_rfl⟩⟩
    have hnew : n ∉ served → ∃ k a, best' = some (k, a) ∧ servedFirst a k x n := by
      intro hn
      subst hbe
      cases best with
      | none => exact ⟨n, x, by simp [hn], .inr ⟨rfl, le_rfl⟩⟩
      | some q =>
        by_cases hx : q.2 < x
        · exact ⟨n, x, by simp [hn, hx], .inr ⟨rfl, le_rfl⟩⟩
        · refine ⟨q.1, q.2, by simp [hn, hx], ?_⟩
          have := hb q.1 q.2 rfl
          unfold servedFirst; omega
    have ih := largest_next served xs (n + 1) best' fun k b hk => by
      rcases hfrom _ hk with h | h
      · exact Nat.lt_succ_of_lt (hb _ _ h)
      · cases h.1; omega
    have tr : ∀ {a k x j y m}, servedFirst a k x j → servedFirst x j y m → servedFirst a k y m := by
      intro a k x j y m h1 h2
      unfold servedFirst at *; omega
    refine ⟨fun h => ?_, fun k a h => ?_⟩
    · obtain ⟨hb', hs⟩ := ih.1 h
      have hn : n ∈ served := by
        by_contra hn
        obtain ⟨_, _, h', _⟩ := hnew hn
        simp [hb'] at h'
      refine ⟨?_, fun i hi => ?_⟩
      · cases hbest : best with
        | none => rfl
        | some q =>
          obtain ⟨_, _, h', _⟩ := hold q.1 q.2 hbest
          simp [hb'] at h'
      · cases i with
        | zero => exact hn
        | succ i => simpa [Nat.add_right_comm, Nat.add_assoc] using hs i (by simpa using hi)
    · obtain ⟨hfr, hle, hall⟩ := ih.2 k a h
      refine ⟨?_, fun j b hj => ?_, fun i y hy hi => ?_⟩
      · rcases hfr with h' | ⟨i, hi, rfl, hk⟩
        · rcases hfrom _ h' with h'' | ⟨h'', hn⟩
          · exact .inl h''
          · cases h''
            exact .inr ⟨0, by simp, by simp, by simpa using hn⟩
        · exact .inr ⟨i + 1, by simpa using hi, by omega, hk⟩
      · obtain ⟨k', a', h', hs⟩ := hold j b hj
        exact tr (hle _ _ h') hs
      · cases i with
        | zero =>
          obtain ⟨k', a', h', hs⟩ := hnew hi
          cases (by simpa using hy : x = y)
          exact tr (hle _ _ h') hs
        | succ i =>
          have e : n + (i + 1) = n + 1 + i := by omega
          rw [e] at hi ⊢
          exact hall i y (by simpa using hy) hi

/-- A sum with one of its items taken out. -/
theorem sum_map_take {g : Nat → Nat} {k : Nat} : ∀ {l : List Nat}, l.Nodup → k ∈ l →
    (l.map g).sum = g k + (l.map fun m => if m = k then 0 else g m).sum
  | [], _, h => by cases h
  | x :: xs, hn, h => by
    have hx := List.nodup_cons.1 hn
    by_cases he : x = k
    · subst he
      have : (xs.map fun m => if m = x then 0 else g m) = xs.map g :=
        List.map_congr_left fun m hm => if_neg (by rintro rfl; exact hx.1 hm)
      simp [this]
    · have := sum_map_take (g := g) hx.2 ((List.mem_cons.1 h).resolve_left (Ne.symm he))
      simp [he, this]; omega

theorem numbers_nodup (n : Nat) : (numbers n).Nodup :=
  (List.nodup_range).map fun _ _ h => Nat.succ.inj h

theorem mem_numbers {n m : Nat} : m ∈ numbers n ↔ 1 ≤ m ∧ m ≤ n := by
  simp only [numbers, List.mem_map, List.mem_range]
  exact ⟨fun ⟨i, hi, h⟩ => by omega, fun h => ⟨m - 1, by omega, by omega⟩⟩

theorem getN_isSome {α : Type} {l : List α} {m : Nat} (h : m ∈ numbers l.length) : (getN l m).isSome = true := by
  obtain ⟨h1, h2⟩ := mem_numbers.1 h
  cases m with
  | zero => omega
  | succ i => simpa using h2

/-- The room of the shafts not yet served that come before shaft `n` with availability `a`. -/
def roomBefore (as ts served : List Nat) (n a : Nat) : Nat :=
  ((numbers as.length).map fun m =>
    let x := (getN as m).getD 0
    if m ∉ served ∧ (a < x ∨ (x = a ∧ m < n)) then x - (getN ts m).getD 0 else 0).sum

/-- The number of shafts not yet served. -/
def unserved (n : Nat) (served : List Nat) : Nat :=
  ((numbers n).map fun m => if m ∈ served then 0 else 1).sum

theorem unserved_take {n k : Nat} {served : List Nat} (hk : k ∈ numbers n) (hs : k ∉ served) :
    unserved n served = unserved n (k :: served) + 1 := by
  rw [unserved, sum_map_take (numbers_nodup n) hk, if_neg hs, Nat.add_comm]
  refine congrArg (· + 1) (congrArg List.sum (List.map_congr_left fun m _ => ?_))
  by_cases hm : m = k <;> simp [hm]

theorem placeRemainder_get (as : List Nat) : ∀ (fuel : Nat) (served : List Nat) (rem : Nat) (ts : List Nat),
    ts.length = as.length → unserved as.length served ≤ fuel →
    ∀ n a t, getN as n = some a → getN ts n = some t →
      getN (placeRemainder as fuel served rem ts) n =
        some (if n ∈ served then t else t + min (a - t) (rem - roomBefore as ts served n a))
  | 0, served, rem, ts, hl, hf, n, a, t, ha, ht => by
    have hn : n ∈ served := by
      by_contra hn
      have := unserved_take (mem_numbers.2 (getN_lt ha)) hn
      omega
    simp [placeRemainder, hn, ht]
  | fuel + 1, served, rem, ts, hl, hf, n, a, t, ha, ht => by
    have hL := largest_next served as 1 none (by simp)
    unfold placeRemainder
    cases hk : largest served 1 none as with
    | none =>
      have hn : n ∈ served := by
        have := (hL.1 hk).2 (n - 1) (by have := getN_lt ha; omega)
        rwa [show 1 + (n - 1) = n by have := getN_lt ha; omega] at this
      simp [hn, ht]
    | some p =>
      obtain ⟨k, ak⟩ := p
      obtain ⟨hfr, -, hall⟩ := hL.2 k ak hk
      have hpref : ∀ m x, getN as m = some x → m ∉ served → servedFirst ak k x m := by
        intro m x hm hs
        obtain ⟨i, rfl⟩ := Nat.exists_eq_succ_of_ne_zero (show m ≠ 0 by have := getN_lt hm; omega)
        have := hall i x (by simpa using hm) (by rwa [Nat.add_comm])
        rwa [Nat.add_comm] at this
      obtain ⟨hak, hks⟩ : getN as k = some ak ∧ k ∉ served := by
        obtain ⟨i, hi, rfl, hks⟩ := hfr.resolve_left (by simp)
        exact ⟨by rw [Nat.add_comm]; simpa using hi, hks⟩
      clear hfr hall hL hk
      have hkm := mem_numbers.2 (getN_lt hak)
      obtain ⟨tk, htk⟩ : ∃ tk, getN ts k = some tk := by
        have hkl := getN_lt hak
        cases k with
        | zero => omega
        | succ j => exact ⟨ts[j]'(by omega), by simp⟩
      simp only [htk, Option.getD_some]
      have ih := placeRemainder_get as fuel (k :: served) (rem - min rem (ak - tk))
        (modN ts k (· + min rem (ak - tk))) (by simpa using hl) (by have := unserved_take hkm hks; omega) n a
      by_cases hnk : n = k
      · subst hnk
        cases ha.symm.trans hak
        cases ht.symm.trans htk
        have hz : roomBefore as ts served n a = 0 := by
          refine List.sum_eq_zero fun y hy => ?_
          obtain ⟨m, hm, rfl⟩ := List.mem_map.1 hy
          refine if_neg fun hc => ?_
          have := getN_isSome hm
          obtain ⟨x, hx⟩ := Option.isSome_iff_exists.1 this
          have := hpref m x hx hc.1
          simp only [hx, Option.getD_some] at hc
          unfold servedFirst at this; omega
        rw [ih (t + min rem (a - t)) ha (by simp [ht])]
        simp [hks, hz, Nat.min_comm]
      · have hkn : k ≠ n := Ne.symm hnk
        rw [ih t ha (by rw [getN_modN_ne hkn]; exact ht)]
        by_cases hns : n ∈ served
        · simp [hns]
        · have hp := hpref n a ha hns
          have hsplit : roomBefore as ts served n a =
              (ak - tk) + roomBefore as (modN ts k (· + min rem (ak - tk))) (k :: served) n a := by
            rw [roomBefore, sum_map_take (numbers_nodup _) hkm]
            refine congrArg₂ (· + ·) ?_ (congrArg List.sum (List.map_congr_left fun m _ => ?_))
            · simp only [hak, htk, Option.getD_some]
              refine if_pos ⟨hks, ?_⟩
              unfold servedFirst at hp; omega
            · by_cases hm : m = k
              · simp [hm]
              · simp [hm, getN_modN_ne (Ne.symm hm)]
          simp only [List.mem_cons, hnk, hns, or_self, if_false, hsplit]
          congr 2; omega

/-- Every target of the shaft split is the one R40 gives. -/
theorem splitShare_get {b : Nat} {as : List Nat} {n a : Nat} (h : getN as n = some a) :
    getN (splitShare b as.sum as) n = some (ruleTarget b as n a) := by
  have hb : ∀ m, getN (baseTargets b as.sum as) m = (getN as m).map fun x => b * x / as.sum := fun m => by
    cases m <;> simp [baseTargets, getN]
  have hu : unserved as.length [] ≤ as.length := by
    refine (List.sum_le_card_nsmul _ 1 ?_).trans (by simp [numbers])
    simp
  rw [splitShare, placeRemainder_get as as.length [] _ _ (by simp [baseTargets]) hu n a (b * a / as.sum) h (by simp [hb, h])]
  simp only [List.not_mem_nil, if_false, ruleTarget, roomBefore, hb]
  rw [show baseTargets b as.sum as = as.map fun x => b * x / as.sum from rfl]
  congr 4
  refine congrArg List.sum (List.map_congr_left fun m hm => ?_)
  obtain ⟨x, hx⟩ := Option.isSome_iff_exists.1 (getN_isSome hm)
  simp [hx]

end Sys2Proof.Machine
end

