-- ==== Sys2Proof/Tests/Slice0.lean ====
section
/-!
SUPPORT. The model's own tests: ill-formed commands refused by `Instr.wf`, request writes read from bytes written out from
11_formats.md, single steps with results worked out by hand from the rules named, and for every statement with
hypotheses a state and operands that meet them.
-/

namespace Sys2Proof.Tests

open Sys2Proof Sys2Proof.Machine

set_option maxRecDepth 100000
set_option Elab.async false

/-! ## A small station -/

/-- One shaft of 1000 kW on the engine of tank 1. -/
def shaft1 : ShaftCfg :=
  { rated := 1000, astern := 600, limited := 500, rampUp := 400, rampDown := 800, rampEmergency := 5000, dwell := 3000
    releaseThreshold := 100, stopRpm := 300, tolerance := 40, deviationTime := 3000, pulsesPerRev := 8
    curve := (List.range 17).map fun i => 600 + 80 * i
    dutyIdle := 200, dutyMax := 900, gRud := 1000, thetaMax := 350, deadband := 5, kp := 200, minDuty := 300
    stallTime := 5000, dayTank := 1, kFlow := 50, quantum := 20, specific := 210 }

/-- One winch on the tow. -/
def winch1 : WinchCfg :=
  { partFloor := 40, tSlack := 80, tLo := 300, tMake := 450, tHi := 900, tRender := 1300, partArm := 600, f0 := 100000
    fFs := 500000, tFs := 2000, haulTimeout := 60000, haulPulse := 1500, releaseWait := 3000, releaseHold := 2000
    unsensed := 800 }

/-- A DAY tank and a STORAGE tank. -/
def tanks1 : List TankCfg :=
  [ { capacity := 2000000, reserve := 400000, cutoff := 100000, low := 900000, high := 1800000, source := some 2
      derate := 700, fEmpty := 20000, fFull := 420000, tolerance := 50000 },
    { role := .storage, capacity := 60000000, cutoff := 2000000, high := 59000000 } ]

/-- Seven channels in use. -/
def chans1 : List ChanCfg :=
  [ { kind := .rpm, binding := some 1, count := 32, interval := 500, window := 200, deadCount := 3 },
    { kind := .flow, binding := some 1, count := 100, interval := 1000, window := 1000, deadCount := 3 },
    { kind := .angle, binding := some 1, count := 4, interval := 100, window := 60, deadCount := 3 },
    { kind := .load, binding := some 1, count := 64, interval := 250, window := 100, deadCount := 3 },
    { kind := .xferMeter, count := 64, interval := 250, window := 100, deadCount := 3 },
    { kind := .bunkerMeter, count := 64, interval := 250, window := 100, deadCount := 3 },
    { kind := .level, binding := some 1, count := 110, interval := 250, window := 300, deadCount := 3 } ] ++
    List.replicate 17 ({} : ChanCfg)

/-- Eight lines in use, all enabled. -/
def lines1 : List LineCfg :=
  [ { assignment := .governor 1, enabled := true }, { assignment := .clutchAhead 1, enabled := true },
    { assignment := .clutchAstern 1, enabled := true }, { assignment := .rudderPort 1, enabled := true },
    { assignment := .rudderStbd 1, enabled := true }, { assignment := .winchHaul 1, enabled := true },
    { assignment := .winchPayout 1, enabled := true }, { assignment := .transferPump, enabled := true } ] ++
    List.replicate 16 ({} : LineCfg)

/-- Station 2, rank 3. -/
def cfg1 : Cfg :=
  { station := 2, rank := 3, helmCapable := true, statusPeriod := 250, helmUnits := 20, lostCount := 8, graceTime := 5
    fuelPeriod := 10, controlStep := 100, lateral := 10, gDiff := 200, minMade := 1, balance := 40000
    reserveLevel := 1000, shafts := [shaft1], winches := [winch1], kx := 1000, kb := 1000, tanks := tanks1
    chans := chans1, drivePeriod := 10, deadZone := 20, lines := lines1 }

/-- The station RUNNING, 10 s after power-on, its engine running. -/
def live : State :=
  { clock := 10000000, cfg := cfg1, svp := { mode := .running }, sfc := [{ engine := .running }]
    stc := { rudders := [{}] }, cpc := { winches := [{}] }
    fau := { tanks := [{ raw := 1500000 }, { raw := 9000000 }], burns := [{}] } }

/-- `live` with one shaft record changed. -/
def withShaft (r : Shaft) : State := { live with sfc := [r] }

/-- `live` with one winch record changed. -/
def withWinch (w : Winch) : State := { live with cpc := { live.cpc with winches := [w] } }

/-- `live` with a rudder record changed. -/
def withRudder (r : Rudder) : State := { live with stc := { live.stc with rudders := [r] } }

/-- `live` with another LIF. -/
def withLif (l : Lif) : State := { live with lif := l }

/-- `live` with another CVU. -/
def withCvu (v : Cvu) : State := { live with cvu := v }

/-- `live` with channel 1 (RPM) and channel 3 (ANGLE) records and what two engines hold. -/
def withGauge (a b : Chan) (m1 m2 : Option Meas) : State :=
  { live with
    pgu := { chans := [a, {}, b] ++ List.replicate 21 {}, engines := [m1, m2] ++ List.replicate 4 none } }

/-- `live` with the lines 2 and 3, the clutches of shaft 1. -/
def withLines (a b : Line) : State :=
  { live with dlu := { lines := [{}, a, b] ++ List.replicate 21 {}, periodAt := some 10000 } }

/-- An intact frame of a station. -/
def frameOf (k : FrameKind) (n seq : Nat) (payload : List Byte) : RxFrame :=
  { arb := BitVec.ofNat 8 (arbValue k n), seq := BitVec.ofNat 8 seq, payload := payload
    crc := crc16 (frameHead (arbValue k n) (FrameKind.code k) seq payload) }

/-- A STATUS payload: RUNNING, contributing, MADE, lost count 8, period 250 ms, 1500 kW rated, two shafts ahead. -/
def statusBytes : List Byte :=
  [2, 1, 2, 8, 0, 250, 0x05, 0xDC, 0x05, 0xDC, 0x02, 0x8A, 0x03, 0xE8, 0x07, 0xD0, 0x07, 0xD0, 2, 1, 1, 0, 0, 0]

/-- A HELM payload: rank 1, helm period 200 ms, D = 500, δ = −100, order 7, empty sets. -/
def helmBytes : List Byte := [1, 20, 0, 0x01, 0xF4, 0xFF, 0x9C, 7, 0, 0, 0, 0]

/-- A FUEL payload: 40000 L aboard, 1200 dL/h, no reserve. -/
def fuelBytes : List Byte := [0, 0, 0x9C, 0x40, 0x04, 0xB0, 0, 0]

/-- The outcome is a next state of which `p` holds. -/
def nextWith (p : State → Bool) (o : Host.Outcome State Fault Refusal) : Bool :=
  match o with
  | .next s => p s
  | _ => false

/-! ## Ill-formed commands (the checks of WellFormed.lean) -/

theorem test_wf_config_write_empty : Instr.wf (.configWrite 0 0 []) = false := by decide

theorem test_wf_config_write_long : Instr.wf (.configWrite 0 0 (List.replicate 33 1)) = false := by decide

theorem test_wf_config_write_full : Instr.wf (.configWrite 0 0 (List.replicate 32 1)) = true := by decide

theorem test_wf_frame_crc : Instr.wf (.fuelFrame 0 { frameOf .fuel 1 0 fuelBytes with crc := 0 }) = false := by
  decide +kernel

theorem test_wf_frame_class : Instr.wf (.helmFrame 0 (frameOf .fuel 1 0 fuelBytes)) = false := by decide +kernel

theorem test_wf_frame_sender : Instr.wf (.fuelFrame 0 (frameOf .fuel 7 0 fuelBytes)) = false := by decide +kernel

theorem test_wf_frame_length : Instr.wf (.fuelFrame 0 (frameOf .fuel 1 0 [1, 2])) = false := by decide +kernel

theorem test_wf_frame_ok : Instr.wf (.fuelFrame 0 (frameOf .fuel 1 0 fuelBytes)) = true := by decide +kernel

theorem test_wf_malformed_not : Instr.wf (.malformed 0 4 (frameOf .fuel 1 0 fuelBytes)) = false := by decide +kernel

theorem test_wf_duplicate_crc : Instr.wf (.duplicate 0 .fuel { frameOf .fuel 2 0 fuelBytes with crc := 1 }) = false := by
  decide +kernel

theorem test_wf_line_idle :
    Instr.wf (.lineIdle ⟨8, some 7⟩) = false ∧ Instr.wf (.lineIdle ⟨8, some 8⟩) = true := by decide

theorem test_wf_numbers :
    [Instr.wf (.staleExpiry 0 0), Instr.wf (.lostExpiry 0 7), Instr.wf (.helmAgeExpiry 0 7), Instr.wf (.controlStep 0 4),
      Instr.wf (.stallExpiry 0 0), Instr.wf (.releaseHoldExpiry 0 5), Instr.wf (.intervalExpiry 0 25),
      Instr.wf (.dutyEdge 0 0 .rising)] = List.replicate 8 false := by decide

theorem test_wf_numbers_ok :
    [Instr.wf (.staleExpiry 0 6), Instr.wf (.controlStep 0 3), Instr.wf (.releaseHoldExpiry 0 4),
      Instr.wf (.intervalExpiry 0 24)] = List.replicate 4 true := by decide

/-! ## Request writes (code table of 11_formats.md) -/

theorem test_decode_panel :
    decodeRequest 5 [0x03, 7, 0x01, 0xF4, 0xFF, 0x9C, 0x03, 0x10, 0x20] =
      some (.panel 5 500 0xFF9C 0x03 0x10 0x20) := by decide

theorem test_decode_transfer_start :
    decodeRequest 5 [0x06, 6, 2, 1, 0x00, 0x0F, 0x42, 0x40] = some (.transferStart 5 2 1 1000000) := by decide

theorem test_decode_config_write : decodeRequest 5 [0x9F, 2, 0xAB, 0xCD] = some (.configWrite 5 31 [0xAB, 0xCD]) := by
  decide

theorem test_decode_read_journal : decodeRequest 5 [0x16, 4, 0, 0, 1, 2] = some (.readJournal 5 258) := by decide

theorem test_decode_no_parameters :
    [decodeRequest 5 [0x01, 0], decodeRequest 5 [0x02, 0], decodeRequest 5 [0x0B, 0], decodeRequest 5 [0x18, 0]] =
      [some (.start 5), some (.restart 5), some (.clearParted 5), some (.readGauges 5)] := by decide

theorem test_decode_refused :
    [decodeRequest 5 [0x01, 1, 0], decodeRequest 5 [0x0E, 0], decodeRequest 5 [0x05, 1], decodeRequest 5 [0x80, 0],
      decodeRequest 5 [0x05]] = List.replicate 5 none := by decide

theorem test_table_word_none : decodeTableWord 8 3 = none := by decide

/-! ## Worked results: service port, view, line -/

/-- R166, R190: CRC-16 with polynomial 0x1021 from 0xFFFF over the digits 1 to 9 is 0x29B1. -/
theorem test_crc_check_value : crc16 [0x31, 0x32, 0x33, 0x34, 0x35, 0x36, 0x37, 0x38, 0x39] = 0x29B1 := by
  decide +kernel

/-- R183: the reply held right after power-on is NO_REQUEST with a length of 0. -/
theorem test_reset_reply : (replyBytes State.reset.svp.reply) = [6, 0, 0] := by decide

/-- R189: page 31 holds the last bytes of the image. -/
theorem test_config_write_last :
    nextWith (fun u => decide (imageRead u.svp.image 1023 = 7 ∧ u.svp.reply.status = .ok))
      (exec (.configWrite 5 31 (List.replicate 31 0 ++ [7])) State.reset) = true := by decide +kernel

/-- R189, R201: one byte past the image's end is REFUSED OFFSET. -/
theorem test_config_write_past_end :
    nextWith (fun u => decide (u.svp.reply.reason = some .offset ∧ u.svp.image = []))
      (exec (.configWrite 5 32 [7]) State.reset) = true := by decide +kernel

/-- R194: the lever and the tiller are clamped to ±1000 and ±350. -/
theorem test_panel_clamps :
    nextWith (fun u => decide (u.svp.panel.lever = -1000 ∧ u.svp.panel.tiller = 350 ∧ u.svp.panelAt = some 10500))
      (exec (.panel 10000000 0x8000 0x7FFF 0 0 0) live) = true := by decide +kernel

/-- R12: a change of the release set advances the own order number from 255 to 0. -/
theorem test_panel_order_wraps :
    nextWith (fun u => decide (u.cvu.ownOrder = 0 ∧ u.svp.panel.releaseSet = [2, 5]))
      (exec (.panel 10000000 0 0 0 0x24 0) (withCvu { ownOrder := 255 })) = true := by decide +kernel

/-- R196: CLEAR_ATTENTION clears the flags named and answers with the rest. -/
theorem test_clear_attention :
    nextWith (fun u => decide (u.svp.flags = 0x2000 ∧ u.svp.reply.data = [0x20, 0x00]))
      (exec (.clearAttention 5 0xC001) { live with svp := { live.svp with flags := 0x2001 } }) = true := by decide +kernel

/-- R199: a pin reset keeps nothing but the queue, with the straps as read. -/
theorem test_pin_reset :
    nextWith (fun u => decide (u.clock = 0 ∧ portAddress u = 0x5B ∧ u.cfg = {}))
      (exec (.pinReset 3) live) = true := by decide +kernel

/-- R3, R9: a STATUS of station 5 makes its entry, and R_nom is 1000 + 1500. -/
theorem test_status_frame :
    nextWith (fun u => decide (u.cvu.peers.map (·.number) = [5] ∧ u.cvu.powerNom = 2500 ∧ u.lif.receivedOk = 1))
      (exec (.statusFrame 10000000 (frameOf .status 5 9 statusBytes)) live) = true := by decide +kernel

/-- R180: after sequence 254 a STATUS with 1 has jumped over two frames. -/
theorem test_status_gap : seqGap 254 1 = 2 := by decide

/-- R4, R14, R16: a helm event of a first claimant is followed with its D and δ. -/
theorem test_helm_frame :
    nextWith (fun u => decide (u.cvu.followed = some 1 ∧ u.cvu.effD = 500 ∧ u.cvu.effDelta = -100))
      (exec (.helmFrame 10000000 (frameOf .helm 1 0 helmBytes)) live) = true := by decide +kernel

/-- R134: endurance is 40000 L × 100 / 1200 dL/h, truncated, with 10500 L aboard the own tanks. -/
theorem test_fuel_frame :
    nextWith (fun u => decide (u.fau.convoyAboard = 50500 ∧ u.fau.convoyBurn = 1200 ∧ u.fau.endurance = 4208))
      (exec (.fuelFrame 10000000 (frameOf .fuel 4 0 fuelBytes)) (fuelTotals live)) = true := by decide +kernel

/-- R178: a frame with the own number silences the station. -/
theorem test_duplicate :
    nextWith (fun u => decide (u.svp.mode = .silent ∧ u.svp.flags = 4))
      (exec (.duplicate 10000000 .fuel (frameOf .fuel 2 0 fuelBytes)) live) = true := by decide +kernel

/-- R172: the ALERT of station 2 with sequence 255 carries 02 01 FF 00 and its CRC; the counter returns to 0. -/
theorem test_arbitration_complete :
    nextWith (fun u => decide ((txBytes u).map (·.take 4) = some [2, 1, 255, 0] ∧ u.lif.seqAlert = 0))
      (exec (.arbitrationComplete 10000000)
        (withLif { tx := some { kind := .alert, payload := [] }, seqAlert := 255 })) = true := by decide +kernel

/-- R175: the sixteenth transmit error in a row suspends the transmitter for 1000 ms. -/
theorem test_suspension :
    nextWith (fun u => decide (u.lif.suspendedAt = some 11000 ∧ u.lif.runCount = 0 ∧ u.svp.flags = 8))
      (exec (.transmitError 10000000)
        (withLif { tx := some { kind := .fuel, payload := fuelBytes }, runCount := 15 })) = true := by decide +kernel

/-! ## Worked results: shares, shafts, rudders -/

/-- "Share Filling: Worked Case": D = +900 and D = +800. -/
theorem test_share_filling :
    (takes 7380 [⟨3, 1200, 900⟩, ⟨1, 4000, 4000⟩, ⟨2, 2400, 2400⟩], takes 6560 [⟨3, 1200, 900⟩, ⟨1, 4000, 4000⟩, ⟨2, 2400, 2400⟩]) =
      ([(1, 4000), (2, 2400), (3, 980)], [(1, 3594), (2, 2156), (3, 808)]) := by decide +kernel

/-- "Shortfall: Worked Case" and "Astern: Worked Case". -/
theorem test_share_shortfall_astern :
    (takes 7380 [⟨3, 1200, 900⟩, ⟨1, 4000, 4000⟩], takes 3280 [⟨3, 720, 540⟩, ⟨1, 2800, 2800⟩, ⟨2, 1560, 1560⟩]) =
      ([(3, 1200), (1, 4000)], [(1, 1874), (2, 1044), (3, 361)]) := by decide +kernel

/-- "Availability: Worked Case". -/
theorem test_availability : (availAhead 1500 600 700 875, availAstern 551 650, availAhead 1500 1000 1000 1000) =
    (551, 358, 1500) := by decide +kernel

/-- "Turn Bias and Shaft Split: Worked Case". -/
theorem test_bias_and_split :
    (biasOf 200 (-12) 800, biasedShare 808 54 1200, biasOf 200 10 800, biasedShare 2156 (-45) 2400,
      splitShare 2058 2400 [1500, 900], splitShare 5999 6000 [2000, 2000, 2000]) =
      (54, 851, -45, 2058, [1287, 771], [2000, 2000, 1999]) := by decide +kernel

/-- "Fuel Weight: Worked Case". -/
theorem test_fuel_weight : fuelWeight 14000 20000 8000 = 750 := by decide

/-- The curve of "Curve and Duty: Worked Case". -/
def shaft3 : ShaftCfg :=
  { rated := 1200, dutyIdle := 200, dutyMax := 900
    curve := [600, 760, 880, 980, 1065, 1140, 1208, 1270, 1328, 1383, 1437, 1496, 1555, 1614, 1680, 1742, 1800] }

/-- "Curve and Duty: Worked Case", "Rpm: Worked Case". -/
theorem test_curve_duty_rpm :
    (curveRpm shaft3 1032, governorDuty shaft3 1664, rpmOf 32 144300 8, rpmOf 12 54200 8) = (1664, 820, 1663, 1660) := by
  decide +kernel

/-- "Ramping: Worked Case". -/
theorem test_ramp :
    (rampTo 771 40 80 900, rampTo 771 40 80 820, rampTo 0 40 600 771, rampTo 0 40 600 171) = (820, 771, 171, 0) := by
  decide

/-- R48, R59, R60: one step of 100 ms at 400 kW/s lifts P by 40; 40 × 1024 / 1000 is 40 of 1024, in the first segment of
80 rpm: 600 + (80 × 40 + 32) / 64 = 650; the duty is 200 + 50 × 700 / 1280. -/
theorem test_control_step :
    nextWith (fun u => decide (u.sfc.map (fun r => (r.p, r.commanded, r.duty)) = [(40, 650, 227)]))
      (exec (.controlStep 10000000 1)
        (withShaft { dir := .ahead, target := 700, targetWay := some .ahead, engine := .running, stepAt := some 10000 })) =
      true := by decide +kernel

/-- R47: before its expiry the control step does nothing. -/
theorem test_control_step_early :
    nextWith (fun u => decide (u = withShaft { stepAt := some 10001 }))
      (exec (.controlStep 10000000 1) (withShaft { stepAt := some 10001 })) = true := by decide +kernel

/-- R52: at the dwell's end a shaft holding an astern target with a running engine goes ASTERN. -/
theorem test_dwell_ends :
    nextWith (fun u => decide (u.sfc.map (·.dir) = [.astern]))
      (exec (.dwellExpiry 10000000 1)
        (withShaft { dir := .dwell, target := 50, targetWay := some .astern, engine := .running
                     dwellAt := some 10000 })) = true := by decide +kernel

/-- "Angle: Worked Case", with the ends of the range of R72. -/
theorem test_angles :
    [angleOf (angleDuty 6760 10000), angleOf (angleDuty 3000 10000), angleOf (angleDuty 9230 10000),
      angleOf (angleDuty 9620 10000), angleOf 50, angleOf 49] =
      [some 198, some (-225), some 450, none, some (-450), none] := by decide +kernel

/-- "Authority: Worked Case", "Set-Point: Worked Case". -/
theorem test_authority_and_set_points :
    (compensation 4800 3900, compensation 4800 3000, setPointOf shaft1 200 1230, setPointOf { shaft1 with gRud := 900 } (-200) 1230,
      setPointOf { shaft1 with thetaMax := 300 } 300 1500) = (1230, 1500, 246, -221, 300) := by decide +kernel

/-- "Servo: Worked Sequence" at 0, 400 and 600 ms, "Stall: Worked Sequence" at 5050. -/
theorem test_servo :
    let c := { shaft1 with deadband := 8, kp := 40, minDuty := 250 }
    [(driveFor 8 246, driveDuty c 246), (driveFor 8 48, driveDuty c 48), (driveFor 8 7, driveDuty c 7),
      (driveFor 8 (-360), driveDuty c (-360))] =
      [(.stbd, 984), (.stbd, 250), (.stop, 0), (.port, 1000)] := by decide +kernel

/-! ## Worked results: couplings, fuel, gauges, lines -/

/-- "Tension: Worked Case". -/
theorem test_tension :
    (tensionOf winch1 (loadFrequency 64 22857), tensionOf winch1 (loadFrequency 64 66000)) = (900, 0) := by decide +kernel

/-- "Coupling Factor: Worked Case". -/
theorem test_coupling_factor :
    [winchFactor winch1 { state := .made, tension := some 1000 }, winchFactor winch1 { state := .made, tension := some 1190 },
      winchFactor winch1 { state := .rendering, tension := some 1310 }, winchFactor winch1 { state := .made }] =
      [875, 638, 500, 800] := by decide +kernel

/-- R91: from 700 to below the part floor the wire has parted. -/
theorem test_parting :
    (loadResult 1 10 10000 (withWinch { state := .made, tension := some 700 })).cpc.winches.map (·.state) = [.parted] := by
  decide +kernel

/-- R88: at the make threshold a hauling winch is MADE. -/
theorem test_make_up :
    (loadResult 1 64 32000 (withWinch { state := .hauling, timerAt := some 20000 })).cpc.summary = .made := by
  decide +kernel

/-- The station of "Burn: Worked Case". -/
def burning : State :=
  { live with
    fau :=
      { live.fau with
        tanks := [{ raw := 905000 }, { raw := 9000000 }], nextSerial := 57
        burns := [{ residue := 730, sinceBooked := 19990 }] } }

/-- "Burn: Worked Case": the flow result. -/
theorem test_burn :
    let u := flowResult 1 512 426700 burning
    u.fau.tanks.map (·.raw) = [904974, 9000000] ∧
      u.fau.burns = [{ residue := 330, sinceBooked := 16, lastRate := 2159 }] ∧
      u.fau.journal = [{ serial := 57, time := 10, kind := .burn, tank := 1, volume := 20000 }] := by
  decide +kernel

/-- "Discrepancy and REBASE: Worked Case": the soundings of tank 3. -/
theorem test_sounding :
    let c : TankCfg := { capacity := 60000000, fEmpty := 20000, fFull := 420000, tolerance := 50000 }
    (soundingOf c (centiHertz 110 50000), soundingOf c 219000, outOfTolerance c 30000000 29987712,
      outOfTolerance c 29850000 29987712) = (30000000, 29850000, false, true) := by decide +kernel

/-- "Convoy Fuel: Worked Case". -/
theorem test_endurance : (enduranceOf 111650 8457, enduranceOf 93250 6477, enduranceOf 5 0) = (1320, 1439, 65535) := by
  decide

/-- R123: a source at its cutoff is SOURCE_LOW. -/
theorem test_transfer_source_low :
    nextWith (fun u => decide (u.svp.reply.reason = some .sourceLow))
      (exec (.transferStart 10000000 2 1 0)
        { live with fau := { live.fau with tanks := [{ raw := 1500000 }, { raw := 2000000 }] } }) = true := by
  decide +kernel

/-- "Period Measurement: Worked Cases": edge 32 at 5 147 400 µs completes 144 300 µs, 1663 rpm. -/
theorem test_period_complete :
    nextWith (fun u => decide (engineOf 1 u = none ∧ u.sfc.map (·.lastRpm) = [some (1663, 10147)]))
      (exec (.periodEdge 10147400 1 .rising)
        (withGauge { req := .measuring } {}
          (some { chan := 1, phase := .counting, count := 31, start := 10003100, windowAt := 10200000 }) none)) = true := by
  decide +kernel

/-- The measurement after an edge of N = 4, or the result. -/
def edgeAt (x : Meas ⊕ Result) (at_ : Nat) (edge : Edge) : Meas ⊕ Result :=
  match x with
  | .inl m => dutyEdgeStep 4 at_ edge m
  | .inr r => .inr r

/-- "Duty Measurement: Worked Case". -/
theorem test_duty_complete :
    ([(2900, .falling), (6200, .rising), (12960, .falling), (16200, .rising), (22950, .falling), (26210, .rising),
        (32980, .falling), (36190, .rising), (42960, .falling), (46200, .rising)].foldl
        (fun x e => edgeAt x e.1 e.2) (.inl { chan := 2, windowAt := 60000 }) : Meas ⊕ Result).getRight? =
      some { outcome := .complete, count := 4, elapsed := 40000, high := 27050 } := by decide +kernel

/-- R147: no whole cycle at the window's end is NO_PULSE, the third in a row makes the channel DEAD and the rudder loses its
sensor. -/
theorem test_duty_dead :
    nextWith (fun u => decide (u.stc.rudders.map (·.state) = [.sensorLost] ∧ u.svp.flags = 16))
      (exec (.dutyWindowExpiry 10000000 3)
        (withGauge {} { req := .measuring, noPulse := 2 } none
          (some { chan := 3, phase := .low, windowAt := 10000000 }))) = true := by decide +kernel

/-- R159: a turn-on waits out the dead zone of its partner, which left its duty 5 ms ago. -/
theorem test_dead_zone :
    nextWith (fun u => decide ((getN u.dlu.lines 2).map (·.holdAt) = some (some 10015)))
      (exec (.periodStart 10000000)
        (withLines { requested := some 1000, pendingDuty := some 1000 } { applied := some 0, offTime := some 9995 })) =
      true := by decide +kernel

/-- R159: a partner still driven is forced off and counted. -/
theorem test_override :
    nextWith (fun u => decide ((getN u.dlu.lines 3).map (fun l => (l.applied, l.overrides)) = some (some 0, 1)))
      (exec (.periodStart 10000000)
        (withLines { requested := some 1000, pendingDuty := some 1000 } { applied := some 1000 })) = true := by
  decide +kernel

/-! ## Witnesses: the machine as a whole

Each theorem shows a state and operands that meet the hypotheses of the statement it is named after. -/

/-- What `nextWith` says of an outcome. -/
theorem nextWith_next {p : State → Bool} {o : Host.Outcome State Fault Refusal} (h : nextWith p o = true) :
    ∃ u, o = .next u ∧ p u = true := by
  cases o with
  | next u => exact ⟨u, rfl, h⟩
  | fault _ => cases h
  | refused _ => cases h

theorem test_witness_step_runs_front_command :
    ({ live with pending := [.depart 10000000, .lineIdle ⟨10000001, none⟩] } : State).pending =
      .depart 10000000 :: [.lineIdle ⟨10000001, none⟩] := rfl


theorem test_witness_image_kept :
    imageWf [(3, 1), (1023, 255)] = true ∧
      ∃ u, step { State.reset with
        pending := [.configWrite 5 31 [9]], svp := { image := [(3, 1), (1023, 255)] } } = .next u :=
  ⟨by decide, step_next _⟩

/-- Out of CONFIGURING `AsReset` asks nothing. -/
theorem asReset_of_mode {s : State} (h : s.svp.mode ≠ .configuring) : AsReset s := fun hm => absurd hm h

theorem test_witness_configuring_holds :
    AsReset { live with pending := [.pinReset 1] } ∧ ∃ u, step { live with pending := [.pinReset 1] } = .next u :=
  ⟨asReset_of_mode (by decide), step_next _⟩

/-- An entry of station 5, last heard at 9000 ms: stale at 9750 ms, lost at 11000 ms. -/
def peer5 : Peer := { number := 5, lastHeard := 9000, statusPeriod := 250, lostCount := 8 }

theorem peers_ok : PeersOk 2 [{ peer5 with number := 1 }, peer5] := by
  unfold PeersOk
  decide

theorem test_witness_peer_table_kept :
    PeerTableOk { withCvu { peers := [{ peer5 with number := 1 }, peer5] } with pending := [.staleExpiry 10000000 5] } ∧
      ∃ u, step { withCvu { peers := [{ peer5 with number := 1 }, peer5] } with
        pending := [.staleExpiry 10000000 5] } = .next u :=
  ⟨⟨asReset_of_mode (by decide), peers_ok⟩, step_next _⟩

/-- Channel 1 under measurement, channel 3 waiting. -/
def gauges : State :=
  { withGauge { req := .measuring } { req := .queued }
      (some { chan := 1, phase := .counting, count := 31, start := 9840000, windowAt := 10100000 }) none with
    pending := [.periodEdge 10000000 1 .rising] }

theorem hasReq_iff (r : ReqState) (n : Nat) (s : State) :
    hasReq r n s ↔ (getN s.pgu.chans n).map (·.req) = some r := by
  simp [hasReq]

theorem test_witness_gauge_queue_kept :
    GaugesOk { gauges with pgu := { gauges.pgu with queue := [3] } } ∧
      ∃ u, step { gauges with pgu := { gauges.pgu with queue := [3] } } = .next u := by
  refine ⟨⟨asReset_of_mode (by decide), rfl, rfl, by decide, by decide, ?_⟩, step_next _⟩
  intro n
  rw [hasReq_iff, hasReq_iff]
  by_cases h : n < 25
  · revert n
    decide +kernel
  · have : getN ({ gauges with pgu := { gauges.pgu with queue := [3] } } : State).pgu.chans n = none := by
      cases n with
      | zero => omega
      | succ k => exact List.getElem?_eq_none (by simp [gauges, withGauge]; omega)
    rw [this]
    constructor <;> simp [heldChans, gauges, withGauge] <;> omega

/-- A journal of two entries. -/
def journal2 : Fau :=
  { live.fau with
    journal := [{ serial := 5, time := 8, kind := .burn, tank := 1, volume := 20000 },
      { serial := 6, time := 9, kind := .rebase, tank := 2, volume := -40 }]
    nextSerial := 7 }

theorem journal2_ok : JournalOk { live with fau := journal2 } := by
  unfold JournalOk
  decide

theorem test_witness_journal_kept :
    JournalOk { live with fau := journal2, pending := [.rebase 10000000 1] } ∧
      ∃ u, step { live with fau := journal2, pending := [.rebase 10000000 1] } = .next u :=
  ⟨journal2_ok, step_next _⟩

/-- Two lines with one assignment are one line, or unused. -/
def onceAt (n m : Nat) : Bool :=
  match getN cfg1.lines n, getN cfg1.lines m with
  | some x, some y => decide (x.assignment = y.assignment → x.assignment ≠ .unused → n = m)
  | _, _ => true

/-- A number of a list of 24 is below 25. -/
theorem number_bound {α : Type} {l : List α} {n : Nat} {x : α} (hl : l.length = 24) (h : getN l n = some x) :
    n < 25 := by
  cases n with
  | zero => omega
  | succ k =>
    have := (List.getElem?_eq_some_iff.mp h).1
    omega

theorem assignedOnce_cfg1 : AssignedOnce cfg1 := by
  intro n m x y hx hy
  have key : ∀ n < 25, ∀ m < 25, onceAt n m = true := by decide +kernel
  have h := key n (number_bound rfl hx) m (number_bound rfl hy)
  simp only [onceAt, hx, hy, decide_eq_true_eq] at h
  exact h

/-- Clutch AHEAD driven, clutch ASTERN waiting to be turned off. -/
def clutches : State :=
  { withLines { applied := some 1000 } { pendingDuty := some 0 } with pending := [.periodStart 10000000] }

/-- What `PairOk` asks of a line and its partner in `clutches`. -/
def pairAt (n p : Nat) : Bool :=
  match getN clutches.dlu.lines n, getN clutches.dlu.lines p with
  | some a, some b =>
    decide (partnerLine n cfg1 = some p →
      (lineDriven n cfg1 a && lineDriven p cfg1 b) = false ∧ (pendingAbove0 a && pendingAbove0 b) = false ∧
        a.holdAt = none)
  | _, _ => true

theorem test_witness_pairs_kept : PairsOk clutches ∧ ∃ u, step clutches = .next u := by
  refine ⟨⟨asReset_of_mode (by decide), assignedOnce_cfg1, ?_⟩, step_next _⟩
  intro n p a b hp ha hb
  have key : ∀ n < 25, ∀ p < 25, pairAt n p = true := by decide +kernel
  have h := key n (number_bound rfl ha) p (number_bound rfl hb)
  simp only [pairAt, ha, hb, decide_eq_true_eq] at h
  have h := h hp
  exact ⟨h.1, h.2.1, by rw [h.2.2]; simp⟩

/-- A winch fast, the shafts stopped, and the panel about to ask for its own release. -/
def fastWinch : State :=
  { withWinch { state := .made, tension := some 500 } with
    pending := [.panel 10000000 0 0 4 0 0]
    cpc := { winches := [{ state := .made, tension := some 500 }], summary := .made } }

theorem test_witness_release_interlock :
    isReleasing 1 fastWinch = false ∧ ∃ u, step fastWinch = .next u ∧ isReleasing 1 u = true :=
  ⟨by decide, nextWith_next (p := isReleasing 1) (by decide +kernel)⟩

theorem test_witness_mode_changes :
    ∃ u, exec (.joinTimerExpiry 10000000) { live with svp := { mode := .joining, joinAt := some 10000 } } = .next u ∧
      decide (u.svp.mode = .running) = true :=
  nextWith_next (p := fun u => decide (u.svp.mode = .running)) (by decide +kernel)

theorem test_witness_flags_sticky :
    isReset (.restart 5) = false ∧ (∀ u m, (.restart 5 : Instr) ≠ .clearAttention u m) ∧
      ({ live with svp := { live.svp with flags := 1 } } : State).svp.flags.getLsbD 0 = true ∧
      ∃ u, exec (.restart 5) { live with svp := { live.svp with flags := 1 } } = .next u :=
  ⟨rfl, nofun, by decide, exec_next _ _⟩

theorem test_witness_command_frame :
    isReset (.lineIdle ⟨5, none⟩) = false ∧ (∀ u p d, (.lineIdle ⟨5, none⟩ : Instr) ≠ .configWrite u p d) ∧
      (∀ u, (.lineIdle ⟨5, none⟩ : Instr) ≠ .start u) ∧ ∃ u, exec (.lineIdle ⟨5, none⟩) live = .next u :=
  ⟨rfl, nofun, nofun, exec_next _ _⟩

theorem test_witness_block_frames :
    isReset (.lineIdle ⟨5, none⟩) = false ∧ isRequest (.lineIdle ⟨5, none⟩) = false ∧
      touchesPeers (.lineIdle ⟨5, none⟩) = false ∧ touchesGauges (.lineIdle ⟨5, none⟩) = false ∧
      touchesBooks (.lineIdle ⟨5, none⟩) = false ∧
      (∀ u l r f x y, (.lineIdle ⟨5, none⟩ : Instr) ≠ .panel u l r f x y) ∧
      (∀ u, (.lineIdle ⟨5, none⟩ : Instr) ≠ .panelTimeout u) ∧
      (∀ u, (.lineIdle ⟨5, none⟩ : Instr) ≠ .periodStart u) ∧ ∃ u, exec (.lineIdle ⟨5, none⟩) live = .next u :=
  ⟨rfl, rfl, rfl, rfl, rfl, nofun, nofun, nofun, exec_next _ _⟩

/-! ## Witnesses: service port and start control -/

theorem test_witness_writes_without_effect :
    ([0x00, 0x00] : List Byte) ≠ [] ∧ decodeRequest 5 [0x00, 0x00] = none ∧
      32 < (List.replicate 33 (1 : Byte)).length ∧ live.svp.mode ≠ .configuring ∧ State.reset.svp.mode = .configuring ∧
      1024 < (32 : BitVec 7).toNat * 32 + [(7 : Byte)].length := by decide +kernel

theorem test_witness_config_write_stores :
    imageWf State.reset.svp.image = true ∧ State.reset.svp.mode = .configuring ∧ (List.replicate 32 (1 : Byte)) ≠ [] ∧
      (List.replicate 32 (1 : Byte)).length ≤ 32 ∧
      (31 : BitVec 7).toNat * 32 + (List.replicate 32 (1 : Byte)).length ≤ 1024 := by decide +kernel

/-- An image as cells: the bytes that are not 0. -/
def cells : Nat → List Byte → List Host.Cell
  | _, [] => []
  | a, b :: bs => if b = 0 then cells (a + 1) bs else (a, b) :: cells (a + 1) bs

/-- A state in CONFIGURING with an image. -/
def loaded (bs : List Byte) : State := { State.reset with svp := { image := cells 0 bs } }

/-- A list filled with zeros up to a length. -/
def padTo (n : Nat) (l : List Byte) : List Byte := l ++ List.replicate (n - l.length) 0

/-- A small valid image before its trailer: one shaft, one winch, one tank, seven channels in use with one unused before
them, seven lines. -/
def imageBody : List Byte :=
  padTo 22 ([2, 3, 1] ++ be 2 250 ++ [20, 8, 5, 10, 100] ++ [10] ++ be 2 200 ++ [1] ++ be 4 40000 ++ be 4 1000) ++
    padTo 244 (1 :: be 2 1000 ++ be 2 600 ++ be 2 500 ++ be 2 400 ++ be 2 800 ++ be 2 5000 ++ be 2 3000 ++ be 2 100 ++
      be 2 300 ++ be 2 40 ++ be 2 3000 ++ be 2 8 ++ ((List.range 17).map fun i => be 2 (600 + 80 * i)).flatten ++
      be 2 200 ++ be 2 900 ++ be 2 1000 ++ be 2 350 ++ [5] ++ be 2 200 ++ be 2 300 ++ be 2 5000 ++ [1] ++ be 4 50 ++
      [20] ++ be 2 210) ++
    padTo 157 ([1, 0] ++ be 2 40 ++ be 2 80 ++ be 2 300 ++ be 2 450 ++ be 2 900 ++ be 2 1300 ++ be 2 600 ++ be 4 100000 ++
      be 4 500000 ++ be 2 2000 ++ be 4 60000 ++ be 2 1500 ++ be 4 3000 ++ be 2 2000 ++ be 2 800) ++
    padTo 249 (1 :: be 4 1000 ++ be 4 1000 ++ [0] ++ be 4 2000000 ++ be 4 1500000 ++ be 4 400000 ++ be 4 100000 ++
      be 4 900000 ++ be 4 1800000 ++ [0] ++ be 2 700 ++ be 4 20000 ++ be 4 420000 ++ be 4 50000) ++
    padTo 240 (padTo 10 [] ++ [1, 1, 0] ++ be 2 32 ++ be 2 500 ++ be 2 200 ++ [3] ++ [2, 1, 0] ++ be 2 100 ++ be 2 1000 ++
      be 2 1000 ++ [3] ++ [3, 1, 0] ++ be 2 4 ++ be 2 100 ++ be 2 60 ++ [3] ++
      [4, 1, 0] ++ be 2 64 ++ be 2 250 ++ be 2 100 ++ [3] ++ [5, 1, 0] ++ be 2 110 ++ be 2 250 ++ be 2 300 ++ [3] ++
      [6, 0, 0] ++ be 2 64 ++ be 2 250 ++ be 2 100 ++ [3] ++ [7, 0, 0] ++ be 2 64 ++ be 2 250 ++ be 2 100 ++ [3]) ++
    padTo 110 [10, 20, 1, 1, 1, 0, 2, 1, 1, 0, 3, 1, 1, 0, 4, 1, 1, 0, 5, 1, 1, 0, 6, 1, 1, 0, 7, 1, 1, 0]

/-- The image with its trailer. -/
def imageOf (body : List Byte) : List Byte := body ++ be 2 (crc16 body).toNat

theorem test_witness_start_refused :
    live.svp.mode ≠ .configuring ∧ State.reset.svp.mode = .configuring ∧
      (crc16 ((wholeImage State.reset.svp.image).take 1022)).toNat ≠ u16 (wholeImage State.reset.svp.image) 1022 := by
  decide +kernel

theorem test_witness_start_refused_field :
    (crc16 ((wholeImage (loaded (imageOf (List.replicate 1022 0))).svp.image).take 1022)).toNat =
        u16 (wholeImage (loaded (imageOf (List.replicate 1022 0))).svp.image) 1022 ∧
      firstFailure (wholeImage (loaded (imageOf (List.replicate 1022 0))).svp.image) = some ⟨1, 1, 0, false⟩ := by
  decide +kernel

theorem test_witness_start_accepted :
    AsReset (loaded (imageOf imageBody)) ∧ (loaded (imageOf imageBody)).svp.mode = .configuring :=
  ⟨fun _ => ⟨rfl, rfl, rfl, rfl, rfl, rfl, rfl, rfl, rfl, rfl, rfl, rfl, rfl, rfl⟩, rfl⟩

theorem test_witness_start_accepted_crc :
    (crc16 ((wholeImage (loaded (imageOf imageBody)).svp.image).take 1022)).toNat =
      u16 (wholeImage (loaded (imageOf imageBody)).svp.image) 1022 := by decide +kernel

theorem test_witness_start_accepted_fields :
    firstFailure (wholeImage (loaded (imageOf imageBody)).svp.image) = none := by decide +kernel

/-- R153, R164: the configured items the accepted image names, and what the gauges and the written lines then hold. -/
theorem test_start_requests :
    let u := startUp (parseImage (wholeImage (loaded (imageOf imageBody)).svp.image)) (loaded (imageOf imageBody))
    (u.cfg.shafts.length, u.cfg.winches.length, u.cfg.chans.length) = (1, 1, 24) ∧ u.pgu.queue = [8] ∧
      u.pgu.engines.map (Option.map (·.chan)) = [2, 3, 4, 5, 6, 7].map some ∧
      u.dlu.lines.map (·.pendingDuty) =
        [some 200, none, none, none, none, some 0, some 0] ++ List.replicate 17 none := by decide +kernel

theorem test_witness_in_service : live.svp.mode ≠ .configuring := by decide

theorem test_witness_restart_pull_off :
    ({ live with cpc := { live.cpc with pullOff := some { origin := .panel, expiry := 10500 } } } : State).cpc.pullOff.isSome =
      true := rfl

theorem test_witness_panel_taken : panelOf 0 0 0 0 0 = live.svp.panel := by decide +kernel

/-- The own station CLAIMING, its panel timeout at 10000 ms. -/
def helmsman : State :=
  { live with
    svp := { mode := .running, panel := { takeCommand := true }, panelState := .current, panelAt := some 10000 }
    cvu := { followed := some 2, helmState := .following, claim := .claiming, effD := 400, peers := [peer5] } }

theorem test_witness_panel_times_out :
    helmsman.svp.panelState = .current ∧ due (max helmsman.clock 10000000 / 1000) helmsman.svp.panelAt = true ∧
      helmsman.svp.mode = .running ∧ helmsman.svp.panel.takeCommand = true ∧ helmsman.cvu.claim = .claiming ∧
      helmsman.cvu.followed = some helmsman.cfg.station ∧ helmsman.cvu.peers.filterMap peerCandidate = [] ∧
      live.svp.panelState ≠ .current ∧ due (max helmsman.clock 9999999 / 1000) (some 10001) = false := by decide +kernel

theorem test_witness_not_now :
    serviceOnly (.rudderRetry 5 1) = true ∧ timeOf (.rudderRetry 5 1) = some 5 ∧
      State.reset.svp.mode = .configuring := by decide

theorem test_witness_read_line :
    live.cfg.lines.length = 24 ∧ live.dlu.lines.length = 24 ∧ 1 ≤ (24 : Byte).toNat ∧ (24 : Byte).toNat ≤ 24 ∧
      24 < (25 : Byte).toNat := by decide

theorem test_witness_read_journal :
    JournalOk { live with fau := journal2 } ∧ (∀ e, journal2.journal.head? = some e → (5 : BitVec 32).toNat ≤ e.serial) ∧
      journal2.nextSerial ≤ (7 : BitVec 32).toNat ∧ isRequest (.lineIdle ⟨6, none⟩) = false ∧
      (∃ u, exec (.readJournal 5 5) { live with fau := journal2 } = .next u) ∧
      ∃ v, exec (.lineIdle ⟨6, none⟩) live = .next v :=
  ⟨journal2_ok, by intro e h; cases h; decide, by decide, rfl, exec_next _ _, exec_next _ _⟩

theorem test_witness_join_ends :
    (({ live with svp := { mode := .joining, joinAt := some 10000 } } : State).svp.mode = .joining ∧
      due (max live.clock 10000000 / 1000) (some 10000) = true) ∧ live.svp.mode ≠ .joining ∧
      due (max live.clock 10000000 / 1000) (some 10001) = false := by decide

/-! ## Witnesses: the view -/

/-- Station 1 LIVE, station 5 LOST. -/
def lostView : State := withCvu { peers := [{ peer5 with number := 1 }, { peer5 with state := .lost, heard := 40 }] }

theorem test_witness_forget_peer :
    State.reset.svp.mode = .configuring ∧ lostView.svp.mode ≠ .configuring ∧ peerOf 3 lostView = none ∧
      (2 : Byte).toNat = lostView.cfg.station ∧ (0 : Byte).toNat = 0 ∧ 6 < (7 : Byte).toNat ∧
      (peerOf 1 lostView).map (·.state) = some .live ∧ (peerOf 5 lostView).map (·.state) = some .lost := by decide +kernel

theorem test_witness_forget_peer_table : PeersOk lostView.cfg.station lostView.cvu.peers := by
  unfold PeersOk
  decide

theorem test_witness_forget_peer_frame :
    wfFrame .fuel (frameOf .fuel 5 0 fuelBytes) = true ∧ RxFrame.sender (frameOf .fuel 5 0 fuelBytes) = (5 : Byte).toNat ∧
      (5 : Byte).toNat ≠ lostView.cfg.station := by decide +kernel

theorem test_witness_status_contents :
    wfFrame .status (frameOf .status 5 9 statusBytes) = true ∧ wfFrame .alert (frameOf .alert 5 9 statusBytes) = true ∧
      lostView.svp.mode ≠ .configuring ∧ RxFrame.sender (frameOf .status 5 9 statusBytes) ≠ lostView.cfg.station ∧
      RxFrame.sender (frameOf .alert 5 9 statusBytes) ≠ lostView.cfg.station := by decide +kernel

theorem test_witness_helm_contents :
    wfFrame .helm (frameOf .helm 1 0 helmBytes) = true ∧ lostView.svp.mode ≠ .configuring ∧
      RxFrame.sender (frameOf .helm 1 0 helmBytes) ≠ lostView.cfg.station ∧
      (1 ≤ u8 helmBytes 0 ∧ u8 helmBytes 0 ≤ 6 ∧ 5 ≤ u8 helmBytes 1 ∧ u8 helmBytes 1 ≤ 50) ∧
      wfFrame .helm (frameOf .helm 1 0 (7 :: helmBytes.drop 1)) = true ∧
      ¬(u8 (7 :: helmBytes.drop 1) 0 ≤ 6) := by decide +kernel

theorem test_witness_fuel_contents :
    wfFrame .fuel (frameOf .fuel 1 0 fuelBytes) = true ∧ lostView.svp.mode ≠ .configuring ∧
      RxFrame.sender (frameOf .fuel 1 0 fuelBytes) ≠ lostView.cfg.station := by decide +kernel

theorem test_witness_followed_is_preferred : helmEvent (frameOf .helm 1 0 helmBytes).payload = true := by decide +kernel

/-- Station 5 with a helm part heard at 9400 ms with a period of 200 ms: its age ends at 10000 ms. -/
def peer5Helm : Peer :=
  { peer5 with
    helmPart := some
      { rank := 1, period := 200, yielded := false, d := 0, delta := 0, order := 0, releaseSet := [], remakeSet := []
        lastHelm := 9400 } }

theorem test_witness_peer_ages :
    peerOf 5 (withCvu { peers := [peer5] }) = some peer5 ∧ peer5.state = .live ∧
      peer5.lastHeard + 3 * peer5.statusPeriod ≤ max live.clock 9750000 / 1000 ∧
      peer5.lastHeard + peer5.lostCount * peer5.statusPeriod ≤ max live.clock 11000000 / 1000 ∧
      max live.clock 10999999 / 1000 < peer5.lastHeard + peer5.lostCount * peer5.statusPeriod := by decide +kernel

theorem test_witness_helm_and_mute :
    peerOf 5 (withCvu { peers := [peer5Helm] }) = some peer5Helm ∧
      (peer5Helm.helmPart.map fun h => (h.expired, h.lastHelm + 3 * h.period)) = some (false, 10000) ∧
      due (max live.clock 10000000 / 1000) (some 10000) = true ∧
      due (max live.clock 10000000 / 1000) live.cvu.graceAt = false ∧
      ({ live with shu := { muted := false }, lif := { lastSent := some 8000 } } : State).shu.muted = false ∧
      8000 + live.cfg.lostCount * live.cfg.statusPeriod ≤ max live.clock 10000000 / 1000 ∧
      max live.clock 10000000 / 1000 < 8001 + live.cfg.lostCount * live.cfg.statusPeriod := by decide +kernel

/-! ## Witnesses: the line -/

theorem test_witness_discarded_frames :
    (frameOf .fuel 7 0 fuelBytes).crc = frameCrc (4 : Byte).toNat (frameOf .fuel 7 0 fuelBytes) ∧
      headerOk (4 : Byte).toNat (frameOf .fuel 7 0 fuelBytes) = false ∧
      { frameOf .fuel 1 0 fuelBytes with crc := 0 }.crc ≠
        frameCrc (FrameKind.code .fuel) { frameOf .fuel 1 0 fuelBytes with crc := 0 } ∧
      isFrame (.fuelFrame 5 (frameOf .fuel 1 0 fuelBytes)) = true ∧
      timeOf (.fuelFrame 5 (frameOf .fuel 1 0 fuelBytes)) = some 5 := by decide +kernel

theorem test_witness_duplicate :
    wfFrame .fuel (frameOf .fuel 2 0 fuelBytes) = true ∧ live.svp.mode ≠ .configuring ∧
      RxFrame.sender (frameOf .fuel 2 0 fuelBytes) = live.cfg.station ∧ live.svp.mode ≠ .silent := by decide +kernel

/-- A HELM and a FUEL waiting. -/
def waiting : State := withLif { slotHelm := some helmBytes, slotFuel := some fuelBytes }

theorem test_witness_line_idle :
    waiting.lif.tx = none ∧ waiting.svp.mode = .running ∧ waiting.lif.listening = false ∧
      waiting.lif.suspendedAt = none ∧ slotOf .helm waiting.lif = some helmBytes ∧
      (∀ j, FrameKind.cls j < FrameKind.cls .helm → slotOf j waiting.lif = none) ∧ ∀ j, slotOf j live.lif = none :=
  ⟨rfl, rfl, rfl, rfl, rfl, by intro j; cases j <;> decide, by intro j; cases j <;> rfl⟩

/-- `waiting` with its line idle from 9 999 998 µs on, until the start bit of another station at `b`, in its suspension. -/
def offered (b : Nat) : State :=
  withLif
    { slotHelm := some helmBytes, slotFuel := some fuelBytes, suspendedAt := some 10000
      lineIdle := some { since := 9999998, otherStart := some b } }

/-- R170: the suspension ends at 10 000 000 µs, half a bit time on; another station's start bit a µs before the own bit time
at 10 000 002 makes the frames wait, one in the same bit time does not. -/
theorem test_other_start_bit :
    nextWith (fun u => decide (u.lif.tx = none ∧ u.lif.slotHelm = some helmBytes))
        (exec (.suspensionExpiry 10000000) (offered 10000001)) = true ∧
      nextWith (fun u => decide (u.lif.tx = some { kind := .helm, payload := helmBytes, startAt := 10000002 } ∧
          u.lif.lineIdle = none))
        (exec (.suspensionExpiry 10000000) (offered 10000002)) = true := by decide +kernel

/-- R170: an ALERT placed while another station's frame is on the line waits, and starts at the next idle. -/
theorem test_placed_during_frame :
    let s := placeFrame .alert statusBytes (withLif { lineIdle := some { since := 9000000, otherStart := some 9999000 } })
    decide (s.lif.tx = none ∧ s.lif.slotAlert = some statusBytes) = true ∧
      nextWith (fun u => decide (u.lif.tx = some { kind := .alert, payload := statusBytes, startAt := 10000248 }))
        (exec (.lineIdle ⟨10000248, none⟩) s) = true := by decide +kernel

/-- R170, R175: a STATUS and a HELM placed together on an idle line: the HELM, of the lower value, starts first, whichever is
placed first; a microsecond after the start bit the STATUS is on the line and the HELM waits. -/
theorem test_placed_together :
    let s := withLif { lineIdle := some { since := 10000000, otherStart := none } }
    let sent := placeFrame .status statusBytes s
    (sent.lif.tx.map (·.kind), (placeFrame .helm helmBytes sent).lif.tx,
        (placeFrame .status statusBytes (placeFrame .helm helmBytes s)).lif.tx,
        (placeFrame .helm helmBytes { sent with clock := 10000001 }).lif.tx.map (·.kind)) =
      (some .status, some { kind := .helm, payload := helmBytes, startAt := 10000000 },
        some { kind := .helm, payload := helmBytes, startAt := 10000000 }, some .status) := by decide +kernel

/-- R37, R201: the shortfall state is coded yes 0, no 1. -/
theorem test_shortfall_code :
    [shareGroup { live with shu := { shortfall := true, deficit := 7 } }, shareGroup { live with shu := {} }].map
        (·.drop 23) =
      [[0, 0, 0, 0, 7], [1, 0, 0, 0, 0]] := by decide +kernel

theorem test_witness_line_offered :
    (offered 10000002).lif.suspendedAt = some 10000 ∧ 10000 ≤ max (offered 10000002).clock 10000000 / 1000 ∧
      (offered 10000002).lif.tx = none ∧ (offered 10000002).svp.mode = .running ∧
      OwnStartBit 10000002 { offered 10000002 with clock := max (offered 10000002).clock 10000000 } ∧
      (∀ b, ¬OwnStartBit b { offered 10000001 with clock := max (offered 10000001).clock 10000000 }) ∧
      LowestFrame .helm helmBytes (offered 10000002).lif ∧
      (∀ u, some 10000000 = some u → max waiting.clock 10000000 ≤ u) ∧ (∃ u, some 5 = some u ∧ u < max waiting.clock 0) ∧
      (withLif { statusAt := some 10000 }).lif.statusAt = some 10000 ∧
      ({ live with svp := { live.svp with mode := .silent } } : State).svp.mode = .silent := by
  refine ⟨rfl, by decide, rfl, rfl, ⟨_, rfl, rfl, ?_⟩, ?_, ⟨rfl, ?_⟩, ?_, ⟨5, rfl, by decide⟩, rfl, rfl⟩
  · intro o h
    cases h
    decide
  · rintro b ⟨i, hi, rfl, h⟩
    cases hi
    exact absurd (h _ rfl) (by decide)
  · intro j
    cases j <;> decide
  · intro u h
    cases h
    decide

/-- A frame on the line, and one chosen whose start bit is still to come, with a frame of another kind to be placed. -/
theorem test_witness_placed_meanwhile :
    ({ kind := .helm, payload := helmBytes, startAt := 9999996 } : Tx).startAt < live.clock ∧
      live.clock ≤ ({ kind := .fuel, payload := fuelBytes, startAt := live.clock } : Tx).startAt ∧
      (withLif { tx := some { kind := .fuel, payload := fuelBytes, startAt := live.clock } }).lif.tx =
        some { kind := .fuel, payload := fuelBytes, startAt := live.clock } ∧
      LowestFrame .helm helmBytes (setSlot .helm (some helmBytes) (withLif { slotFuel := some fuelBytes }).lif) := by
  refine ⟨by decide, by decide, rfl, rfl, ?_⟩
  intro j
  cases j <;> decide

/-- A STATUS in its arbitration field, the sixteenth error at hand. -/
def sending : State :=
  withLif { tx := some { kind := .status, payload := statusBytes }, slotStatus := some statusBytes, runCount := 15 }

theorem test_witness_transmission :
    (sending.lif.tx.map fun x => (x.sealed, x.kind)) = some (none, .status) ∧ 16 ≤ sending.lif.runCount + 1 ∧
      (withLif { tx := some { kind := .helm, payload := helmBytes, sealed := some (3, 0) } }).lif.tx.map
        (fun x => x.sealed.isSome) = some true ∧ (∃ u, exec (.sentSuccessfully 5) sending = .next u) ∧
      (∃ u, exec (.transmitError 5) sending = .next u) ∧ (∃ u, exec (.powerOn 0) sending = .next u) ∧
      ∃ u, exec (.restart 5) sending = .next u :=
  ⟨rfl, by decide, rfl, exec_next _ _, exec_next _ _, exec_next _ _, exec_next _ _⟩

theorem test_witness_periodic_frames :
    due (max live.clock 10000000 / 1000) (some 10000) = true ∧ live.lif.statusAt = none ∧
      helmsman.cvu.claim = .claiming ∧ live.cvu.claim ≠ .claiming ∧
      due (max live.clock 10000000 / 1000) live.fau.fuelAt = false ∧
      due (max live.clock 10000000 / 1000) live.lif.suspendedAt = false ∧
      ((withLif { statusAt := some 10000, suspendedAt := some 10000 }).lif.statusAt = some 10000) ∧
      (10000 : Nat) ≤ max live.clock 10000000 / 1000 := by decide +kernel

/-! ## Witnesses: shares, shafts, rudders -/

theorem test_witness_share :
    (∀ m ∈ [(⟨1, 300, 300⟩ : Member), ⟨2, 1500, 750⟩], realMember m = true) ∧
      sumC [⟨1, 300, 300⟩, ⟨2, 1500, 750⟩] ≤ 1800 ∧ 1799 < sumC [⟨1, 300, 300⟩, ⟨2, 1500, 750⟩] ∧
      100 ≤ [333, 333, 334].sum ∧ 1000 ≤ [333, 333, 334].sum := by decide +kernel

theorem test_witness_control_step :
    getN (withShaft { stepAt := some 10000 }).sfc 1 = some { stepAt := some 10000 } ∧
      getN live.cfg.shafts 1 = some shaft1 ∧ 10000 ≤ max live.clock 10000000 / 1000 ∧ live.cpc.pullOff = none ∧
      (∀ b, getN live.fau.burns 1 = some b → b.estimating = false) ∧
      due (max live.clock 10000000 / 1000) (some 10001) = false :=
  ⟨rfl, rfl, by decide, rfl, by intro b h; cases h; rfl, by decide⟩

theorem test_witness_dwell_and_deviation :
    getN (withShaft { dir := .dwell, dwellAt := some 10000, deviationAt := some 10000 }).sfc 1 =
        some { dir := .dwell, dwellAt := some 10000, deviationAt := some 10000 } ∧
      due (max live.clock 10000000 / 1000) (some 10000) = true ∧
      due (max live.clock 10000000 / 1000) (none) = false := by decide +kernel

theorem test_witness_rudder_stalls :
    getN (withRudder { state := .following, drive := .port, stallAt := some 10000 }).stc.rudders 1 =
        some { state := .following, drive := .port, stallAt := some 10000 } ∧
      due (max live.clock 10000000 / 1000) (some 10000) = true ∧
      due (max live.clock 10000000 / 1000) (some 10001) = false := by decide +kernel

theorem test_witness_rudder_retry :
    getN (withRudder { state := .stalled }).stc.rudders (2 : Byte).toNat = none ∧
      getN (withRudder { state := .stalled }).stc.rudders (1 : Byte).toNat = some { state := .stalled } ∧
      boundDead .angle (some 1) (withRudder { state := .stalled }) = false ∧
      boundDead .angle (some 1) (withGauge {} { health := .dead } none none) = true ∧
      getN live.stc.rudders (1 : Byte).toNat = some { state := .parked } := by decide +kernel

/-! ## Witnesses: couplings, fuel -/

theorem test_witness_load_parts :
    getN (withWinch { state := .made, tension := some 600 }).cpc.winches 1 = some { state := .made, tension := some 600 } ∧
      getN live.cfg.winches 1 = some winch1 ∧ winch1.partArm ≤ 600 ∧
      tensionOf winch1 (loadFrequency 10 10000) < winch1.partFloor := by decide +kernel

/-- Results at the thresholds of `winch1` and one tenth below. -/
theorem test_witness_load_judged :
    ([3600, 3598, 2800, 2798, 1900, 1898, 1600, 1598, 1160, 1158].map fun k =>
        tensionOf winch1 (loadFrequency k 1000000)) =
      [1300, 1299, 900, 899, 450, 449, 300, 299, 80, 79] ∧
      (∀ w : Winch, getN (withWinch w).cpc.winches 1 = some w ∧ (withWinch w).cpc.pullOff = none) ∧
      getN live.cfg.winches 1 = some winch1 ∧ winch1.partFloor ≤ 79 := by
  refine ⟨by decide +kernel, fun w => ⟨rfl, rfl⟩, rfl, by decide⟩

/-- "Haul, Make and Render: Worked Sequence" and R93, at the thresholds: state, pulse and timer after one result. -/
theorem test_load_judged :
    ([({ state := .hauling, timerAt := some 20000 }, 3600), ({ state := .hauling, timerAt := some 20000 }, 1900),
        ({ state := .hauling, timerAt := some 20000 }, 1898), ({ state := .made }, 3600), ({ state := .made }, 1600),
        ({ state := .made }, 1598), ({ state := .made, pulse := true, timerAt := some 10100 }, 1598),
        ({ state := .rendering }, 2800), ({ state := .rendering }, 2798),
        ({ state := .releasing, phase := some .payingOut, timerAt := some 10100 }, 1160),
        ({ state := .releasing, phase := some .payingOut, timerAt := some 10100 }, 1158)] :
        List (Winch × Nat)).map (fun wk => (loadResult 1 wk.2 1000000 (withWinch wk.1)).cpc.winches.map fun q =>
          (q.state, q.pulse, q.timerAt)) =
      [[(.rendering, false, none)], [(.made, false, none)], [(.hauling, false, some 20000)], [(.rendering, false, none)],
        [(.made, false, none)], [(.made, true, some 11500)], [(.made, true, some 10100)], [(.rendering, false, none)],
        [(.made, false, none)], [(.releasing, false, some 10100)], [(.releasing, false, some 12000)]] := by
  decide +kernel

/-- R49, R97, R100: the result that makes the wire render halves the availability, and the clamped set-point completes the
pull-off. -/
theorem test_load_result_completes :
    let s : State := { live with
      cfg := { cfg1 with shafts := [{ shaft1 with releaseThreshold := 500 }] }
      sfc := [{ engine := .running, dir := .ahead, p := 600, aAhead := 1000 }]
      cpc := { winches := [{ state := .made, tension := some 700 }], summary := .made
               pullOff := some { origin := .panel, expiry := 12000 } } }
    (loadResult 1 3600 1000000 s).cpc.pullOff = none ∧ (loadResult 1 3600 1000000 s).cpc.outcome = .released ∧
      (loadResult 1 3600 1000000 s).cpc.winches.map (fun q => (q.state, q.phase, q.timerAt)) =
        [(.releasing, some .payingOut, some 13000)] := by decide +kernel

theorem test_witness_parting_acknowledged :
    (∀ w ∈ live.cpc.winches, w.state ≠ .parted) ∧ ∃ w ∈ (withWinch { state := .parted }).cpc.winches, w.state = .parted := by
  decide +kernel

theorem test_witness_winch_timers :
    getN (withWinch { state := .hauling, timerAt := some 10000 }).cpc.winches 1 =
        some { state := .hauling, timerAt := some 10000 } ∧
      getN (withWinch { state := .made, pulse := true, timerAt := some 10000 }).cpc.winches 1 =
        some { state := .made, pulse := true, timerAt := some 10000 } ∧ live.cpc.pullOff = none ∧
      getN (withWinch { state := .releasing, phase := some .payingOut, timerAt := some 10000 }).cpc.winches 1 =
        some { state := .releasing, phase := some .payingOut, timerAt := some 10000 } ∧
      getN (withWinch { state := .releasing, phase := some .holding, timerAt := some 10000 }).cpc.winches 1 =
        some { state := .releasing, phase := some .holding, timerAt := some 10000 } ∧
      due (max live.clock 10000000 / 1000) (some 10000) = true := by decide +kernel

theorem test_witness_pull_off_times_out :
    ({ live with cpc := { live.cpc with pullOff := some { origin := .panel, expiry := 10000 } } } : State).cpc.pullOff =
        some { origin := .panel, expiry := 10000 } ∧ 10000 ≤ max live.clock 10000000 / 1000 ∧
      (∀ p, live.cpc.pullOff = some p → max live.clock 10000000 / 1000 < p.expiry) :=
  ⟨rfl, by decide, nofun⟩

/-- A transfer of tank 2 into tank 1 and a bunkering into tank 2, as many serials given as there are. -/
def moving : State :=
  { live with
    fau :=
      { live.fau with
        transfer := { running := true, origin := some .host, source := 2, destination := 1, moved := 5000 }
        bunker := { running := true, tank := 2, volume := 700 }
        nextSerial := 4294967295 } }

theorem test_witness_movement_starts :
    (getN live.cfg.tanks (2 : Byte).toNat).isSome = true ∧ (getN live.cfg.tanks (1 : Byte).toNat).isSome = true ∧
      (getN live.cfg.tanks (3 : Byte).toNat).isSome = false ∧ canTransfer live = true ∧
      canTransfer { live with cfg := { cfg1 with chans := [] } } = false ∧ moving.fau.transfer.running = true ∧
      live.fau.transfer.running = false ∧ movementOf 1 live = .none ∧ movementOf 2 live = .none ∧
      cutoffOf 2 live < content 2 live ∧ content 1 live < capacityOf 1 live ∧
      (chanOf .bunkerMeter none live).isSome = true ∧ live.fau.bunker.running = false := by decide +kernel

theorem test_witness_movement_ends :
    moving.svp.mode ≠ .configuring ∧ moving.fau.nextSerial ≤ 4294967295 ∧ moving.fau.transfer.running = true ∧
      moving.fau.bunker.running = true ∧ live.fau.transfer.running = false ∧ live.fau.bunker.running = false := by
  decide +kernel

/-- Tank 1 with a sounding. -/
def sounded : State := { live with fau := { live.fau with tanks := [{ raw := 1500000, sounding := some (1400000, 9) }, {}] } }

theorem test_witness_rebase :
    getN sounded.cfg.tanks (3 : Byte).toNat = none ∧
      (getN sounded.fau.tanks (1 : Byte).toNat).map (fun k => (k.sounding, k.movement)) =
        some (some (1400000, 9), .none) ∧
      (getN sounded.fau.tanks (2 : Byte).toNat).map (·.sounding) = some none ∧
      (getN sounded.cfg.tanks (1 : Byte).toNat).isSome = true ∧ (getN sounded.cfg.tanks (2 : Byte).toNat).isSome = true ∧
      sounded.fau.transfer.running = false ∧ sounded.fau.nextSerial ≤ 4294967295 := by decide +kernel

theorem test_witness_flow_books :
    getN live.cfg.shafts 1 = some shaft1 ∧ getN live.fau.burns 1 = some {} ∧
      getN live.fau.tanks shaft1.dayTank = some { raw := 1500000 } ∧ boundDead .flow (some 1) live = false ∧
      0 < shaft1.quantum ∧ -(2 ^ 47) ≤ (1500000 : Int) - ((0 + 100 * shaft1.kFlow) / 1000 : Nat) ∧
      (1500000 : Int) < 2 ^ 47 := by decide +kernel

/-- A flow result that takes since-booked past one quantum ("Burn: Worked Case"), with no transfer running. -/
theorem test_witness_flow_quantum :
    getN burning.fau.burns 1 = some { residue := 730, sinceBooked := 19990 } ∧
      getN burning.fau.tanks shaft1.dayTank = some { raw := 905000 } ∧ boundDead .flow (some 1) burning = false ∧
      (19990 + (730 + 512 * shaft1.kFlow) / 1000) / (shaft1.quantum * 1000) = 1 ∧
      burning.fau.nextSerial + 1 + 8 ≤ 4294967296 ∧ burning.fau.transfer.running = false := by decide +kernel

/-! ## Witnesses: gauges and lines -/

theorem test_witness_interval :
    (getN (withGauge { intervalAt := some 10000 } {} none none).pgu.chans 1).map (·.intervalAt) = some (some 10000) ∧
      (getN live.cfg.chans 1).map (·.kind) = some .rpm ∧ 10000 ≤ max live.clock 10000000 / 1000 ∧
      (withGauge { intervalAt := some 10000 } {} none none).pgu.queue = [] ∧
      getN (withGauge {} {} (some { chan := 3, windowAt := 10060000 }) none).pgu.engines 2 = some none ∧
      (∀ j, j < 2 → getN (withGauge {} {} (some { chan := 3, windowAt := 10060000 }) none).pgu.engines j ≠ some none) ∧
      (∀ x ∈ List.replicate 6 (some ({ chan := 9, windowAt := 10060000 } : Meas)), x.isSome = true) ∧
      due (max live.clock 10000000 / 1000) (some 10001) = false := by decide +kernel

/-- Channel 1 counting on engine 1, channel 3 with a whole cycle and a falling edge behind it on engine 2. -/
def measuring : State :=
  withGauge { req := .measuring } { req := .measuring }
    (some { chan := 1, phase := .counting, count := 31, start := 9840000, windowAt := 10000000 })
    (some { chan := 3, phase := .low, count := 3, start := 9990000, lastEdge := 9995000, highSum := 15000
            cycleSum := 30000, windowAt := 10000000 })

theorem test_witness_measuring :
    engineOf 9 measuring = none ∧ engineOf 1 measuring = some 1 ∧ engineOf 3 measuring = some 2 ∧
      (measOf 1 measuring).map (fun m => (m.phase, m.count, m.windowAt)) = some (.counting, 31, 10000000) ∧
      (measOf 2 measuring).map (fun m => (m.phase, m.count, m.windowAt)) = some (.low, 3, 10000000) ∧
      (getN measuring.cfg.chans 1).map (fun k => (periodMode k.kind, k.edge, k.count)) = some (true, .rising, 32) ∧
      (getN measuring.cfg.chans 3).map (fun k => (k.kind, k.count)) = some (.angle, 4) ∧ measuring.pgu.queue = [] ∧
      (getN measuring.pgu.chans 1).isSome = true ∧ (getN measuring.pgu.chans 3).isSome = true ∧
      10000000 ≤ max measuring.clock 10000000 := by decide +kernel

theorem test_witness_measuring_other_phases :
    (measOf 1 (withGauge {} {} (some { chan := 1, windowAt := 10000001 }) none)).map (fun m => (m.phase, m.count)) =
        some (.arming, 0) ∧
      (measOf 2 (withGauge {} {} none (some { chan := 3, phase := .high, windowAt := 10000001 }))).map (·.phase) =
        some .high ∧
      max live.clock 10000000 < 10000001 ∧ 30 + 1 < 32 ∧ 2 + 1 < 4 := by decide +kernel

theorem test_witness_period_start :
    (withLines {} {}).dlu.periodAt = some 10000 ∧ 10000 ≤ max live.clock 10000000 / 1000 ∧ AssignedOnce live.cfg ∧
      (withLines {} {}).dlu.lines.length = 24 ∧ due (max live.clock 10000000 / 1000) live.dlu.periodAt = false :=
  ⟨rfl, by decide, assignedOnce_cfg1, by decide, by decide⟩

theorem test_witness_period_start_lines :
    partnerLine 1 cfg1 = none ∧ partnerLine 2 cfg1 = some 3 ∧
      (getN (withLines { pendingDuty := some 1000 } { applied := some 1000 }).dlu.lines 2).map (·.pendingDuty) =
        some (some 1000) ∧
      lineDriven 2 cfg1 { pendingDuty := some 1000 } = false ∧ lineDriven 3 cfg1 { applied := some 1000 } = true ∧
      lineDriven 3 cfg1 { applied := some 0, offTime := some 9981 } = false ∧ 10000 < 9981 + cfg1.deadZone ∧
      9980 + cfg1.deadZone ≤ 10000 ∧ 0 < cfg1.deadZone := by decide +kernel

/-! ## The receiver, SILENT, reports and pins -/

/-- R165, R182: after a RESTART the receiver waits, and takes no frame. -/
theorem test_receiver_waits :
    nextWith (fun u => decide (u.lif.awaitIdle = true)) (exec (.restart 10000000) live) = true ∧
      nextWith (fun u => decide (u.lif.receivedOk = 0 ∧ u.cvu.peers = []))
        (exec (.fuelFrame 10000000 (frameOf .fuel 4 0 fuelBytes)) (withLif { awaitIdle := true })) = true := by
  decide +kernel

/-- R176: a failure is counted once until the line has been idle. -/
theorem test_failure_counted_once :
    nextWith (fun u => decide (u.lif.crcErrors = 1 ∧ u.lif.awaitIdle = true))
        (exec (.crcError 10000000 .stopBitDominant) live) = true ∧
      nextWith (fun u => decide (u.lif.crcErrors = 1))
        (exec (.crcError 10000000 .stopBitDominant) (withLif { crcErrors := 1, awaitIdle := true })) = true ∧
      nextWith (fun u => decide (u.lif.awaitIdle = false))
        (exec (.lineIdle ⟨10000000, none⟩) (withLif { crcErrors := 1, awaitIdle := true })) = true := by decide +kernel

/-- R176: the part of a frame that a receiver restarted in mid-frame saw fails once; an idle line ends it. -/
theorem test_mid_frame_part :
    let s : State := withLif { awaitIdle := true, midFrame := true }
    nextWith (fun u => decide (u.lif.midFrame = true)) (exec (.restart 10000000) live) = true ∧
      nextWith (fun u => decide (u.lif.crcErrors = 1 ∧ u.lif.awaitIdle = true ∧ u.lif.midFrame = false))
        (exec (.crcError 10000000 .endedEarly) s) = true ∧
      nextWith (fun u => decide (u.lif = { s.lif with lineIdle := u.lif.lineIdle, awaitIdle := false, midFrame := false }))
        (exec (.lineIdle ⟨10000000, none⟩) s) = true := by decide +kernel

/-- Station 2 leading with its winch MADE, peer 5 a candidate behind it. -/
def leading : State :=
  { live with
    svp := { mode := .running, panelState := .current, panel := { takeCommand := true, lever := 500 } }
    shu := { contributing := true, muted := false, phi := 1000 }
    cpc := { winches := [{ state := .made }], summary := .made, fCpl := 800 }
    cvu :=
      { followed := some 2, helmState := .following, claim := .claiming, effD := 500, powerNom := 1000
        peers :=
          [ { number := 5, lastHeard := 9900, statusPeriod := 250, lostCount := 8
              helmPart := some
                { rank := 6, period := 200, yielded := false, d := 900, delta := 0, order := 0, releaseSet := []
                  remakeSet := [], lastHelm := 9900 } } ] } }

/-- R43, R63: SILENT delivers targets of 0 although the helm passes to a peer that orders thrust. -/
theorem test_silent_targets :
    nextWith (fun u => decide (u.svp.mode = .silent ∧ u.cvu.followed = some 5 ∧ u.cvu.effD = 900 ∧
        u.sfc.map (fun r => (r.target, r.dir)) = [(0, .neutral)] ∧ u.shu.shortfall = false))
      (exec (.duplicate 10000000 .fuel (frameOf .fuel 2 0 fuelBytes)) leading) = true := by decide +kernel

/-- R201: r_live takes 2 bytes (R68), a helm period its one byte of 10 ms units. -/
theorem test_report_widths :
    ruddersData { live with stc := { k := 1230, ownNominal := 1000, ownLive := 900, rLive := 3900 } } =
        [0, 0x04, 0xCE, 0x03, 0xE8, 0x03, 0x84, 0, 0, 0, 0, 0x0F, 0x3C] ∧
      (helmPartBytes (leading.cvu.peers.head?.bind (·.helmPart))).take 4 = [1, 6, 20, 0] := by decide +kernel

/-- R157, R161: at 250 per-mille of 10 ms the pin is high for 2500 µs from the period start; duty 1000 holds it high; a line
with nothing applied floats where its safe level says so. -/
theorem test_line_pin :
    let s (clock d : Nat) : State :=
      { withLines { applied := some d } {} with
        clock := clock, dlu := { (withLines { applied := some d } {}).dlu with periodAt := some 10010 } }
    [linePin 2 (s 10002499 250), linePin 2 (s 10002500 250), linePin 2 (s 10009999 1000), linePin 2 (s 10000000 0),
        linePin 3 { live with cfg := { cfg1 with lines := List.replicate 24 { safe := .float } } }] =
      [some .high, some .low, some .high, some .low, some .floating] := by decide +kernel

/-! ## Witnesses: results and what their owners do, orders, releases, writes -/

theorem test_witness_receiver :
    live.lif.awaitIdle = false ∧ lostView.lif.awaitIdle = false ∧ waiting.lif.awaitIdle = false ∧
      (withLif { awaitIdle := true }).lif.awaitIdle = true := by decide

theorem test_witness_rpm_result :
    getN live.sfc 1 = some { engine := .running } ∧ getN live.cfg.shafts 1 = some shaft1 ∧
      rpmOf 4 100000 8 = shaft1.stopRpm ∧ rpmOf 4 100001 8 + 1 = shaft1.stopRpm ∧
      (withShaft { dir := .ahead, p := 5, target := 5 }).sfc.map (fun r => (r.engine, r.dir)) = [(.stopped, .ahead)] := by
  decide +kernel

theorem test_witness_angle_result :
    getN live.stc.rudders 1 = some {} ∧ getN live.cfg.shafts 1 = some shaft1 ∧ 500 * 1000 / 10000 = 50 ∧
      9500 * 1000 / 10000 = 950 ∧ 499 * 1000 / 10000 < 50 ∧ 950 < 9510 * 1000 / 10000 ∧
      getN (withRudder { state := .stalled }).stc.rudders 1 = some { state := .stalled } ∧
      getN (withRudder { state := .sensorLost }).stc.rudders 1 = some { state := .sensorLost } ∧
      shaft1.deadband < (350 - (-450) : Int).natAbs ∧ (5 : Int).natAbs ≤ shaft1.deadband ∧
      lineOf (.rudderPort 1) cfg1 = some 4 ∧ lineOf (.rudderStbd 1) cfg1 = some 5 := by decide +kernel

/-- `live` with a make-up record on the stack that shows the winch, now SLACK, as made. -/
def haulsAll : State := { live with cpc := { live.cpc with stack := [[{ target := .tow, made := true }]] } }

/-- A pull-off of the panel with the winch MADE and the shaft at 180 kW, its step due. -/
def pulling : State :=
  { live with
    sfc := [{ engine := .running, dir := .ahead, p := 180, stepAt := some 10000 }]
    cpc := { winches := [{ state := .made }], summary := .made, pullOff := some { origin := .panel, expiry := 12000 } } }

theorem test_witness_remake :
    haulsAll.cpc.pullOff = none ∧ haulsAll.cpc.stack = [[{ target := .tow, made := true }]] ∧
      boundDead .load (some 1) haulsAll = false ∧ getN haulsAll.cpc.winches 1 = some {} ∧
      getN haulsAll.cfg.winches 1 = some winch1 ∧ live.cpc.stack = [] ∧ live.cpc.pullOff = none := by decide +kernel

theorem test_witness_release :
    leading.cpc.pullOff = none ∧ leading.cpc.summary ≠ .free ∧ live.cpc.summary = .free ∧
      (∀ w ∈ live.cpc.winches, w.state ≠ .hauling) ∧ shaftsDown (releaseRequest .panel leading) = true ∧
      shaftsDown (releaseRequest .panel { leading with sfc := [{ engine := .running, dir := .ahead, p := 101 }] }) = false ∧
      pulling.cpc.pullOff = some { origin := .panel, expiry := 12000 } ∧
      getN pulling.sfc 1 = some { engine := .running, dir := .ahead, p := 180, stepAt := some 10000 } ∧
      (∀ b, getN pulling.fau.burns 1 = some b → b.estimating = false) := by
  refine ⟨rfl, by decide, rfl, by decide, by decide +kernel, by decide +kernel, rfl, rfl, ?_⟩
  intro b h; cases h; rfl

/-- R99, R100: the step from 180 to 100 kW, the threshold, completes the pull-off; from 181 it does not. -/
theorem test_pull_off_completes :
    nextWith (fun u => decide (u.cpc.pullOff = none ∧ u.cpc.outcome = .released ∧ u.cpc.stack.length = 1 ∧
        u.cpc.winches.map (fun w => (w.state, w.phase)) = [(.releasing, some .holding)]))
      (exec (.controlStep 10000000 1) pulling) = true ∧
    nextWith (fun u => decide (u.cpc = pulling.cpc ∧ u.sfc.map (·.p) = [101]))
      (exec (.controlStep 10000000 1)
        { pulling with sfc := [{ engine := .running, dir := .ahead, p := 181, stepAt := some 10000 }] }) = true := by
  decide +kernel

theorem test_witness_panel_hand_on :
    panelOf 500 0 5 0 0 = { leading.svp.panel with releaseOwn := true } ∧ leading.svp.panel.releaseOwn = false ∧
      panelOf 500 0 9 0 0 = { leading.svp.panel with remakeOwn := true } ∧ leading.svp.panel.remakeOwn = false ∧
      panelOf 0 0 0 0 0 = { ({ releaseOwn := true } : Panel) with releaseOwn := false } := by decide +kernel

/-- Station 2 following station 1 with baseline order 7 and both sets empty. -/
def following : State :=
  withCvu
    { followed := some 1, helmState := .following
      baseline := some { claimant := 1, order := 7, releaseSet := [], remakeSet := [] } }

/-- "Release and Remake Orders: Worked Sequence": the same number is not acted on; the next one, naming the own station for
release, is a release request, here to a station that is FREE. -/
theorem test_convoy_orders :
    nextWith (fun u => decide (u.cvu.followed = some 1 ∧ u.cpc.outcome = .none ∧ u.cvu.lastActed = none))
      (exec (.helmFrame 10000000 (frameOf .helm 1 0 helmBytes)) following) = true ∧
    nextWith (fun u => decide (u.cpc.outcome = .releaseIgnoredFree ∧ u.cvu.lastActed = some 8 ∧
        u.cvu.baseline = some { claimant := 1, order := 8, releaseSet := [2, 5], remakeSet := [2] }))
      (exec (.helmFrame 10000000 (frameOf .helm 1 0 [1, 20, 0, 0x01, 0xF4, 0xFF, 0x9C, 8, 0x24, 0x04, 0, 0]))
        following) = true := by decide +kernel

theorem test_witness_orders :
    following.cvu.followed = some 1 ∧ 2 ∉ ([] : List Nat) ∧ 2 ∈ stationSet 0x24 ∧ 2 ∉ stationSet 0x20 ∧
      RxFrame.sender (frameOf .helm 1 0 helmBytes) = 1 ∧ u8 helmBytes 7 = 7 := by decide +kernel

theorem test_witness_transfer_result :
    moving.fau.transfer.source ≠ moving.fau.transfer.destination ∧ (getN moving.fau.tanks 2).map (·.raw) = some 9000000 ∧
      (getN moving.fau.tanks 1).map (·.raw) = some 1500000 ∧ (9000000 : Int) < 2 ^ 47 ∧
      stopDue { moving.fau.transfer with moved := 5064 } {} {} 0 0 = some .destHigh ∧
      (∀ cs ∈ moving.cfg.tanks.getLast?, ∀ cd ∈ moving.cfg.tanks.head?,
        stopDue { moving.fau.transfer with moved := 5064 } cs cd 8999936 1500064 = none ∧
          stopDue { moving.fau.transfer with moved := 5064 } cs cd 2000000 1500064 = some .sourceLow ∧
          stopDue { moving.fau.transfer with requested := some 5064, moved := 5064 } cs cd 2000000 1500064 =
            some .done) := by
  decide +kernel

theorem test_witness_top_up :
    wantsTopUp { live with fau := { live.fau with tanks := [{ raw := 899999 }, { raw := 2000001 }] } } 1 2 ∧
      canTransfer live = true ∧ live.fau.transfer.running = false :=
  ⟨⟨_, _, rfl, rfl, rfl, rfl, by decide +kernel, rfl, rfl, rfl, by decide +kernel⟩, by decide +kernel, rfl⟩

theorem test_witness_level_result :
    (getN live.cfg.tanks 1).map (fun c => (c.fEmpty, c.fFull, c.tolerance)) = some (20000, 420000, 50000) ∧
      (getN live.fau.tanks 1).map (fun k => (k.raw, k.run, k.movement)) = some (1500000, 0, .none) ∧
      live.fau.nextSerial ≤ 4294967295 := by decide +kernel

/-- R129: the third sounding in a row out of tolerance is reported, one within it is not. -/
theorem test_discrepancy :
    let s (run : Nat) : State := { live with fau := { live.fau with tanks := [{ raw := 1500000, run := run }, {}] } }
    [1, 2].map (fun run => ((levelResult 1 110 50000 (s run)).fau.tanks.head?.map fun k => (k.run, k.reported),
        (levelResult 1 110 50000 (s run)).fau.journal.map (·.volume))) =
      [(some (2, false), []), (some (3, true), [-500000])] := by decide +kernel

theorem test_witness_results :
    (getN measuring.cfg.chans 1).map (fun k => (k.kind, k.binding, k.deadCount)) = some (.rpm, some 1, 3) ∧
      (getN (withGauge { noPulse := 2 } {} none none).pgu.chans 1).map (fun c => (c.health, min (c.noPulse + 1) 65535)) =
        some (.ok, 3) ∧
      (getN (withGauge { noPulse := 1 } {} none none).pgu.chans 1).map (fun c => (c.health, min (c.noPulse + 1) 65535)) =
        some (.ok, 2) ∧
      (getN (withGauge { health := .dead } {} none none).pgu.chans 1).map (·.health) = some .dead ∧
      Outcome.noPulse ≠ Outcome.complete := by decide +kernel

/-- R159, R160: row 1, a driven line takes its new duty; row 2, a partner turned off by its own 0 at this start holds it; a
hold that ends now; a forced turn-off without a dead zone. -/
theorem test_pair_rows :
    let go (c : Cfg) (a b : Line) : Option (Option Nat × Option Nat) :=
      match exec (.periodStart 10000000) { withLines a b with cfg := c } with
      | .next u => (getN u.dlu.lines 2).map fun l => (l.applied, l.holdAt)
      | _ => none
    [go cfg1 { pendingDuty := some 700, applied := some 300 } {},
        go cfg1 { pendingDuty := some 700 } { pendingDuty := some 0, applied := some 1000 },
        go cfg1 { pendingDuty := some 700, holdAt := some 10000 } {},
        go cfg1 { pendingDuty := some 700, holdAt := some 10001 } {},
        go { cfg1 with deadZone := 0 } { pendingDuty := some 700 } { applied := some 1000 },
        go cfg1 { pendingDuty := some 700 } { pendingDuty := some 0 },
        go cfg1 { pendingDuty := some 700 } { pendingDuty := some 0, applied := some 0, offTime := some 9980 },
        go cfg1 { pendingDuty := some 700 } { pendingDuty := some 0, applied := some 0, offTime := some 9981 }] =
      [some (some 700, none), some (none, some 10020), some (some 700, none), some (none, some 10001),
        some (some 700, none), some (some 700, none), some (some 700, none), some (none, some 10001)] := by
    decide +kernel

theorem test_witness_pair_rows :
    lineDriven 2 cfg1 { pendingDuty := some 700, applied := some 300 } = true ∧
      lineDriven 3 cfg1 { pendingDuty := some 0, applied := some 1000 } = true ∧
      lineOf (.clutchAhead 1) cfg1 = some 2 ∧ lineOf (.governor 2) cfg1 = none ∧ lineEnabled 2 cfg1 = true ∧
      lineEnabled 9 cfg1 = false ∧ pendingAbove0 { pendingDuty := some 1 } = true ∧
      pendingAbove0 { pendingDuty := some 0 } = false ∧
      appliedAbove0 { pendingDuty := some 0, applied := some 0 } = false := by decide +kernel

/-! ## The selection of the followed claimant -/

/-- Station 2 following station 5 with the order in force, the entries given. -/
def followsPeer5 (l : List Peer) : State :=
  withCvu
    { peers := l, followed := some 5, helmState := .following, effD := 300, effDelta := -20
      baseline := some { claimant := 5, order := 0, releaseSet := [], remakeSet := [] } }

/-- Station 1, a claimant of rank 4 that orders D 700. -/
def peer1Helm : Peer :=
  { peer5 with
    number := 1
    helmPart := some
      { rank := 4, period := 200, yielded := false, d := 700, delta := 0, order := 3, releaseSet := [], remakeSet := []
        lastHelm := 9900 } }

/-- R14, R15, R16, R18: when the helm age of the claimant followed ends, the candidate left takes its place with its D and
order; with none left the helm is lost, D and δ held for the grace time of 5 s. -/
theorem test_helm_age_ends :
    nextWith (fun u => decide (u.cvu.followed = some 1 ∧ u.cvu.effD = 700 ∧ u.cvu.helmState = .following ∧
        (u.cvu.baseline.map fun b => (b.claimant, b.order)) = some (1, 3) ∧ flagSet .helmLost u = false))
      (exec (.helmAgeExpiry 10000000 5) (followsPeer5 [peer1Helm, peer5Helm])) = true ∧
    nextWith (fun u => decide (u.cvu.followed = none ∧ u.cvu.helmState = .grace ∧ u.cvu.baseline = none ∧
        u.cvu.graceAt = some 15000 ∧ u.cvu.effD = 300 ∧ u.cvu.effDelta = -20 ∧ flagSet .helmLost u = true))
      (exec (.helmAgeExpiry 10000000 5) (followsPeer5 [peer5Helm])) = true := by decide +kernel

/-- R6, R14, R96: at the lost expiry of the neighbour a wire lies to, the summary leaves MADE and the ALERT placed says FREE,
and the helm of that neighbour is lost. -/
theorem test_lost_neighbour :
    nextWith (fun u => decide (u.cpc.summary = .free ∧ (u.lif.slotAlert.map fun p => u8 p 2) = some 0 ∧
        u.cvu.followed = none ∧ u.cvu.helmState = .grace ∧ flagSet .peerLost u = true ∧ flagSet .helmLost u = true))
      (exec (.lostExpiry 11000000 5)
        { followsPeer5 [{ peer5Helm with state := .stale, statusPart := some (decodeStatus statusBytes) }] with
          cfg := { cfg1 with winches := [{ winch1 with target := .station 5 }] }
          cpc := { winches := [{ state := .made }], summary := .made } }) = true := by decide +kernel

/-- `helmsman` with its last HELM: D 400, order 9. -/
def helmsmanSent : State :=
  { helmsman with
    cvu :=
      { helmsman.cvu with
        ownOrder := 9
        lastHelm := some { rank := 3, periodUnits := 20, d := 400, delta := 0, order := 9, releaseSet := [], remakeSet := [] } } }

/-- R11, R13: take-command on has the one candidate claim and send its HELM; off, and at the panel timeout, the yield frame is
the last HELM with its yield byte 1. -/
theorem test_claim_frames :
    nextWith (fun u => decide (u.cvu.claim = .claiming ∧ u.cvu.helmAt = some 10200 ∧
        u.lif.slotHelm = some [3, 20, 0, 0x01, 0xF4, 0xFF, 0x9C, 0, 0, 0, 0, 0]))
      (exec (.panel 10000000 500 0xFF9C 1 0 0) live) = true ∧
    nextWith (fun u => decide (u.cvu.claim = .notClaiming ∧ u.lif.slotHelm = some [3, 20, 1, 0x01, 0x90, 0, 0, 9, 0, 0, 0, 0]))
      (exec (.panel 10000000 0 0 0 0 0) helmsmanSent) = true ∧
    nextWith (fun u => decide (u.cvu.claim = .notClaiming ∧ u.lif.slotHelm = some [3, 20, 1, 0x01, 0x90, 0, 0, 9, 0, 0, 0, 0]))
      (exec (.panelTimeout 10000000) helmsmanSent) = true := by decide +kernel

/-- What a helm age that ends leaves the selection to work on. -/
def aged (l : List Peer) : State :=
  modPeer 5 (fun q => { q with helmPart := q.helmPart.map fun x => { x with expired := true } })
    (setClock 10000000 (followsPeer5 l))

theorem test_witness_selection_helm_age :
    PeersOk 2 [peer1Helm, peer5Helm] ∧ PeersOk 2 [peer5Helm] ∧ Preferred (aged [peer1Helm, peer5Helm]) 1 ∧
      (aged [peer1Helm, peer5Helm]).cvu.followed ≠ some 1 ∧ (∀ r n, ¬HelmCandidate (aged [peer5Helm]) r n) ∧
      (aged [peer5Helm]).cvu.followed ≠ none ∧ Preferred leading 2 ∧ leading.cvu.followed = some 2 ∧
      (∀ r n, ¬HelmCandidate live r n) ∧ live.cvu.followed = none := by
  simp only [preferred_iff, no_candidate_iff, PeersOk]
  decide +kernel

theorem test_witness_selection_lost :
    PeersOk 2 [peer1Helm, peer5Helm] ∧
      announcedDeparture { peer5 with statusPart := some { decodeStatus statusBytes with departing := true } } = true ∧
      announcedDeparture peer5Helm = false ∧ (followsPeer5 [peer5Helm]).cpc.pullOff = none ∧
      Preferred (modPeer 5 (fun q => { q with state := .lost }) (setClock 11000000 (followsPeer5 [peer1Helm, peer5Helm]))) 1 ∧
      (∀ r n, ¬HelmCandidate
        (modPeer 5 (fun q => { q with state := .lost }) (setClock 11000000 (followsPeer5 [peer5Helm]))) r n) := by
  simp only [preferred_iff, no_candidate_iff, PeersOk]
  decide +kernel

/-- `helmBytes` with its yield byte 1. -/
def yieldBytes : List Byte := [1, 20, 1, 0x01, 0xF4, 0xFF, 0x9C, 7, 0, 0, 0, 0]

/-- What the HELM of station 5 leaves the selection to work on. -/
def heard5 (payload : List Byte) : State :=
  storeFrame .helm (frameOf .helm 5 0 payload)
    (countReceived (frameSeen (setClock 10000000 (followsPeer5 [peer5Helm]))))

theorem test_witness_selection_helm :
    wfFrame .helm (frameOf .helm 5 0 yieldBytes) = true ∧ helmEvent yieldBytes = true ∧
      RxFrame.sender (frameOf .helm 5 0 yieldBytes) ≠ (followsPeer5 [peer5Helm]).cfg.station ∧
      PeersOk 2 (followsPeer5 [peer5Helm]).cvu.peers ∧ (followsPeer5 [peer5Helm]).lif.awaitIdle = false ∧
      Preferred (heard5 helmBytes) 5 ∧ (∀ r n, ¬HelmCandidate (heard5 yieldBytes) r n) ∧
      (heard5 yieldBytes).cvu.followed = some 5 := by
  simp only [preferred_iff, no_candidate_iff, PeersOk]
  decide +kernel

theorem test_witness_selection_panel :
    live.svp.panel.takeCommand = false ∧ (1 : Byte).getLsbD 0 = true ∧ live.cvu.followed ≠ some live.cfg.station ∧
      PeersOk live.cfg.station live.cvu.peers ∧ live.svp.panel.releaseSet = stationSet 0 ∧
      live.svp.panel.remakeSet = stationSet 0 ∧ live.cvu.claim ≠ .claiming ∧
      Preferred { live with svp := { live.svp with panel := panelOf 500 0 1 0 0, panelState := .current } } 2 ∧
      helmsmanSent.svp.panel.takeCommand = true ∧ helmsmanSent.svp.mode = .running ∧
      helmsmanSent.cvu.claim = .claiming ∧ helmsmanSent.cvu.lastHelm.isSome = true ∧ (0 : Byte).getLsbD 0 = false ∧
      helmsmanSent.svp.panel.releaseSet = stationSet 0 ∧ helmsmanSent.svp.panel.releaseSet ≠ stationSet 4 ∧
      PeersOk helmsmanSent.cfg.station helmsmanSent.cvu.peers := by
  simp only [preferred_iff, PeersOk]
  decide +kernel

theorem test_witness_mid_frame :
    (withLif { awaitIdle := true, midFrame := true }).lif.midFrame = true ∧
      (withLif { awaitIdle := true }).lif.midFrame = false ∧ live.svp.mode ≠ .configuring := by decide

/-! ## Timers, lines and direction states -/

theorem test_witness_empty_queue_ticks :
    live.pending = [] ∧ (lostView.cvu.peers.map (·.number)).Nodup ∧ (heldChans measuring).Nodup ∧
      dueCommands { (withShaft { stepAt := some 10001 }) with clock := 10001000 } = [.controlStep 10001000 1] := by
  decide +kernel

/-- A state at 10 000 000 µs in which timers of every block have reached their expiries. -/
def overdue : State :=
  { live with
    svp := { live.svp with panelState := .current, panelAt := some 10000 }
    lif := { suspendedAt := some 10000, statusAt := some 9999, lastSent := some 8000 }
    shu := { muted := false }
    cvu :=
      { claim := .claiming, helmAt := some 10000, graceAt := some 10000
        peers := [{ peer5Helm with lastHeard := 8000, statusPeriod := 250 }] }
    sfc := [{ stepAt := some 10000, dwellAt := some 10000, deviationAt := some 10000 }]
    stc := { rudders := [{ stallAt := some 10000 }] }
    cpc :=
      { pullOff := some { origin := .panel, expiry := 10000 }
        winches :=
          [{ state := .hauling, timerAt := some 10000 }, { state := .made, pulse := true, timerAt := some 10000 },
            { state := .releasing, phase := some .payingOut, timerAt := some 10000 },
            { state := .releasing, phase := some .holding, timerAt := some 10000 }, { state := .made, timerAt := some 10001 }] }
    fau := { live.fau with fuelAt := some 10000 }
    pgu :=
      { measuring.pgu with
        chans := [{ intervalAt := some 10000 }], engines := measuring.pgu.engines }
    dlu := { periodAt := some 10000 } }

/-- Each timer that has reached its expiry is due, and no other: the join timer outside JOINING and a phase timer a millisecond
short are not. -/
theorem test_every_timer_due :
    let t := 10000000
    (dueCommands overdue).Perm
      [.panelTimeout t, .suspensionExpiry t, .statusTimerExpiry t, .fuelPeriodExpiry t, .staleExpiry t 5, .lostExpiry t 5,
        .helmAgeExpiry t 5, .helmPeriodExpiry t, .graceExpiry t, .muteExpiry t, .controlStep t 1, .dwellExpiry t 1,
        .deviationExpiry t 1, .stallExpiry t 1, .haulTimeoutExpiry t 1, .haulPulseExpiry t 2, .releaseWaitExpiry t 3,
        .releaseHoldExpiry t 4, .pullOffTimerExpiry t, .intervalExpiry t 1, .periodWindowExpiry t 1,
        .dutyWindowExpiry t 3, .periodStart t] ∧
      dueCommands { live with svp := { mode := .joining, joinAt := some 10000 } } = [.joinTimerExpiry t] := by
  decide +kernel

/-- What the lines of shaft 1 and of winch 1 have been asked for: governor, clutches ahead and astern, haul, pay-out. -/
def asked (s : State) : List (Option Nat) := [1, 2, 3, 6, 7].map fun n => (getN s.dlu.lines n).bind (·.requested)

/-- `live` at a control step of its shaft. -/
def stepping (r : Shaft) : State := withShaft { r with stepAt := some 10000 }

/-- R50, R51, R60, R61, R64: engagement ahead; a reversal at P 0 enters DWELL for 3000 ms; the first step writes the clutches of
the state it finds; without a change nothing but the governor is written. -/
theorem test_step_lines :
    ([{ engine := .running, target := 300, targetWay := some .ahead, clutchWritten := true },
        { engine := .running, dir := .ahead, target := 300, targetWay := some .astern, clutchWritten := true },
        { engine := .running, dir := .astern, p := 10, target := 10, targetWay := some .astern },
        { engine := .stopped, target := 300, targetWay := some .ahead, clutchWritten := true }] : List Shaft).map (fun r =>
      match exec (.controlStep 10000000 1) (stepping r) with
      | .next u => u.sfc.map (fun q => (q.dir, q.dwellAt)) ++ [(.neutral, (asked u)[0]?.join), (.neutral, (asked u)[1]?.join),
          (.neutral, (asked u)[2]?.join)]
      | _ => []) =
      [[(.ahead, none), (.neutral, some 200), (.neutral, some 1000), (.neutral, some 0)],
        [(.dwell, some 13000), (.neutral, some 200), (.neutral, some 0), (.neutral, some 0)],
        [(.astern, none), (.neutral, some 207), (.neutral, some 0), (.neutral, some 1000)],
        [(.neutral, none), (.neutral, some 200), (.neutral, none), (.neutral, none)]] := by decide +kernel

/-- R94: remake-own turns the haul line on; its timeout turns it off; a completed pull-off turns the pay-out line on. -/
theorem test_winch_lines :
    (asked (remakeOwn live)).drop 3 = [some 1000, some 0] ∧
      nextWith (fun u => decide ((asked u).drop 3 = [some 0, some 0]))
        (exec (.haulTimeoutExpiry 10000000 1) (withWinch { state := .hauling, timerAt := some 10000 })) = true ∧
      nextWith (fun u => decide ((asked u).drop 3 = [some 0, some 1000])) (exec (.controlStep 10000000 1) pulling) = true := by
  decide +kernel

/-- R51, R61, R100: the step that completes the pull-off brings P to 0 with a reversal pending. -/
theorem test_reversal_completes :
    nextWith (fun u => decide (u.cpc.outcome = .released ∧ u.sfc.map (fun r => (r.p, r.dir, r.dwellAt)) = [(0, .dwell, some 13000)] ∧
        (asked u).take 3 = [some 200, some 0, some 0]))
      (exec (.controlStep 10000000 1)
        { pulling with sfc := [{ engine := .running, dir := .ahead, p := 70, target := 50, targetWay := some .astern, stepAt := some 10000 }] }) =
      true := by decide +kernel

theorem test_witness_directions :
    getN (stepping { engine := .running, target := 300, targetWay := some .ahead }).sfc 1 =
        some { engine := .running, target := 300, targetWay := some .ahead, stepAt := some 10000 } ∧
      getN (stepping { engine := .running, dir := .ahead, target := 300, targetWay := some .astern, p := 1 }).sfc 1 =
        some { engine := .running, dir := .ahead, target := 300, targetWay := some .astern, p := 1, stepAt := some 10000 } ∧
      (stepping { engine := .running, dir := .ahead }).cpc.pullOff = none ∧ live.svp.mode ≠ .configuring ∧
      (recompute pulling).cpc.pullOff.isSome = true ∧ pulling.cpc.pullOff.isSome = true := by decide +kernel

/-- The members of "Share Filling: Worked Case" at D = +900: stations 1 and 2 take their capacities and the walk stops at station
3; at D = +800 it stops at once.  The targets of "Turn Bias and Shaft Split: Worked Case". -/
theorem test_walk_parts :
    let ms : List Member := [⟨3, 1200, 900⟩, ⟨1, 4000, 4000⟩, ⟨2, 2400, 2400⟩]
    [rulePart 7380 ms [] ⟨1, 4000, 4000⟩, rulePart 7380 ms [⟨1, 4000, 4000⟩] ⟨2, 2400, 2400⟩,
        rulePart 7380 ms [⟨1, 4000, 4000⟩, ⟨2, 2400, 2400⟩] ⟨3, 1200, 900⟩, rulePart 6560 ms [] ⟨1, 4000, 4000⟩,
        rulePart 6560 ms [] ⟨2, 2400, 2400⟩, rulePart 6560 ms [] ⟨3, 1200, 900⟩] =
      [4043, 2458, 980, 3594, 2156, 808] ∧
      [ruleTarget 2058 [1500, 900] 1 1500, ruleTarget 2058 [1500, 900] 2 900, ruleTarget 5999 [2000, 2000, 2000] 1 2000,
        ruleTarget 5999 [2000, 2000, 2000] 3 2000] = [1287, 771, 2000, 1999] := by decide +kernel

theorem test_witness_share_rules :
    (∀ m ∈ [(⟨3, 1200, 900⟩ : Member), ⟨1, 4000, 4000⟩, ⟨2, 2400, 2400⟩], realMember m = true) ∧
      7380 < ([(⟨3, 1200, 900⟩ : Member), ⟨1, 4000, 4000⟩, ⟨2, 2400, 2400⟩].map (·.c)).sum ∧
      getN [1500, 900] 1 = some 1500 ∧ (∀ x ∈ [1500, 900], x ≤ 1500) ∧
      2058 * 1500 / 2400 + (2058 - ([1500, 900].map fun x => 2058 * x / 2400).sum) ≤ 1500 := by decide +kernel

theorem test_witness_pull_off_winches :
    getN ({ pulling with cpc := { pulling.cpc with winches := [{ state := .made, pulse := true, timerAt := some 10000 }] } } :
        State).cpc.winches 1 = some { state := .made, pulse := true, timerAt := some 10000 } ∧
      live.cpc.pullOff = none ∧ live.svp.mode ≠ .configuring ∧
      (∃ w ∈ (withWinch { state := .hauling }).cpc.winches, w.state = .hauling) ∧
      shaftsDown (releaseRequest .panel { withWinch { state := .hauling } with
        sfc := [{ engine := .running, dir := .ahead, p := 180, target := 180, targetWay := some .ahead }] }) = false ∧
      getN live.cpc.winches 1 = some {} ∧ canHaul 1 live := by
  refine ⟨rfl, rfl, by decide, by decide, by decide +kernel, rfl, ⟨_, rfl, rfl⟩, rfl, by decide +kernel⟩

theorem test_witness_engine_stops :
    rpmOf 4 100001 8 < shaft1.stopRpm ∧
      getN (withShaft { engine := .limited, dir := .astern, p := 90, target := 90 }).sfc 1 =
        some { engine := .limited, dir := .astern, p := 90, target := 90 } ∧
      getN (withShaft { engine := .running, dir := .dwell }).sfc 1 = some { engine := .running, dir := .dwell } := by
  decide +kernel

/-! ## What the notices leave in force -/

/-- Station 2 at the end of JOINING, made up to the tow and following station 1, which contributes 1500 kW and orders D 500 and
δ −100 (`helmBytes`); R_nom 2500 kW, r_nom 3600. -/
def sharing : State :=
  { live with
    svp := { mode := .joining, joinAt := some 10000 }
    cvu :=
      { peers := [{ peer5 with
          number := 1, statusPart := some (decodeStatus statusBytes), helmPart := some (decodeHelm 10000 helmBytes) }]
        followed := some 1, helmState := .following, effD := 500, effDelta := -100, powerNom := 2500, rudderNom := 3600 }
    shu := { phi := 1000, muted := false }, cpc := { winches := [{ state := .made }], summary := .made } }

/-- R35 to R40, R67 to R70: E 1250 over C 1000 and 1500 gives S 500; b = 200000 / 35000 = 5 gives S' 502 on the one shaft;
r_live 1000 + 2000 gives k 1200 and the set-point −120. -/
theorem test_join_shares :
    nextWith (fun u => decide (u.shu.contributing = true ∧ u.shu.demand = 1250 ∧ u.shu.demandWay = some .ahead ∧
        u.shu.share = 500 ∧ u.shu.biased = 502 ∧ u.shu.shortfall = false ∧ u.shu.cAhead = 1000 ∧ u.shu.cAstern = 600 ∧
        u.sfc.map (fun r => (r.target, r.targetWay, r.dir, r.aAhead)) = [(502, some .ahead, .ahead, 1000)] ∧
        u.stc.ownLive = 1000 ∧ u.stc.rLive = 3000 ∧ u.stc.k = 1200 ∧
        u.stc.rudders.map (fun r => (r.state, r.setPoint)) = [(.following, -120)]))
      (exec (.joinTimerExpiry 10000000) sharing) = true := by decide +kernel

/-- R95 to R97: a made wire that reaches its render tension counts with the factor 500; a wire that parts leaves the summary
FREE, and the ALERT placed says so. -/
theorem test_summary_follows :
    let s : State := withWinch { state := .made, tension := some 700 }
    (loadResult 1 3600 1000000 s).cpc.fCpl = 500 ∧ (loadResult 1 3600 1000000 s).cpc.summary = .made ∧
      (loadResult 1 1000 1000000 { s with cpc := { s.cpc with summary := .made } }).cpc.summary = .free ∧
      ((loadResult 1 1000 1000000 { s with cpc := { s.cpc with summary := .made } }).lif.slotAlert.map fun p =>
        (u8 p 1, u8 p 2)) = some (4, 0) := by decide +kernel

/-- R30, R57, R112: a booking of 10 mL takes the DAY tank from NORMAL to RESERVE, one that reaches the cutoff to CUTOFF, with
the engine in FUEL_OUT and its shaft in DWELL; FUEL_RESERVE is bit 6. -/
theorem test_bands :
    let s (raw : Int) : State := { live with
      sfc := [{ engine := .running, dir := .ahead, p := 300 }]
      fau := { live.fau with tanks := [{ raw := raw }, { raw := 2000000 }] } }
    [400010, 400009, 100010].map (fun raw => ((flowResult 1 200 1000 (s raw)).fau.tanks.map (·.band),
        (flowResult 1 200 1000 (s raw)).svp.flags.toNat,
        (flowResult 1 200 1000 (s raw)).sfc.map fun r => (r.engine, r.dir))) =
      [([.normal, .normal], 0, [(.running, .ahead)]), ([.reserve, .normal], 64, [(.running, .ahead)]),
        ([.cutoff, .normal], 64, [(.fuelOut, .dwell)])] := by decide +kernel

/-- The shaft at 300 kW with its flow channel DEAD and its burn being estimated, its control step due. -/
def estimating : State :=
  { live with
    sfc := [{ engine := .running, dir := .ahead, p := 300, target := 300, targetWay := some .ahead, aAhead := 1000, stepAt := some 10000 }]
    fau := { live.fau with burns := [{ residue := 990, estimating := true }] }
    pgu := { chans := [{}, { health := .dead }] ++ List.replicate 22 {} } }

/-- R119: 300 kW × 210 × 100 ms / 3600 = 1750 µL; with the residue 2 mL leave the tank; the rate is 630 dL/h. -/
theorem test_estimated_burn :
    nextWith (fun u => decide (u.fau.burns =
          [{ residue := 740, sinceBooked := 2, estimated := 2, estimating := true, lastRate := 630 }] ∧
        u.fau.tanks.map (·.raw) = [1499998, 9000000] ∧ u.fau.burn = 630))
      (exec (.controlStep 10000000 1) estimating) = true := by decide +kernel

theorem test_witness_estimated_burn :
    getN estimating.sfc 1 = some
        { engine := .running, dir := .ahead, p := 300, target := 300, targetWay := some .ahead, aAhead := 1000
          stepAt := some 10000 } ∧
      getN estimating.cfg.shafts 1 = some shaft1 ∧ 10000 ≤ max estimating.clock 10000000 / 1000 ∧
      estimating.cpc.pullOff = none ∧ getN estimating.fau.burns 1 = some { residue := 990, estimating := true } ∧
      boundDead .flow (some 1) estimating = true ∧ getN estimating.fau.tanks shaft1.dayTank = some { raw := 1500000 } ∧
      0 < shaft1.quantum ∧ -(2 ^ 47) ≤ (1500000 : Int) - ((990 + 1750) / 1000 : Nat) ∧ (1500000 : Int) < 2 ^ 47 := by
  decide +kernel

theorem test_witness_dead_notices :
    getN live.sfc 1 = some { engine := .running } ∧ getN (withShaft {}).sfc 1 = some {} ∧
      getN (withWinch { deadSeen := true }).cpc.winches 1 = some { deadSeen := true } ∧
      getN (withWinch { state := .rendering, tension := some 900 }).cpc.winches 1 =
        some { state := .rendering, tension := some 900 } ∧
      getN (withWinch { state := .releasing, phase := some .payingOut }).cpc.winches 1 =
        some { state := .releasing, phase := some .payingOut } ∧
      getN live.cfg.winches 1 = some winch1 ∧ getN live.fau.burns 1 = some {} ∧ moving.fau.bunker.running = true ∧
      moving.fau.transfer.running = true ∧ moving.fau.nextSerial ≤ 4294967295 ∧
      ({ moving.fau.transfer with origin := some .auto }).origin = some .auto := by decide +kernel

theorem test_witness_in_force :
    sharing.svp.mode = .joining ∧ due (max sharing.clock 10000000 / 1000) sharing.svp.joinAt = true ∧
      RxFrame.sender (frameOf .helm 1 0 helmBytes) = 1 ∧ sharing.cvu.followed = some 1 ∧
      ({ following with cvu := { following.cvu with effD := 500 } } : State).cvu.effDelta ≠ -100 ∧
      ({ sharing with shu := { contributing := true, muted := false } } : State).shu.contributing = true ∧
      getN ({ live with stc := { rudders := [{ state := .following }] } } : State).stc.rudders 1 =
        some { state := .following } ∧
      (withLif { tx := some { kind := .alert, payload := statusBytes, sealed := some (3, 0) } }).lif.lineIdle = none ∧
      live.svp.panel.lever < 32768 ∧ live.svp.panel.releaseSet = stationSet 0 ∧
      live.cfg.tanks.length = live.fau.tanks.length ∧
      (∀ n c k, getN live.cfg.tanks n = some c → getN live.fau.tanks n = some k → c.role = .day → k.band = .normal) := by
  refine ⟨rfl, by decide, by decide +kernel, rfl, by decide, rfl, rfl, rfl, by decide, rfl, rfl, ?_⟩
  intro n c k _ h _
  match n with
  | 0 => cases h
  | 1 => cases h; rfl
  | 2 => cases h; rfl
  | n + 3 => cases h

end Sys2Proof.Tests
end

section
/-!
PROOFS. Settles O29.  FORGET_PEER reads and changes the peer table alone, so the table is said first: what a
station's entry is after a change, a removal and the storing of a frame.  A frame taken after the request is delivered
only while the receiver is assembling, so removal must leave the receiver as it was: that the operations it brings about
leave `awaitIdle` is said once for each, beside `Reacts`.
-/

namespace Sys2Proof.Machine

/-! ## Writes to drive lines leave the convoy line (R158) -/

@[simp] theorem writeDuty_lif (a : Assignment) (d : Nat) (s : State) : (writeDuty a d s).lif = s.lif := by
  rw [writeDuty_only]

@[simp] theorem shaftOutputs_lif (n : Nat) (old : Dir) (force : Bool) (s : State) :
    (shaftOutputs n old force s).lif = s.lif := by
  have hClutches (d : Dir) (w : State) : (writeClutches n d w).lif = w.lif := by cases d <;> simp [writeClutches]
  have hGovernor (w : State) : (writeGovernor n w).lif = w.lif := by
    unfold writeGovernor
    split
    · split <;> simp
    · rfl
  rw [shaftOutputs, hGovernor, writeClutchesIf]
  split
  · split <;> simp [hClutches]
  · rfl

@[simp] theorem deliverTo_lif (res : ShareResult) (av : List (Nat × Nat)) (s : State) (n : Nat) :
    (deliverTo res av s n).lif = s.lif := by
  unfold deliverTo
  split <;> simp

/-- What leaves the convoy line at every step of a fold leaves it over the fold. -/
theorem foldl_lif {α : Type} {f : State → α → State} (h : ∀ s x, (f s x).lif = s.lif) (l : List α) (s : State) :
    (l.foldl f s).lif = s.lif := by
  induction l generalizing s with
  | nil => rfl
  | cons x xs ih => exact (ih _).trans (h s x)

/-- A recompute places no frame (R28). -/
@[simp] theorem recomputeShare_lif (s : State) : (recomputeShare s).lif = s.lif := by
  have hDirs (old : List Dir) (w : State) : (noticeDirs old w).lif = w.lif := by
    unfold noticeDirs
    split <;> simp
  have hShortfall (b : Bool) (w : State) : (raiseShortfall b w).lif = w.lif := by
    unfold raiseShortfall
    split <;> simp
  unfold recomputeShare
  split
  · rfl
  · rw [hDirs, foldl_lif (deliverTo_lif _ _), hShortfall]

@[simp] theorem changeWinch_lif (n : Nat) (f : Winch → Winch) (s : State) : (changeWinch n f s).lif = s.lif := by
  have hHaul (v : Nat) (o : Option Nat) (w : State) : (updateHaul n v o w).lif = w.lif := by
    unfold updateHaul
    split <;> simp
  have hPayout (v : Nat) (o : Option Nat) (w : State) : (updatePayout n v o w).lif = w.lif := by
    unfold updatePayout
    split <;> simp
  unfold changeWinch writeWinch
  split
  · simp
  · split <;> simp [hHaul, hPayout]

@[simp] theorem releaseOne_lif (s : State) (n : Nat) : (releaseOne s n).lif = s.lif := by
  unfold releaseOne
  split
  · simp
  · rfl

@[simp] theorem pushMakeUp_lif (s : State) : (pushMakeUp s).lif = s.lif := by
  unfold pushMakeUp
  split <;> rfl

/-! ## Placing a frame leaves the receiver (R165, R169, R170) -/

@[simp] theorem tryStart_awaitIdle (s : State) : (tryStart s).lif.awaitIdle = s.lif.awaitIdle := by
  unfold tryStart
  split
  · split <;> rfl
  · rfl

@[simp] theorem placeFrame_awaitIdle (k : FrameKind) (p : List Byte) (s : State) :
    (placeFrame k p s).lif.awaitIdle = s.lif.awaitIdle := by
  unfold placeFrame
  split
  · cases k <;> simp [setSlot]
  · rfl

@[simp] theorem placeAlert_awaitIdle (s : State) : (placeAlert s).lif.awaitIdle = s.lif.awaitIdle :=
  placeFrame_awaitIdle _ _ s

@[simp] theorem placeHelm_awaitIdle (h : HelmContents) (y : Bool) (s : State) :
    (placeHelm h y s).lif.awaitIdle = s.lif.awaitIdle := placeFrame_awaitIdle _ _ s

/-! ## What follows a change of the view leaves the receiver (R23, R28, R95 to R102) -/

theorem settleWith_awaitIdle {rc : State → State} (hrc : ∀ w, (rc w).lif.awaitIdle = w.lif.awaitIdle) (b : Bool)
    (s : State) : (settleWith rc b s).lif.awaitIdle = s.lif.awaitIdle := by
  have hShu (force : Bool) (w : State) : (shuNoticeWith rc force w).lif.awaitIdle = w.lif.awaitIdle := by
    unfold shuNoticeWith
    split
    · split
      · exact hrc w
      · rfl
    · simp [hrc]
  have hAlert (c : Prop) [Decidable c] (w : State) :
      (if c then w else placeAlert w).lif.awaitIdle = w.lif.awaitIdle := by split <;> simp
  unfold settleWith
  dsimp only
  split <;> simp [hShu, hAlert]

@[simp] theorem recompute_awaitIdle (s : State) : (recompute s).lif.awaitIdle = s.lif.awaitIdle := by
  have hFinish (w : State) : (finishPullOff w).lif.awaitIdle = w.lif.awaitIdle := by
    unfold finishPullOff
    rw [settleWith_awaitIdle fun _ => congrArg Lif.awaitIdle (recomputeShare_lif _)]
    simp [foldl_lif releaseOne_lif]
  unfold recompute noticePs completePullOff
  split
  · simp
  · split <;> simp [hFinish]

@[simp] theorem noticePeers_awaitIdle (s : State) : (noticePeers s).lif.awaitIdle = s.lif.awaitIdle := by
  simp [noticePeers, settle, settleWith_awaitIdle recompute_awaitIdle]

@[simp] theorem noticeOrder_awaitIdle (s : State) : (noticeOrder s).lif.awaitIdle = s.lif.awaitIdle := by
  simp [noticeOrder]

/-! ## The selection leaves the receiver (R10 to R18) -/

@[simp] theorem evalClaim_awaitIdle (s : State) : (evalClaim s).lif.awaitIdle = s.lif.awaitIdle := by
  have hYield (w : State) : (sendYield w).lif.awaitIdle = w.lif.awaitIdle := by
    unfold sendYield
    split <;> simp
  unfold evalClaim
  split
  case h_3 => split <;> simp [hYield]
  all_goals simp [sendHelm]

@[simp] theorem follow_awaitIdle (n : Nat) (s : State) : (follow n s).lif.awaitIdle = s.lif.awaitIdle := by
  unfold follow
  split <;> simp

@[simp] theorem reselect_awaitIdle (s : State) : (reselect s).lif.awaitIdle = s.lif.awaitIdle := by
  unfold reselect
  rw [evalClaim_awaitIdle]
  split
  · rfl
  · split
    · exact follow_awaitIdle _ s
    · rfl

@[simp] theorem removePeer_awaitIdle (n : Nat) (s : State) : (removePeer n s).lif.awaitIdle = s.lif.awaitIdle := by
  simp [removePeer]

/-! ## The entry of a station (R1, R2, R8) -/

theorem peerOf_congr {s u : State} (h : u.cvu.peers = s.cvu.peers) (n : Nat) : peerOf n u = peerOf n s := by
  simp only [peerOf, h]

@[simp] theorem peerOf_setClock (n t : Nat) (s : State) : peerOf n (setClock t s) = peerOf n s := peerOf_congr rfl n

@[simp] theorem peerOf_replyOk (n : Nat) (d : List Byte) (s : State) : peerOf n (replyOk d s) = peerOf n s :=
  peerOf_congr rfl n

theorem Reacts.peerOf_eq {s t : State} (h : Reacts s t) (n : Nat) : peerOf n t = peerOf n s :=
  peerOf_congr h.peers n

/-- In a table as R1 gives it, only numbers 1 to 6 other than the own one have entries. -/
theorem peerOf_outside {s : State} (h : PeersOk s.cfg.station s.cvu.peers) {n : Nat}
    (hn : n = s.cfg.station ∨ n = 0 ∨ 6 < n) : peerOf n s = none := by
  refine List.find?_eq_none.2 fun p hp => ?_
  obtain ⟨h1, h6, hown⟩ := h.2 p hp
  simp only [decide_eq_true_eq]
  omega

theorem peerOf_modPeer (n : Nat) {f : Peer → Peer} (hf : ∀ p, (f p).number = p.number) (s : State) :
    peerOf n (modPeer n f s) = (peerOf n s).map f := by
  simp only [peerOf, modPeer]
  induction s.cvu.peers with
  | nil => rfl
  | cons p ps ih => by_cases h : p.number = n <;> simp [h, hf, ih]

/-- A new entry is the one found of its station where the table held none. -/
theorem find?_insertPeer {p : Peer} {l : List Peer} (h : l.find? (fun q => decide (q.number = p.number)) = none) :
    (insertPeer p l).find? (fun q => decide (q.number = p.number)) = some p := by
  induction l with
  | nil => simp [insertPeer]
  | cons x xs ih =>
    by_cases hx : x.number = p.number
    · simp [hx] at h
    · unfold insertPeer
      split
      · simp
      · rw [List.find?_cons_of_neg (by simpa using hx)] at h ⊢
        exact ih h

theorem peerOf_admitPeer (n : Nat) (s : State) :
    peerOf n (admitPeer n s) = some ((peerOf n s).getD (newPeer s.cfg n)) := by
  unfold admitPeer
  cases h : peerOf n s with
  | some p => exact h
  | none => exact find?_insertPeer (p := newPeer s.cfg n) h

/-- The sender's entry after a frame is stored: the one it had, or a new one, refreshed and with the contents
(R2 to R4). -/
theorem peerOf_storeFrame (k : FrameKind) (f : RxFrame) (s : State) :
    peerOf (RxFrame.sender f) (storeFrame k f s) =
      some (storeParts k f s.now (refreshPeer s.now
        ((peerOf (RxFrame.sender f) s).getD (newPeer s.cfg (RxFrame.sender f))))) := by
  rw [storeFrame, peerOf_modPeer _ (fun p => by simp [refreshPeer]), peerOf_admitPeer]
  rfl

theorem peerOf_withoutPeer_self (n : Nat) (s : State) : peerOf n (withoutPeer n s) = none := by
  simp [peerOf, withoutPeer, List.find?_filter]

theorem peerOf_withoutPeer_ne {n m : Nat} (h : m ≠ n) (s : State) : peerOf m (withoutPeer n s) = peerOf m s := by
  simp only [peerOf, withoutPeer, List.find?_filter]
  congr 1
  funext p
  by_cases hp : p.number = m <;> simp [hp, h]

/-! ## A frame stored in its sender's entry (R2 to R4) -/

/-- Storing the contents leaves what the refresh of the entry has set. -/
@[simp] theorem storeParts_refreshed (k : FrameKind) (f : RxFrame) (now : Nat) (p : Peer) :
    (storeParts k f now p).state = p.state ∧ (storeParts k f now p).heard = p.heard := by
  cases k
  case helm => simp only [storeParts]; split <;> exact ⟨rfl, rfl⟩
  case status => simp only [storeParts, keepSequence]; split <;> exact ⟨rfl, rfl⟩
  case alert => exact ⟨rfl, rfl⟩
  case fuel => exact ⟨rfl, rfl⟩

/-! ## Taking an intact frame of another station (R176 to R179) -/

theorem exec_frameCommand (k : FrameKind) (t : Nat) (f : RxFrame) (s : State) :
    exec (frameCommand k t f) s = .next (receiveFrame (FrameKind.code k) f (setClock t s)) := by
  cases k <;> rfl

theorem assembling_iff (s : State) :
    assembling s = true ↔ s.svp.mode ≠ .configuring ∧ s.lif.awaitIdle = false := by
  unfold assembling
  cases s.svp.mode <;> simp [receiverOn]

theorem receiveFrame_intact {k : FrameKind} {f : RxFrame} {s : State} (hw : wfFrame k f = true)
    (ha : assembling s = true) (ho : RxFrame.sender f ≠ s.cfg.station) :
    receiveFrame (FrameKind.code k) f s = deliverFrame k f (countReceived (frameSeen s)) := by
  simp only [wfFrame, Bool.and_eq_true, decide_eq_true_eq] at hw
  obtain ⟨⟨_, hcrc⟩, hhead⟩ := hw
  have hk : kindOfByte (FrameKind.code k) = some k := by cases k <;> rfl
  rw [receiveFrame, if_pos ha, if_neg (not_not.2 hcrc), hk]
  simp only [hhead, if_true]
  exact if_neg ho

/-- A delivered frame leaves its sender's entry LIVE; a station without an entry gets one that has been heard once
(R2, R3). -/
theorem deliverFrame_live (k : FrameKind) (f : RxFrame) (s : State) :
    ∃ q, peerOf (RxFrame.sender f) (deliverFrame k f s) = some q ∧ q.state = .live ∧
      (peerOf (RxFrame.sender f) s = none → q.heard = 1) := by
  refine ⟨_, ((deliverFrame_reacts k f s).peerOf_eq _).trans (peerOf_storeFrame k f s), ?_, fun hnone => ?_⟩
  · simp [refreshPeer]
  · simp [hnone, refreshPeer, newPeer, sat16]

theorem deliverFrame_mode (k : FrameKind) (f : RxFrame) (s : State) :
    (deliverFrame k f s).svp.mode = s.svp.mode := by
  rw [(deliverFrame_reacts k f s).mode, storeFrame_eq]

/-- An intact frame of another station is delivered by a receiver that is assembling. -/
theorem exec_frame_live {k : FrameKind} {f : RxFrame} {s : State} (t : Nat) (hw : wfFrame k f = true)
    (hm : s.svp.mode ≠ .configuring) (hi : s.lif.awaitIdle = false) (ho : RxFrame.sender f ≠ s.cfg.station) :
    ∃ u q, exec (frameCommand k t f) s = .next u ∧ u.svp.mode = s.svp.mode ∧
      peerOf (RxFrame.sender f) u = some q ∧ q.state = .live ∧
      (peerOf (RxFrame.sender f) s = none → q.heard = 1) := by
  have ha : assembling (setClock t s) = true := (assembling_iff _).2 ⟨hm, hi⟩
  obtain ⟨q, hq, hlive, hheard⟩ := deliverFrame_live k f (countReceived (frameSeen (setClock t s)))
  refine ⟨deliverFrame k f (countReceived (frameSeen (setClock t s))), q, ?_, ?_, hq, hlive, hheard⟩
  · rw [exec_frameCommand, receiveFrame_intact hw ha ho]
  · exact deliverFrame_mode k f _

/-! ## FORGET_PEER by its table (R7) -/

theorem exec_forgetPeer_eq (t : Nat) (n : Byte) (s : State) :
    exec (.forgetPeer t n) s = .next (inService (forgetAnswer n.toNat) (setClock t s)) := rfl

/-- Outside CONFIGURING FORGET_PEER answers by R7's table. -/
theorem exec_forgetPeer {s : State} (t : Nat) (n : Byte) (hm : s.svp.mode ≠ .configuring) :
    exec (.forgetPeer t n) s = .next (forgetAnswer n.toNat (setClock t s)) := by
  simp [exec_forgetPeer_eq, inService, configuring, hm]

theorem exec_forgetPeer_configuring {s : State} (t : Nat) (n : Byte) (hm : s.svp.mode = .configuring) :
    exec (.forgetPeer t n) s = .next (replyStatus .notNow (setClock t s)) := by
  simp [exec_forgetPeer_eq, inService, configuring, hm]

theorem exec_forgetPeer_noEntry {s : State} (t : Nat) {n : Byte} (hm : s.svp.mode ≠ .configuring)
    (hp : peerOf n.toNat s = none) : exec (.forgetPeer t n) s = .next (refuse .noEntry (setClock t s)) := by
  rw [exec_forgetPeer t n hm, forgetAnswer, peerOf_setClock, hp]

theorem exec_forgetPeer_notLost {s : State} (t : Nat) {n : Byte} {p : Peer} (hm : s.svp.mode ≠ .configuring)
    (hp : peerOf n.toNat s = some p) (hl : p.state ≠ .lost) :
    exec (.forgetPeer t n) s = .next (refuse .notLost (setClock t s)) := by
  rw [exec_forgetPeer t n hm, forgetAnswer, peerOf_setClock, hp]
  simp only [if_neg hl]

theorem exec_forgetPeer_lost {s : State} (t : Nat) {n : Byte} {p : Peer} (hm : s.svp.mode ≠ .configuring)
    (hp : peerOf n.toNat s = some p) (hl : p.state = .lost) :
    exec (.forgetPeer t n) s = .next (replyOk [] (removePeer n.toNat (setClock t s))) := by
  rw [exec_forgetPeer t n hm, forgetAnswer, peerOf_setClock, hp]
  simp only [if_pos hl, okAfter]

theorem peerOf_removePeer_self (n : Nat) (s : State) : peerOf n (removePeer n s) = none :=
  ((removePeer_reacts n s).peerOf_eq n).trans (peerOf_withoutPeer_self n s)

/-- Removing an entry leaves every other entry. -/
theorem peerOf_removePeer_ne {n m : Nat} (h : m ≠ n) (s : State) : peerOf m (removePeer n s) = peerOf m s :=
  ((removePeer_reacts n s).peerOf_eq m).trans (peerOf_withoutPeer_ne h s)

@[simp] theorem removePeer_mode (n : Nat) (s : State) : (removePeer n s).svp.mode = s.svp.mode :=
  (removePeer_reacts n s).mode

@[simp] theorem removePeer_cfg (n : Nat) (s : State) : (removePeer n s).cfg = s.cfg := (removePeer_reacts n s).cfg

/-- Settles O29: the four rows of R7's table, and a frame of the station taken before or after the request. -/
theorem forgetPeerAnswers : Obligations.ForgetPeerAnswers := by
  intro t n s
  refine ⟨exec_forgetPeer_configuring t n, fun hm => ?_⟩
  refine ⟨exec_forgetPeer_noEntry t hm, fun h => peerOf_outside h, fun p hp => ?_⟩
  refine ⟨exec_forgetPeer_notLost t hm hp, fun hl => ?_, fun k t' f hw hs hown hi hl => ⟨?_, ?_⟩⟩
  · refine ⟨_, exec_forgetPeer_lost t hm hp hl, replyOk_reply _ _, ?_, fun m hne => ?_⟩
    · rw [peerOf_replyOk, peerOf_removePeer_self]
    · rw [peerOf_replyOk, peerOf_removePeer_ne hne, peerOf_setClock]
  · obtain ⟨u, q, hu, hmode, hq, hlive, -⟩ := exec_frame_live t' hw hm hi (hs ▸ hown)
    rw [hs] at hq
    exact ⟨u, q, hu, hq, hlive, exec_forgetPeer_notLost t (hmode ▸ hm) hq (by simp [hlive])⟩
  · obtain ⟨v, q, hv, -, hq, hlive, hheard⟩ :=
      exec_frame_live (s := replyOk [] (removePeer n.toNat (setClock t s))) t' hw (by simpa using hm)
        (by simpa using hi) (by simpa [hs] using hown)
    rw [hs] at hq hheard
    have hnone : peerOf n.toNat (replyOk [] (removePeer n.toNat (setClock t s))) = none := by
      rw [peerOf_replyOk, peerOf_removePeer_self]
    exact ⟨_, v, q, exec_forgetPeer_lost t hm hp hl, hv, hq, hlive, hheard hnone⟩

end Sys2Proof.Machine
end

section
/-!
PROOFS. Settles O39.  Only the sealing of a frame changes a sequence counter (R172); what follows a send or a RESTART
empties slots, places frames, writes drive lines and books fuel.  That each of these leaves the four counters is said
once, as `seqOf` of its result.
-/

namespace Sys2Proof.Machine

/-! ## The counters of the convoy line (R172) -/

@[simp] theorem seqOf_setSeq_self (k : FrameKind) (v : Nat) (l : Lif) : seqOf k (setSeq k v l) = v := by
  cases k <;> rfl

theorem seqOf_setSeq_ne {j k : FrameKind} (h : j ≠ k) (v : Nat) (l : Lif) : seqOf j (setSeq k v l) = seqOf j l := by
  revert h
  cases k <;> cases j <;> simp [seqOf, setSeq]

/-- The counters do not depend on the frame being sent. -/
theorem seqOf_setTx (k : FrameKind) (x : Option Tx) (l : Lif) : seqOf k { l with tx := x } = seqOf k l := by
  cases k <;> rfl

@[simp] theorem seqOf_setSlot (k j : FrameKind) (v : Option (List Byte)) (l : Lif) :
    seqOf k (setSlot j v l) = seqOf k l := by
  cases j <;> cases k <;> rfl

@[simp] theorem seqOf_leaveLine (k : FrameKind) (x : Tx) (l : Lif) : seqOf k (leaveLine x l) = seqOf k l := by
  unfold leaveLine
  split <;> simp [seqOf_setTx]

/-- What RESTART leaves of the line keeps the counters (R172, R182). -/
@[simp] theorem seqOf_restartLine (k : FrameKind) (now : Nat) (c : Cfg) (l : Lif) :
    seqOf k (restartLine now c l) = seqOf k l := by
  cases k <;> rfl

/-! ## Placing a frame leaves the counters (R169, R170) -/

@[simp] theorem tryStart_seqOf (k : FrameKind) (s : State) : seqOf k (tryStart s).lif = seqOf k s.lif := by
  unfold tryStart
  split
  · split
    · cases k <;> rfl
    · rfl
  · rfl

@[simp] theorem placeFrame_seqOf (k j : FrameKind) (p : List Byte) (s : State) :
    seqOf k (placeFrame j p s).lif = seqOf k s.lif := by
  unfold placeFrame
  split <;> simp [seqOf_setTx]

@[simp] theorem placeAlert_seqOf (k : FrameKind) (s : State) : seqOf k (placeAlert s).lif = seqOf k s.lif :=
  placeFrame_seqOf k _ _ s

/-! ## Notices leave the counters (R23, R26, R95 to R100) -/

theorem shuNoticeWith_seqOf {k : FrameKind} {rc : State → State} (hrc : ∀ w, seqOf k (rc w).lif = seqOf k w.lif)
    (force : Bool) (s : State) : seqOf k (shuNoticeWith rc force s).lif = seqOf k s.lif := by
  unfold shuNoticeWith
  split
  · split
    · exact hrc s
    · rfl
  · simp [hrc]

theorem settleWith_seqOf {k : FrameKind} {rc : State → State} (hrc : ∀ w, seqOf k (rc w).lif = seqOf k w.lif)
    (parted : Bool) (s : State) : seqOf k (settleWith rc parted s).lif = seqOf k s.lif := by
  unfold settleWith
  dsimp only
  split <;> split <;> simp [shuNoticeWith_seqOf hrc]

@[simp] theorem finishPullOff_seqOf (k : FrameKind) (s : State) :
    seqOf k (finishPullOff s).lif = seqOf k s.lif := by
  unfold finishPullOff
  rw [settleWith_seqOf fun w => by rw [recomputeShare_lif]]
  simp [foldl_lif releaseOne_lif]

@[simp] theorem recompute_seqOf (k : FrameKind) (s : State) : seqOf k (recompute s).lif = seqOf k s.lif := by
  unfold recompute noticePs completePullOff
  split
  · simp
  · split <;> simp

@[simp] theorem shuNotice_seqOf (k : FrameKind) (force : Bool) (s : State) :
    seqOf k (shuNotice force s).lif = seqOf k s.lif := shuNoticeWith_seqOf (recompute_seqOf k) force s

@[simp] theorem settle_seqOf (k : FrameKind) (parted : Bool) (s : State) :
    seqOf k (settle parted s).lif = seqOf k s.lif := settleWith_seqOf (recompute_seqOf k) parted s

/-! ## Fuel and gauges leave the convoy line (R122, R125, R127, R153) -/

@[simp] theorem topUp_lif (s : State) : (topUp s).lif = s.lif := by
  unfold topUp
  repeat' split
  all_goals simp [startTransfer, setMovement]

@[simp] theorem faultIfDead_lif (r : EndReason) (s : State) : (faultIfDead r s).lif = s.lif := by
  unfold faultIfDead
  split <;> rfl

@[simp] theorem settleHold_lif (r : EndReason) (tr : Transfer) (s : State) : (settleHold r tr s).lif = s.lif := by
  unfold settleHold
  split <;> rfl

@[simp] theorem stopTransfer_lif (r : EndReason) (s : State) : (stopTransfer r s).lif = s.lif := by
  simp [stopTransfer, setMovement]

@[simp] theorem endBunker_lif (r : EndReason) (s : State) : (endBunker r s).lif = s.lif := by
  simp [endBunker, setMovement]

@[simp] theorem restartFuel_lif (s : State) : (restartFuel s).lif = s.lif := by
  unfold restartFuel
  dsimp only
  rw [topUp_lif]
  split <;> split <;> simp

@[simp] theorem startChans_lif (s : State) : (startChans s).lif = s.lif := by
  obtain ⟨g, hg⟩ := startChans_withPgu s
  rw [hg]
  rfl

/-! ## The arbitration field (R171, R172) -/

/-- All that ARBITRATION_COMPLETE does to a frame in its arbitration field. -/
theorem exec_arbitrationComplete {s : State} {x : Tx} (t : Nat) (hx : s.lif.tx = some x) (hs : x.sealed = none) :
    exec (.arbitrationComplete t) s = .next { setClock t s with
      lif := { setSeq x.kind ((seqOf x.kind s.lif + 1) % 256) s.lif with
        tx := some { x with
          sealed := some (seqOf x.kind s.lif, crc16 (txHead s.cfg.station x (seqOf x.kind s.lif))) } } } := by
  simp [exec, execArbitrationComplete, hx, sealFrame, hs]

theorem loseArbitration_seqOf (k : FrameKind) (x : Tx) (s : State) :
    seqOf k (loseArbitration x s).lif = seqOf k s.lif := by
  unfold loseArbitration
  split
  · rfl
  · cases k <;> rfl

theorem exec_arbitrationLost {s : State} {x : Tx} (t : Nat) (hx : s.lif.tx = some x) :
    exec (.arbitrationLost t) s = .next (loseArbitration x (setClock t s)) := by
  simp [exec, execArbitrationLost, hx]

/-! ## The end of a transmission (R173 to R175) -/

theorem recordSend_seqOf (k : FrameKind) (s : State) : seqOf k (recordSend s).lif = seqOf k s.lif := by
  unfold recordSend
  rw [shuNotice_seqOf]
  cases k <;> rfl

theorem finishSend_seqOf (k : FrameKind) (x : Tx) (s : State) : seqOf k (finishSend x s).lif = seqOf k s.lif := by
  have hEnded : seqOf k { leaveLine x s.lif with
      awaitIdle := true, runCount := 0, transmittedOk := sat16 ((leaveLine x s.lif).transmittedOk + 1) } =
      seqOf k s.lif := by
    rw [← seqOf_leaveLine k x s.lif]
    cases k <;> rfl
  unfold finishSend
  dsimp only
  split
  · rw [recordSend_seqOf, hEnded]
  · exact hEnded

theorem suspendIfDue_seqOf (k : FrameKind) (s : State) : seqOf k (suspendIfDue s).lif = seqOf k s.lif := by
  unfold suspendIfDue
  split
  · cases k <;> rfl
  · rfl

theorem abandonFrame_seqOf (k : FrameKind) (x : Tx) (s : State) :
    seqOf k (abandonFrame x s).lif = seqOf k s.lif := by
  unfold abandonFrame
  rw [suspendIfDue_seqOf, ← seqOf_leaveLine k x s.lif]
  cases k <;> rfl

theorem exec_sentSuccessfully_seqOf {t : Nat} {s u : State} (h : exec (.sentSuccessfully t) s = .next u)
    (k : FrameKind) : seqOf k u.lif = seqOf k s.lif := by
  simp only [exec, execSentSuccessfully] at h
  split at h
  · split at h
    · cases h
      exact finishSend_seqOf k _ _
    · cases h
      rfl
  · cases h
    rfl

theorem exec_transmitError_seqOf {t : Nat} {s u : State} (h : exec (.transmitError t) s = .next u)
    (k : FrameKind) : seqOf k u.lif = seqOf k s.lif := by
  simp only [exec, execTransmitError] at h
  split at h
  · cases h
    exact abandonFrame_seqOf k _ _
  · cases h
    rfl

/-! ## The resets and RESTART (R182, R193, R199) -/

/-- After a reset every counter is 0. -/
theorem afterReset_seqOf (c : StartCause) (straps : BitVec 2) (s : State) (k : FrameKind) :
    seqOf k (afterReset c straps s).lif = 0 := by
  cases k <;> rfl

theorem restartAll_seqOf (k : FrameKind) (s : State) : seqOf k (restartAll s).lif = seqOf k s.lif := by
  simp only [restartAll, startChans_lif, restartFuel_lif, fuelTotals_lif, settle_seqOf, stcNotice_lif, shuNotice_seqOf]
  rw [restartBase_eq, seqOf_restartLine]

theorem restartAnswer_seqOf (k : FrameKind) (s : State) :
    seqOf k (inService (okAfter restartAll) s).lif = seqOf k s.lif := by
  unfold inService
  split
  · rw [replyStatus_lif]
  · rw [okAfter, replyOk_lif, restartAll_seqOf]

theorem exec_restart_seqOf {t : Nat} {s u : State} (h : exec (.restart t) s = .next u) (k : FrameKind) :
    seqOf k u.lif = seqOf k s.lif := by
  simp only [exec, execRestart, Host.Outcome.next.injEq] at h
  rw [← h, restartAnswer_seqOf, setClock_lif]

/-- Settles O39: sealing alone changes a counter, and the counter of its own kind; the end of a transmission and RESTART
leave all four, a reset leaves them 0. -/
theorem sequenceNumbers : Obligations.SequenceNumbers := by
  intro t s
  refine ⟨fun x hx hs => ⟨?complete, ?lost⟩, ?ended, ?reset, fun _ h => exec_restart_seqOf h⟩
  case complete =>
    refine ⟨_, exec_arbitrationComplete t hx hs, rfl, ?_, fun k hk => ?_, rfl⟩
    · rw [seqOf_setTx, seqOf_setSeq_self]
    · rw [seqOf_setTx, seqOf_setSeq_ne hk]
  case lost => exact ⟨_, exec_arbitrationLost t hx, fun k => loseArbitration_seqOf k x _⟩
  case ended =>
    rintro u (h | h)
    · exact exec_sentSuccessfully_seqOf h
    · exact exec_transmitError_seqOf h
  case reset =>
    rintro straps u (h | h)
    · cases h
      exact afterReset_seqOf .powerOn straps s
    · cases h
      exact afterReset_seqOf .pin straps s

end Sys2Proof.Machine
end

section
/-!
PROOFS. Settles the invariants and frames that the inversion of `exec` gives: O4, O8, O10, O11, O12, O13.  Each is said of
the direct change of a command (`Base`), of a reaction (`Reacts`) and of a reply; a step is then a tick, a reset or one of
these.
-/

namespace Sys2Proof.Machine

/-! ## What a step can do -/

/-- A step is a tick, which changes the queue, the clock and the counter of draws alone, or the front command. -/
theorem step_cases {s t : State} (h : step s = .next t) :
    (∃ q k d, t = { s with pending := q, clock := k, draws := d }) ∨
      ∃ c rest, s.pending = c :: rest ∧ exec c { s with pending := rest } = .next t := by
  unfold step at h
  split at h
  · cases h
    exact .inl ⟨_, _, _, rfl⟩
  next c rest hp => exact .inr ⟨c, rest, hp, h⟩

/-- A command is a reset, or its direct change at its moment, a reaction, and perhaps a reply. -/
theorem exec_cases {c : Instr} {s u : State} (h : exec c s = .next u) :
    (∃ cause straps, u = afterReset cause straps s ∧ isReset c = true) ∨
      ∃ t b v, timeOf c = some t ∧ Base c (setClock t s) b ∧ Reacts b v ∧
        (u = v ∨ (isRequest c = true ∧ ∃ r, u = withReply r v)) := by
  obtain hr | ⟨t, ht, b, hb, hv | ⟨hq, v, r, hv, hu⟩⟩ := exec_effect h
  · exact .inl hr
  · exact .inr ⟨t, b, u, ht, hb, hv, .inl rfl⟩
  · exact .inr ⟨t, b, v, ht, hb, hv, .inr ⟨hq, r, hu⟩⟩

/-- What the queue, the clock, the counter of draws and the reply do not touch, what a reset leaves, and what every direct
change and every reaction keeps, every step keeps.  `P` may be a part of the invariant `I` that holds before the step. -/
theorem step_keeps {I P : State → Prop} (part : ∀ {s}, I s → P s)
    (queue : ∀ s q k d, I s → I { s with pending := q, clock := k, draws := d })
    (reset : ∀ c straps s, P (afterReset c straps s)) (base : ∀ {c s b}, Base c s b → I s → P b)
    (reacts : ∀ {s t}, Reacts s t → P s → P t) (reply : ∀ r s, P s → P (withReply r s))
    {s t : State} (h : I s) (hs : step s = .next t) : P t := by
  obtain ⟨q, k, d, rfl⟩ | ⟨c, rest, -, hc⟩ := step_cases hs
  · exact part (queue s q k d h)
  · obtain ⟨cause, straps, rfl, -⟩ | ⟨u, b, v, -, hb, hv, hr⟩ := exec_cases hc
    · exact reset _ _ _
    · have hP : P v := reacts hv (base hb (queue s rest (max s.clock u) s.draws h))
      obtain rfl | ⟨-, r, rfl⟩ := hr
      · exact hP
      · exact reply r v hP

/-! ## The image (R189) -/

theorem base_image {c : Instr} {s b : State} (h : Base c s b) (hi : imageWf s.svp.image = true) :
    imageWf b.svp.image = true := by
  cases h
  case stored k f _ _ _ _ _ => rw [storeFrame_eq]; exact hi
  case image o d hl _ => exact imageWrite_wf hi _ hl
  case restarted => rw [withPgu, restartBase_eq]; exact hi
  all_goals exact hi

/-- Settles O4: CONFIG_WRITE keeps the canonical form, a reset empties the image, and nothing else writes it. -/
theorem imageCanonicalKept : Obligations.ImageCanonicalKept := fun _ _ h hs =>
  step_keeps (P := fun s => imageWf s.svp.image = true) id (fun _ _ _ _ h => h) (fun _ _ _ => reset_image_wf) base_image
    (fun hr h => by rw [hr.image]; exact h) (fun _ _ h => h) h hs

/-! ## The journal (R131) -/

theorem JournalOk.congr {s t : State} (h : JournalOk s) (hj : t.fau.journal = s.fau.journal)
    (hn : t.fau.nextSerial = s.fau.nextSerial) : JournalOk t := by
  unfold JournalOk at *
  rw [hj, hn]
  exact h

theorem base_journal {c : Instr} {s b : State} (h : Base c s b) (hj : JournalOk s) : JournalOk b := by
  cases h
  case stored => rw [storeFrame_eq]; exact hj.congr rfl rfl
  case restarted => rw [withPgu, restartBase_eq]; exact hj.congr rfl rfl
  all_goals exact hj.congr rfl rfl

theorem reset_journalOk : JournalOk State.reset := by
  refine ⟨?_, ?_, ?_, rfl⟩ <;> decide

/-- Settles O8: reactions keep the journal in order (`writeEntry_journal`), and no direct change touches it. -/
theorem journalKept : Obligations.JournalKept := fun _ _ h hs =>
  step_keeps id (fun _ _ _ _ h => h.congr rfl rfl) (fun _ _ _ => reset_journalOk.congr rfl rfl) base_journal
    (fun hr h => hr.journal h) (fun _ _ h => h.congr rfl rfl) h hs

/-! ## The release interlock (R100) -/

theorem isReleasing_congr {s t : State} (h : t.cpc.winches = s.cpc.winches) (n : Nat) :
    isReleasing n t = isReleasing n s := by
  unfold isReleasing
  rw [h]

theorem shaftsDown_congr {s t : State} (hc : t.cfg = s.cfg) (h : t.sfc = s.sfc) : shaftsDown t = shaftsDown s := by
  unfold shaftsDown
  rw [hc, h]

/-- A state whose winches are none, or each as START leaves it, has none RELEASING. -/
theorem isReleasing_slack {s : State} (h : ∀ w ∈ s.cpc.winches, w.state = .slack) (n : Nat) :
    isReleasing n s = false := by
  unfold isReleasing
  split
  next w hw => simp [h w (mem_of_getN hw)]
  · rfl

/-- No direct change of a command makes a winch RELEASING. -/
theorem base_releasing {c : Instr} {s b : State} (h : Base c s b) (n : Nat) (hb : isReleasing n b = true) :
    isReleasing n s = true := by
  have same (hw : b.cpc.winches = s.cpc.winches) : isReleasing n s = true := (isReleasing_congr hw n).symm.trans hb
  cases h
  case stored => exact same (by rw [storeFrame_eq]; rfl)
  case restarted => exact same (restartBase_winches s)
  case started =>
    refine absurd (hb.symm.trans (isReleasing_slack (fun w hw => ?_) n)) (by decide)
    obtain ⟨c, -, rfl⟩ := List.mem_map.1 hw
    rfl
  all_goals exact same rfl

/-- Settles O10: only a reaction makes a winch RELEASING, and then every shaft is down (`Reacts.release`). -/
theorem releaseInterlock : Obligations.ReleaseInterlock := by
  intro s t n hs hn ht
  have same (q : List Instr) (k d : Nat) :
      isReleasing n { s with pending := q, clock := k, draws := d } = false := (isReleasing_congr rfl n).trans hn
  obtain ⟨q, k, d, rfl⟩ | ⟨c, rest, -, hc⟩ := step_cases hs
  · exact absurd (ht.symm.trans (same q k d)) (by decide)
  · obtain ⟨cause, straps, rfl, -⟩ | ⟨u, b, v, -, hb, hv, hr⟩ := exec_cases hc
    · rw [isReleasing_slack (by simp [afterReset, State.reset])] at ht
      exact absurd ht (by decide)
    · have hvt : isReleasing n t = isReleasing n v ∧ shaftsDown t = shaftsDown v := by
        obtain rfl | ⟨-, r, rfl⟩ := hr
        · exact ⟨rfl, rfl⟩
        · exact ⟨isReleasing_congr rfl n, shaftsDown_congr rfl rfl⟩
      rw [hvt.2]
      obtain hrel | hdown := hv.release n (hvt.1 ▸ ht)
      · have hs' := base_releasing hb n hrel
        exact absurd (hs'.symm.trans (same rest (max s.clock u) s.draws)) (by decide)
      · exact hdown

/-! ## Station modes (R185) -/

theorem ownFrame_of_silent {c : Instr} (h : isFrame c = true) {own : Nat} {a : Mode} (ho : ownFrame c own = true)
    (ha : a = .joining ∨ a = .running) : modeMay c own a .silent := by
  refine .inr (.inr ?_)
  cases c <;> first | exact ⟨ho, ha, rfl⟩ | cases h

/-- A direct change of a command moves the mode as the table says. -/
theorem base_mode {c : Instr} {s b : State} (h : Base c s b) : modeMay c s.cfg.station s.svp.mode b.svp.mode := by
  cases h
  case started hm _ => exact .inr (.inr ⟨hm, rfl⟩)
  case restarted hm => exact .inr (.inr ⟨hm, by rw [restartBase_eq]; rfl⟩)
  case running hm => exact .inr (.inr ⟨hm, rfl⟩)
  case silent hf hm ho => exact ownFrame_of_silent hf ho hm
  case stored => rw [storeFrame_eq]; exact .inl rfl
  all_goals exact .inl rfl

/-- Settles O11: a reaction and a reply leave the mode, so a command moves it as its direct change does. -/
theorem modeChangesByTable : Obligations.ModeChangesByTable := by
  intro c s t h
  obtain ⟨cause, straps, rfl, hr⟩ | ⟨u, b, v, -, hb, hv, hr⟩ := exec_cases h
  · exact .inr (.inl ⟨hr, rfl⟩)
  · have hm : t.svp.mode = b.svp.mode := by
      obtain rfl | ⟨-, r, rfl⟩ := hr
      · exact hv.mode
      · exact hv.mode
    rw [hm]
    exact base_mode (s := setClock u s) hb

/-! ## Attention flags (R196) -/

/-- A direct change other than CLEAR_ATTENTION's clears no flag. -/
theorem base_flags {c : Instr} {s b : State} (h : Base c s b) (hc : ∀ u m, c ≠ .clearAttention u m) {i : Nat}
    (hi : s.svp.flags.getLsbD i = true) : b.svp.flags.getLsbD i = true := by
  cases h
  case flags t m => exact absurd rfl (hc t m)
  case stored => rw [storeFrame_eq]; exact hi
  case restarted => rw [withPgu, restartBase_eq]; exact hi
  case silent =>
    simp only [setMode, stopTransmitter, raiseFlag, frameSeen, BitVec.getLsbD_or, hi, Bool.true_or]
  all_goals exact hi

/-- Settles O12: reactions only raise flags (`Reacts.flags`), and of the direct changes only CLEAR_ATTENTION's clears any. -/
theorem attentionFlagsSticky : Obligations.AttentionFlagsSticky := by
  intro c s t i h hr hc hi
  obtain ⟨_, _, -, hreset⟩ | ⟨u, b, v, -, hb, hv, hq⟩ := exec_cases h
  · exact absurd (hr.symm.trans hreset) (by decide)
  · have hflags := hv.flags i (base_flags hb hc hi)
    obtain rfl | ⟨-, r, rfl⟩ := hq <;> exact hflags

/-! ## Queue, clock, image, configuration (R188, R189) -/

/-- A direct change leaves the queue, the clock and the counter of draws. -/
theorem base_queue {c : Instr} {s b : State} (h : Base c s b) :
    b.pending = s.pending ∧ b.draws = s.draws ∧ b.clock = s.clock := by
  cases h
  case stored => rw [storeFrame_eq]; exact ⟨rfl, rfl, rfl⟩
  case restarted => rw [restartBase_eq]; exact ⟨rfl, rfl, rfl⟩
  all_goals exact ⟨rfl, rfl, rfl⟩

/-- CONFIG_WRITE alone changes the image directly. -/
theorem base_keeps_image {c : Instr} {s b : State} (h : Base c s b) (hc : ∀ u p d, c ≠ .configWrite u p d) :
    b.svp.image = s.svp.image := by
  cases h
  case image t p d _ _ _ => exact absurd rfl (hc t p d)
  case stored => rw [storeFrame_eq]; rfl
  case restarted => rw [restartBase_eq]; rfl
  all_goals rfl

/-- START alone changes the configuration directly. -/
theorem base_keeps_cfg {c : Instr} {s b : State} (h : Base c s b) (hc : ∀ u, c ≠ .start u) : b.cfg = s.cfg := by
  cases h
  case started t _ _ _ => exact absurd rfl (hc t)
  case stored => rw [storeFrame_eq]; rfl
  case restarted => rw [restartBase_eq]; rfl
  all_goals rfl

/-- Settles O13: the frames of the direct changes, which reactions and replies keep. -/
theorem commandFrame : Obligations.CommandFrame := by
  intro c s t h
  obtain ⟨cause, straps, rfl, hreset⟩ | ⟨u, b, v, ht, hb, hv, hq⟩ := exec_cases h
  · refine ⟨rfl, rfl, ?_, fun hr => ?_, fun hr => ?_⟩
    · cases c <;> first | rfl | cases hreset
    · exact absurd (hr.symm.trans hreset) (by decide)
    · exact absurd (hr.symm.trans hreset) (by decide)
  · obtain ⟨hpending, hdraws, hclock⟩ := base_queue hb
    have hvt : t.pending = v.pending ∧ t.draws = v.draws ∧ t.clock = v.clock ∧ t.svp.image = v.svp.image ∧
        t.cfg = v.cfg := by
      obtain rfl | ⟨-, r, rfl⟩ := hq <;> exact ⟨rfl, rfl, rfl, rfl, rfl⟩
    obtain ⟨hp, hd, hc, hi, hg⟩ := hvt
    refine ⟨?_, ?_, ?_, fun _ hne => ?_, fun _ hne => ?_⟩
    · rw [hp, hv.pending, hpending, setClock_pending]
    · rw [hd, hv.draws, hdraws, setClock_draws]
    · rw [hc, hv.clock, hclock, ht, setClock_clock]
    · rw [hi, hv.image, base_keeps_image hb hne, setClock_svp]
    · rw [hg, hv.cfg, base_keeps_cfg hb hne, setClock_cfg]

end Sys2Proof.Machine
end

section
/-!
PROOFS. Settles O5 and, with it, O6 and O9, whose invariants have O5's as a part.  In CONFIGURING every record is empty and
every timer idle, so an event finds nothing to act on and a request of service is NOT_NOW.
-/

namespace Sys2Proof.Machine

/-! ## CONFIGURING (R22, R44, R64, R82, R108, R136, R153, R164, R182, R192, R199) -/

/-- From `s` to `u` only the clock and, in the service port, the reply, the flags and the image have changed. -/
def PortOnly (s u : State) : Prop :=
  u = { s with
    clock := u.clock
    svp := { s.svp with reply := u.svp.reply, flags := u.svp.flags, image := u.svp.image } }

theorem PortOnly.asReset {s u : State} (h : PortOnly s u) (hs : AsReset s) : AsReset u := by
  rw [h]
  exact hs

@[simp] theorem getN_nil {α : Type} (n : Nat) : getN ([] : List α) n = none := by cases n <;> rfl

theorem inService_configuring {s : State} (h : s.svp.mode = .configuring) (f : State → State) :
    inService f s = replyStatus .notNow s := by simp [inService, configuring, h]

theorem inService_serving {s : State} (h : s.svp.mode ≠ .configuring) (f : State → State) :
    inService f s = f s := by simp [inService, configuring, h]

theorem assembling_configuring {s : State} (h : s.svp.mode = .configuring) : assembling s = false := by
  simp [assembling, receiverOn, h]

/-- A request of service, or a report. -/
theorem request_configuring {c : Instr} {s u : State} (hm : s.svp.mode = .configuring) (hc : isRequest c = true)
    (hs : ∀ t, c ≠ .start t) (hu : exec c s = .next u) : PortOnly s u := by
  have hNotNow (f : State → State) (t : Nat) (h : .next (inService f (setClock t s)) =
      (.next u : Host.Outcome State Fault Refusal)) : PortOnly s u := by
    cases h
    rw [inService_configuring (s := setClock t s) hm]
    rfl
  cases c
  case start t => exact absurd rfl (hs t)
  case badRequest => cases hu; simp only [badWrite]; split <;> [rfl; (split <;> rfl)]
  case configWrite => cases hu; simp only [configAnswer]; split <;> [rfl; (split <;> [rfl; (split <;> rfl)])]
  case readLine => cases hu; simp only [lineAnswer]; split <;> rfl
  case clearAttention | readStation | readPeers | readShafts | readRudders | readWinches | readTanks | readGauges |
    readJournal => cases hu; rfl
  case restart => exact hNotNow _ _ hu
  case panel => exact hNotNow _ _ hu
  case depart => exact hNotNow _ _ hu
  case forgetPeer => exact hNotNow _ _ hu
  case transferStart => exact hNotNow _ _ hu
  case transferAbort => exact hNotNow _ _ hu
  case bunkerStart => exact hNotNow _ _ hu
  case bunkerStop => exact hNotNow _ _ hu
  case rebase => exact hNotNow _ _ hu
  case clearParted => exact hNotNow _ _ hu
  case rudderRetry => exact hNotNow _ _ hu
  all_goals cases hc

/-- No engine holds a channel in the gauge unit as reset leaves it. -/
theorem engineOf_idle {s : State} (h : s.pgu = {}) (n : Nat) : engineOf n s = none := by
  rw [engineOf, h]
  rfl

theorem chan_idle {s : State} (h : s.pgu = {}) {n : Nat} {r : Chan} (hr : getN s.pgu.chans n = some r) : r = {} := by
  rw [h] at hr
  exact List.eq_of_mem_replicate (mem_of_getN hr)

/-- An event finds no record, no running timer and no receiver. -/
theorem event_configuring {c : Instr} {s u : State} (h : AsReset s) (hm : s.svp.mode = .configuring)
    (hc : isRequest c = false) (hr : isReset c = false) (hu : exec c s = .next u) :
    ∃ t, u = setClock t s := by
  obtain ⟨-, -, hpanel, -, -, hlif, hcvu, hshu, hsfc, hstc, hcpc, hfau, hpgu, hdlu⟩ := h hm
  have hidle (t n : Nat) : engineOf n (setClock t s) = none := engineOf_idle hpgu n
  have hrx (t k : Nat) (f : RxFrame) : receiveFrame k f (setClock t s) = setClock t s :=
    receiveFrame_waiting (assembling_configuring hm)
  cases c
  case writeBrokenOff t => exact ⟨t, by cases hu; rfl⟩
  case helmFrame t f => exact ⟨t, by cases hu; exact hrx t _ f⟩
  case statusFrame t f => exact ⟨t, by cases hu; exact hrx t _ f⟩
  case alertFrame t f => exact ⟨t, by cases hu; exact hrx t _ f⟩
  case fuelFrame t f => exact ⟨t, by cases hu; exact hrx t _ f⟩
  case malformed t k f => exact ⟨t, by cases hu; exact hrx t _ f⟩
  case duplicate t k f => exact ⟨t, by cases hu; exact hrx t _ f⟩
  case crcError t x =>
    cases hu
    exact ⟨t, (discardFrame_waiting (s := setClock t s) (assembling_configuring hm)).trans
      (if_neg (by simp [hm, receiverOn]))⟩
  case lineIdle i => exact ⟨i.since, by cases hu; simp [lineBecomesIdle, hm, receiverOn]⟩
  case arbitrationLost t => exact ⟨t, by simp [exec, execArbitrationLost, hlif] at hu; exact hu.symm⟩
  case arbitrationComplete t => exact ⟨t, by simp [exec, execArbitrationComplete, hlif] at hu; exact hu.symm⟩
  case sentSuccessfully t => exact ⟨t, by simp [exec, execSentSuccessfully, hlif] at hu; exact hu.symm⟩
  case transmitError t => exact ⟨t, by simp [exec, execTransmitError, hlif] at hu; exact hu.symm⟩
  case suspensionExpiry t => exact ⟨t, by simp [exec, execSuspensionExpiry, hlif, due] at hu; exact hu.symm⟩
  case statusTimerExpiry t => exact ⟨t, by simp [exec, execStatusTimerExpiry, hlif, due] at hu; exact hu.symm⟩
  case helmPeriodExpiry t => exact ⟨t, by simp [exec, execHelmPeriodExpiry, hcvu, due] at hu; exact hu.symm⟩
  case staleExpiry t n => exact ⟨t, by simp [exec, execStaleExpiry, peerOf, hcvu] at hu; exact hu.symm⟩
  case lostExpiry t n => exact ⟨t, by simp [exec, execLostExpiry, peerOf, hcvu] at hu; exact hu.symm⟩
  case helmAgeExpiry t n => exact ⟨t, by simp [exec, execHelmAgeExpiry, helmPartOf, peerOf, hcvu] at hu; exact hu.symm⟩
  case graceExpiry t => exact ⟨t, by simp [exec, execGraceExpiry, hcvu, due] at hu; exact hu.symm⟩
  case muteExpiry t => exact ⟨t, by simp [exec, execMuteExpiry, hshu] at hu; exact hu.symm⟩
  case controlStep t n => exact ⟨t, by simp [exec, execControlStep, hsfc] at hu; exact hu.symm⟩
  case dwellExpiry t n => exact ⟨t, by simp [exec, execDwellExpiry, hsfc] at hu; exact hu.symm⟩
  case deviationExpiry t n => exact ⟨t, by simp [exec, execDeviationExpiry, hsfc] at hu; exact hu.symm⟩
  case stallExpiry t n => exact ⟨t, by simp [exec, execStallExpiry, hstc] at hu; exact hu.symm⟩
  case haulTimeoutExpiry t n => exact ⟨t, by simp [exec, execHaulTimeoutExpiry, winchExpiry, hcpc] at hu; exact hu.symm⟩
  case haulPulseExpiry t n => exact ⟨t, by simp [exec, execHaulPulseExpiry, winchExpiry, hcpc] at hu; exact hu.symm⟩
  case releaseWaitExpiry t n => exact ⟨t, by simp [exec, execReleaseWaitExpiry, winchExpiry, hcpc] at hu; exact hu.symm⟩
  case releaseHoldExpiry t n => exact ⟨t, by simp [exec, execReleaseHoldExpiry, winchExpiry, hcpc] at hu; exact hu.symm⟩
  case pullOffTimerExpiry t => exact ⟨t, by simp [exec, execPullOffTimerExpiry, hcpc, due] at hu; exact hu.symm⟩
  case fuelPeriodExpiry t => exact ⟨t, by simp [exec, execFuelPeriodExpiry, hfau, due] at hu; exact hu.symm⟩
  case intervalExpiry t n =>
    refine ⟨t, ?_⟩
    simp only [exec, execIntervalExpiry] at hu
    split at hu
    next r k hr _ =>
      rw [chan_idle hpgu hr] at hu
      exact (Host.Outcome.next.inj hu).symm
    · exact (Host.Outcome.next.inj hu).symm
  case periodEdge t n e => exact ⟨t, by simp [exec, execPeriodEdge, underMeasure, hidle] at hu; exact hu.symm⟩
  case dutyEdge t n e => exact ⟨t, by simp [exec, execDutyEdge, underMeasure, hidle] at hu; exact hu.symm⟩
  case periodWindowExpiry t n => exact ⟨t, by simp [exec, execPeriodWindowExpiry, underMeasure, hidle] at hu; exact hu.symm⟩
  case dutyWindowExpiry t n => exact ⟨t, by simp [exec, execDutyWindowExpiry, underMeasure, hidle] at hu; exact hu.symm⟩
  case periodStart t => exact ⟨t, by simp [exec, execPeriodStart, hdlu, due] at hu; exact hu.symm⟩
  case joinTimerExpiry t => exact ⟨t, by simp [exec, execJoinTimerExpiry, hm] at hu; exact hu.symm⟩
  case panelTimeout t => exact ⟨t, by simp [exec, execPanelTimeout, hpanel] at hu; exact hu.symm⟩
  case powerOn => cases hr
  case pinReset => cases hr
  all_goals cases hc

theorem afterReset_asReset (c : StartCause) (straps : BitVec 2) (s : State) : AsReset (afterReset c straps s) :=
  fun _ => ⟨rfl, rfl, rfl, rfl, rfl, rfl, rfl, rfl, rfl, rfl, rfl, rfl, rfl, rfl⟩

theorem startUp_mode (c : Cfg) (s : State) : (startUp c s).svp.mode = .joining := by
  obtain ⟨g, hg⟩ := startUp_reacts c s
  exact hg.mode

/-- A START in CONFIGURING is refused, or the station is JOINING. -/
theorem start_asReset {t : Nat} {s u : State} (hs : AsReset s) (hu : exec (.start t) s = .next u) : AsReset u := by
  cases hu
  split
  · simp only [startAnswer]
    split
    · exact hs
    · split
      · exact hs
      · have hm : (okAfter (startUp (parseImage (wholeImage (setClock t s).svp.image))) (setClock t s)).svp.mode =
            .joining := by rw [okAfter, replyOk_mode, startUp_mode]
        exact fun hconf => absurd (hm.symm.trans hconf) (by decide)
  · exact hs

theorem exec_asReset {c : Instr} {s u : State} (hs : AsReset s) (hu : exec c s = .next u) : AsReset u := by
  by_cases hstart : ∃ t, c = .start t
  · obtain ⟨t, rfl⟩ := hstart
    exact start_asReset hs hu
  obtain ⟨cause, straps, rfl, -⟩ | ⟨t, b, v, ht, -, -, -⟩ := exec_cases hu
  · exact afterReset_asReset _ _ _
  have hr : isReset c = false := by cases c <;> first | rfl | cases ht
  intro hm
  have hconf : s.svp.mode = .configuring := by
    obtain heq | ⟨hreset, -⟩ | htable := modeChangesByTable c s u hu
    · exact heq.trans hm
    · exact absurd (hr.symm.trans hreset) (by decide)
    · rw [hm] at htable
      cases c <;> first | exact absurd htable.2 (by decide) | exact absurd htable.2.2 (by decide)
  cases hq : isRequest c with
  | true => exact (request_configuring hconf hq (fun t h => hstart ⟨t, h⟩) hu).asReset hs hm
  | false =>
    obtain ⟨t, rfl⟩ := event_configuring hs hconf hq hr hu
    exact hs hm

/-- Settles O5: in CONFIGURING requests reach the service port alone and events the clock alone; the mode is entered by a reset
alone. -/
theorem configuringHoldsResetState : Obligations.ConfiguringHoldsResetState := by
  intro s t hs h
  obtain ⟨q, k, d, rfl⟩ | ⟨c, rest, -, hc⟩ := step_cases h
  · exact hs
  · exact exec_asReset (s := { s with pending := rest }) hs hc

/-! ## The peer table (R1) -/

/-- A direct change keeps the table of another station's numbers in order. -/
theorem base_peers {c : Instr} {s b : State} (h : Base c s b) (hs : AsReset s) (hp : PeersOk s.cfg.station s.cvu.peers) :
    PeersOk b.cfg.station b.cvu.peers := by
  cases h
  case stored k f h1 h6 _ ho _ =>
    have := storeFrame_peersOk (k := k) (s := countReceived (frameSeen s)) hp h1 h6 ho
    rwa [show (storeFrame k f (countReceived (frameSeen s))).cfg = s.cfg by rw [storeFrame_eq]; rfl]
  case aged n f hf _ => exact peersOk_mod hp hf n
  case removed n _ => exact peersOk_filter hp _
  case started g hm _ =>
    obtain ⟨-, -, -, -, -, -, hcvu, -⟩ := hs hm
    simp [withPgu, startRecords, startBase, keepSums, hcvu, PeersOk]
  case restarted => simp [withPgu, restartBase_peers, PeersOk]
  all_goals exact hp

/-- Settles O6: the table changes directly alone, by an insertion in its place, a change or a removal of an entry. -/
theorem peerTableKept : Obligations.PeerTableKept := by
  intro s t h ht
  refine ⟨configuringHoldsResetState s t h.1 ht, ?_⟩
  refine step_keeps (I := PeerTableOk) (P := fun s => PeersOk s.cfg.station s.cvu.peers) And.right (fun _ _ _ _ h => h)
    (fun _ _ _ => ⟨List.Pairwise.nil, by simp [afterReset, State.reset]⟩) (fun hb h => base_peers hb h.1 h.2)
    (fun hr h => ?_) (fun _ _ h => h) h ht
  rw [hr.cfg, hr.peers]
  exact h

/-! ## Complementary pairs (R156 to R160) -/

theorem allChecks_ok {bs : List Byte} (h : firstFailure bs = none) {k : Check} (hk : k ∈ allChecks bs) : k.ok = true := by
  simpa using List.find?_eq_none.1 h k hk

/-- Lines that pass R156's check have no assignment but UNUSED twice, and none of those seen before. -/
theorem noneTwice_ok : ∀ {l : List LineCfg} {n : Nat} {seen : List Assignment}, (∀ k ∈ noneTwice n seen l, k.ok = true) →
    ∀ {i j : Nat} {x y : LineCfg}, l[i]? = some x → l[j]? = some y → x.assignment = y.assignment →
      x.assignment ≠ .unused → i = j ∧ x.assignment ∉ seen
  | [], _, _, _, _, _, _, _, hi, _, _, _ => by simp at hi
  | z :: zs, n, seen, h, i, j, x, y, hi, hj, hxy, hu => by
    simp only [noneTwice, List.mem_cons, forall_eq_or_imp] at h
    obtain ⟨hz, hzs⟩ := h
    have hhead : z.assignment ≠ .unused → z.assignment ∉ seen := fun hne => by simpa [hne] using hz
    have htail {k : Nat} {w : LineCfg} (hw : zs[k]? = some w) (hne : w.assignment ≠ .unused) :
        w.assignment ≠ z.assignment ∧ w.assignment ∉ seen := by
      simpa using (noneTwice_ok hzs hw hw rfl hne).2
    cases i with
    | zero =>
      cases hi
      cases j with
      | zero => exact ⟨rfl, hhead hu⟩
      | succ j => exact absurd hxy.symm (htail hj (hxy ▸ hu)).1
    | succ i =>
      cases j with
      | zero =>
        cases hj
        exact absurd hxy (htail hi hu).1
      | succ j =>
        have hij := (noneTwice_ok hzs hi hj hxy hu).1
        exact ⟨congrArg (· + 1) hij, (htail hi hu).2⟩

/-- A configuration that START takes gives each assignment to one line at most (R156). -/
theorem parseImage_assignedOnce {bs : List Byte} (h : firstFailure bs = none) : AssignedOnce (parseImage bs) := by
  intro n m x y hn hm hxy hu
  have hok : ∀ k ∈ noneTwice 1 [] (parseImage bs).lines, k.ok = true := fun k hk =>
    allChecks_ok h (by simp [allChecks, driveChecks, hk])
  cases n with
  | zero => simp at hn
  | succ n =>
    cases m with
    | zero => simp at hm
    | succ m => exact congrArg (· + 1) (noneTwice_ok hok hn hm hxy hu).1

theorem assignedOnce_unused {cfg : Cfg} (h : ∀ x ∈ cfg.lines, x.assignment = .unused) : AssignedOnce cfg :=
  fun _ _ x _ hn _ _ hu => absurd (h x (mem_of_getN hn)) hu

/-- Lines as reset leaves them are in order, however they are paired. -/
theorem pairLines_reset (cfg : Cfg) : PairLines cfg (Dlu.lines {}) := by
  intro n p a b _ ha hb
  obtain rfl : a = {} := List.eq_of_mem_replicate (mem_of_getN ha)
  obtain rfl : b = {} := List.eq_of_mem_replicate (mem_of_getN hb)
  simp [PairOk, lineDriven, appliedAbove0, pendingAbove0]

/-- A direct change keeps the pairs in order. -/
theorem base_pairs {c : Instr} {s b : State} (h : Base c s b) (hs : PairsOk s) :
    AssignedOnce b.cfg ∧ PairLines b.cfg b.dlu.lines := by
  obtain ⟨hreset, honce, hpairs⟩ := hs
  have keep (hc : b.cfg = s.cfg) (hd : b.dlu = s.dlu) : AssignedOnce b.cfg ∧ PairLines b.cfg b.dlu.lines := by
    rw [hc, hd]
    exact ⟨honce, hpairs⟩
  cases h
  case stored => exact keep (by rw [storeFrame_eq]; rfl) (by rw [storeFrame_eq]; rfl)
  case restarted => exact keep (by rw [withPgu, restartBase_eq]) (by rw [withPgu, restartBase_eq])
  case started g hm hf =>
    obtain ⟨-, -, -, -, -, -, -, -, -, -, -, -, -, hdlu⟩ := hreset hm
    refine ⟨parseImage_assignedOnce hf, ?_⟩
    have hlines : s.dlu.lines = Dlu.lines {} := by rw [hdlu]
    show PairLines _ s.dlu.lines
    rw [hlines]
    exact pairLines_reset _
  case period =>
    have hlines := periodStart_pairs honce hpairs s.now
    dsimp only
    exact ⟨honce, hlines⟩
  all_goals exact keep rfl rfl

/-- Settles O9: every write (`Reacts.pairs`) and every period start keep the pairs in order. -/
theorem pairsNeverDrivenTogether : Obligations.PairsNeverDrivenTogether := by
  intro s t h ht
  refine ⟨configuringHoldsResetState s t h.1 ht, ?_⟩
  refine step_keeps (I := PairsOk) (P := fun s => AssignedOnce s.cfg ∧ PairLines s.cfg s.dlu.lines) And.right
    (fun _ _ _ _ h => h) (fun _ _ _ => ⟨?_, pairLines_reset _⟩) base_pairs (fun hr h => ?_) (fun _ _ h => h) h ht
  · exact assignedOnce_unused fun x hx => by rw [List.eq_of_mem_replicate hx]
  · rw [hr.cfg]
    exact ⟨h.1, hr.pairs h.1 h.2⟩

end Sys2Proof.Machine
end

section
/-!
PROOFS. Settles O7.  The gauge queue's invariant speaks of the gauge records alone, so it is stated of them (`PguOk`); each
of the operations of chapter 7 changes one channel's record and that channel's place, which is said once
(`PguOk.change`).
-/

namespace Sys2Proof.Machine

/-! ## One item of a list -/

/-- A list about its item number `n`, and what a change of that item leaves. -/
theorem getN_split {α : Type} {l : List α} {n : Nat} {x : α} (h : getN l n = some x) :
    ∃ a b, l = a ++ x :: b ∧ ∀ f, modN l n f = a ++ f x :: b := by
  cases n with
  | zero => cases h
  | succ i =>
    simp only [getN_succ] at h
    simp only [modN]
    induction l generalizing i with
    | nil => simp at h
    | cons y ys ih =>
      cases i with
      | zero => cases h; exact ⟨[], ys, rfl, fun _ => rfl⟩
      | succ i =>
        obtain ⟨a, b, rfl, hf⟩ := ih i h
        exact ⟨y :: a, b, rfl, fun f => by simp [changeAt, hf]⟩

/-! ## The gauge records (R142) -/

/-- The channels that engines hold. -/
def heldIn (engines : List (Option Meas)) : List Nat := engines.filterMap fun e => e.map (·.chan)

/-- The request state of channel `n` in `g`. -/
def reqIn (g : Pgu) (n : Nat) : Option ReqState := (getN g.chans n).map (·.req)

/-- Each channel at most once in the queue or under measurement, never both, as its request state says. -/
def PguOk (g : Pgu) : Prop :=
  g.chans.length = 24 ∧ g.engines.length = 6 ∧ g.queue.Nodup ∧ (heldIn g.engines).Nodup ∧
    ∀ n, (n ∈ g.queue ↔ reqIn g n = some .queued) ∧ (n ∈ heldIn g.engines ↔ reqIn g n = some .measuring)

theorem gaugesOk_iff (s : State) : GaugesOk s ↔ AsReset s ∧ PguOk s.pgu := by
  simp only [GaugesOk, PguOk, hasReq, reqIn, heldChans, heldIn, Option.map_eq_some_iff]

/-- Channel `n` alone changes its record and its place in the queue and the engines, as its new request state says. -/
theorem PguOk.change {g : Pgu} (h : PguOk g) {n : Nat} {c : Chan} (hc : getN g.chans n = some c) (f : Chan → Chan)
    {queue : List Nat} {engines : List (Option Meas)} (hlen : engines.length = g.engines.length)
    (hq : queue.Nodup) (hh : (heldIn engines).Nodup)
    (others : ∀ m, m ≠ n → (m ∈ queue ↔ m ∈ g.queue) ∧
      (m ∈ heldIn engines ↔ m ∈ heldIn g.engines))
    (self : (n ∈ queue ↔ (f c).req = .queued) ∧
      (n ∈ heldIn engines ↔ (f c).req = .measuring)) :
    PguOk { g with chans := modN g.chans n f, queue := queue, engines := engines } := by
  obtain ⟨hchans, hengines, -, -, hreq⟩ := h
  refine ⟨by simpa using hchans, hlen.trans hengines, hq, hh, fun m => ?_⟩
  by_cases hm : m = n
  · subst hm
    simp only [reqIn, getN_modN_self, hc, Option.map_some, Option.some.injEq]
    exact self
  · have hreq' : reqIn { g with chans := modN g.chans n f, queue := queue, engines := engines } m = reqIn g m := by
      simp [reqIn, getN_modN_ne (Ne.symm hm)]
    rw [hreq']
    exact ⟨(others m hm).1.trans (hreq m).1, (others m hm).2.trans (hreq m).2⟩

/-- A change of a record that leaves its request state. -/
theorem PguOk.modChan {s : State} (h : PguOk s.pgu) (n : Nat) (f : Chan → Chan)
    (hf : ∀ c, getN s.pgu.chans n = some c → (f c).req = c.req) : PguOk (modChan n f s).pgu := by
  obtain ⟨hchans, hengines, hq, hh, hreq⟩ := h
  refine ⟨by simpa using hchans, hengines, hq, hh, fun m => ?_⟩
  have hsame : reqIn (Machine.modChan n f s).pgu m = reqIn s.pgu m := by
    simp only [reqIn, modChan_chans, getN_modN]
    split
    next hnm =>
      subst hnm
      cases hc : getN s.pgu.chans n with
      | none => rfl
      | some c => simp [hf c hc]
    · rfl
  rw [hsame]
  exact hreq m

theorem reqIn_of_getN {g : Pgu} {n : Nat} {c : Chan} (hc : getN g.chans n = some c) : reqIn g n = some c.req := by
  simp [reqIn, hc]

/-- A channel joins the queue from IDLE (R141). -/
theorem PguOk.join {s : State} (h : PguOk s.pgu) {n : Nat} (hn : reqIn s.pgu n = some .idle) :
    PguOk (joinQueue n s).pgu := by
  obtain ⟨c, hc, hidle⟩ := Option.map_eq_some_iff.1 hn
  obtain ⟨-, -, hq, hh, hreq⟩ := id h
  have hnotq : n ∉ s.pgu.queue := by simp [(hreq n).1, hn]
  have hnoth : n ∉ heldIn s.pgu.engines := by simp [(hreq n).2, hn]
  refine h.change (queue := s.pgu.queue ++ [n]) (engines := s.pgu.engines) hc (fun c => { c with req := .queued }) rfl ?_ hh
    (fun m hm => ⟨by simp [hm], Iff.rfl⟩) ⟨by simp, by simpa using hnoth⟩
  simpa [List.nodup_append, hq] using fun a ha (heq : a = n) => hnotq (heq ▸ ha)

theorem reqIn_joinQueue_ne {n m : Nat} (h : n ≠ m) (s : State) : reqIn (joinQueue n s).pgu m = reqIn s.pgu m := by
  simp only [reqIn, joinQueue, modChan_chans, getN_modN_ne h]

/-- An IDLE engine found, and what it holds once it is set. -/
theorem heldIn_set {l : List (Option Meas)} {e : Nat} {x : Option Meas} (he : getN l e = some x) (m : Option Meas) :
    ∃ a b, heldIn l = a ++ (x.map (·.chan)).toList ++ b ∧
      heldIn (modN l e fun _ => m) = a ++ (m.map (·.chan)).toList ++ b := by
  obtain ⟨a, b, rfl, hf⟩ := getN_split he
  refine ⟨heldIn a, heldIn b, ?_, ?_⟩
  · cases x <;> simp [heldIn]
  · rw [hf]
    cases m <;> simp [heldIn]

/-- An IDLE engine takes the channel at the queue's head (R143). -/
theorem PguOk.take {s : State} (h : PguOk s.pgu) : PguOk (takeOnce s).pgu := by
  unfold takeOnce
  split
  next n rest e hqueue he =>
    obtain ⟨x, hx, hnone⟩ := findN_some he
    obtain rfl : x = none := by simpa using hnone
    obtain ⟨-, -, hq, hh, hreq⟩ := id h
    obtain ⟨c, hc, -⟩ := Option.map_eq_some_iff.1 ((hreq n).1.1 (by simp [hqueue]))
    have hnoth : n ∉ heldIn s.pgu.engines := by
      rw [(hreq n).2, (hreq n).1.1 (by simp [hqueue])]
      decide
    obtain ⟨hnrest, hrest⟩ := List.nodup_cons.1 (hqueue ▸ hq)
    obtain ⟨a, b, hold, hnew⟩ := heldIn_set hx (some { chan := n, windowAt := s.clock + windowOf n s * 1000 })
    simp only [Option.map_none, Option.toList_none, List.append_nil] at hold
    simp only [Option.map_some, Option.toList_some, List.append_assoc, List.singleton_append] at hnew
    have hmem (m : Nat) (hm : m ≠ n) : m ∈ a ++ n :: b ↔ m ∈ heldIn s.pgu.engines := by simp [hold, hm]
    refine h.change (queue := rest)
      (engines := modN s.pgu.engines e fun _ => some { chan := n, windowAt := s.clock + windowOf n s * 1000 }) hc
      (fun c => { c with req := .measuring }) (by simp) hrest ?_ (fun m hm => ⟨by simp [hqueue, hm], by rw [hnew]; exact hmem m hm⟩)
      ⟨by simpa using hnrest, by simp [hnew]⟩
    rw [hnew]
    rw [hold] at hh hnoth
    exact (List.perm_middle.nodup_iff).2 (List.nodup_cons.2 ⟨hnoth, hh⟩)
  · exact h

theorem PguOk.takeAll {s : State} (h : PguOk s.pgu) : PguOk (takeAll s).pgu :=
  repeat_keeps (R := fun a b => PguOk a.pgu → PguOk b.pgu) (fun _ h => h)
    (fun {a b c} (h : PguOk a.pgu → PguOk b.pgu) (k : PguOk b.pgu → PguOk c.pgu) ha => k (h ha)) (fun _ h => PguOk.take h) 6 s h

/-- The engine and the measurement of a channel that is being measured. -/
theorem underMeasure_some {n e : Nat} {s : State} {k : ChanCfg} {m : Meas} (h : underMeasure n s = some (k, e, m)) :
    getN s.cfg.chans n = some k ∧ getN s.pgu.engines e = some (some m) ∧ m.chan = n := by
  unfold underMeasure at h
  split at h
  next k' e' hk he =>
    obtain ⟨x, hx, hchan⟩ := findN_some he
    split at h
    next m' hm =>
      cases h
      rw [measOf, hx] at hm
      obtain rfl : x = some m := hm
      exact ⟨hk, hx, by simpa using hchan⟩
    · cases h
  · cases h

/-- An engine goes on with the channel it holds. -/
theorem PguOk.advance {s : State} (h : PguOk s.pgu) {e : Nat} {m m' : Meas} (he : getN s.pgu.engines e = some (some m))
    (hm : m'.chan = m.chan) : PguOk (setEngine e (some m') s).pgu := by
  obtain ⟨hchans, hengines, hq, hh, hreq⟩ := h
  obtain ⟨a, b, hold, hnew⟩ := heldIn_set he (some m')
  have hsame : heldIn (setEngine e (some m') s).pgu.engines = heldIn s.pgu.engines := by
    simp only [setEngine_engines, hold, hnew, Option.map_some, hm]
  refine ⟨hchans, by simpa using hengines, hq, by rw [hsame]; exact hh, fun n => ?_⟩
  rw [hsame]
  exact hreq n

/-- An engine leaves its channel, whose record becomes IDLE (R148). -/
theorem PguOk.free {s : State} (h : PguOk s.pgu) {e n : Nat} {m : Meas} (he : getN s.pgu.engines e = some (some m))
    (hm : m.chan = n) : PguOk (setEngine e none (Machine.modChan n (fun q => { q with req := .idle }) s)).pgu := by
  obtain ⟨-, -, hq, hh, hreq⟩ := id h
  obtain ⟨a, b, hold, hnew⟩ := heldIn_set he none
  simp only [Option.map_some, hm, Option.toList_some, List.append_assoc, List.singleton_append] at hold
  simp only [Option.map_none, Option.toList_none, List.append_nil] at hnew
  have hmeas := (hreq n).2.1 (by simp [hold])
  obtain ⟨c, hc, -⟩ := Option.map_eq_some_iff.1 hmeas
  have hnotq : n ∉ s.pgu.queue := by
    rw [(hreq n).1, hmeas]
    decide
  rw [hold] at hh
  obtain ⟨hnot, hrest⟩ := List.nodup_cons.1 ((List.perm_middle.nodup_iff).1 hh)
  have hmem (x : Nat) (hx : x ≠ n) : x ∈ a ++ b ↔ x ∈ heldIn s.pgu.engines := by simp [hold, hx]
  refine h.change (queue := s.pgu.queue) (engines := modN s.pgu.engines e fun _ => none) hc
    (fun q => { q with req := .idle }) (by simp) hq ?_ (fun x hx => ⟨Iff.rfl, by rw [hnew]; exact hmem x hx⟩)
    ⟨by simpa using hnotq, by rw [hnew]; simpa using hnot⟩
  rw [hnew]
  exact hrest

theorem judgeHealth_req (d : Nat) (o : Outcome) (c : Chan) : (judgeHealth d o c).req = c.req := by
  cases o <;> rfl

/-- A result frees the engine and its channel (R148). -/
theorem PguOk.result {s : State} (h : PguOk s.pgu) {e n : Nat} {m : Meas} (he : getN s.pgu.engines e = some (some m))
    (hm : m.chan = n) (r : Result) : PguOk (makeResult e n r s).pgu := by
  unfold makeResult
  split
  next k c hk hc =>
    refine PguOk.takeAll ?_
    let noted := Machine.modChan n (fun _ => { judgeHealth k.deadCount r.outcome c with last := some (r.outcome, s.now) }) s
    have hpgu := (deliverResult_reacts k r c.health (judgeHealth k.deadCount r.outcome c).health noted).pgu
    have hnoted : PguOk noted.pgu := h.modChan n _ fun q hq => by
      cases hc.symm.trans hq
      exact judgeHealth_req _ _ _
    refine PguOk.free (by rw [hpgu]; exact hnoted) ?_ hm
    rw [hpgu]
    exact he
  · exact h

/-! ## Gauge events (R141 to R147) -/

theorem PguOk.interval {s : State} (h : PguOk s.pgu) {n : Nat} {k : ChanCfg} {r : Chan}
    (hr : getN s.pgu.chans n = some r) : PguOk (intervalExpired n k r s).pgu := by
  let timed := Machine.modChan n (fun c => { c with intervalAt := restartTimer k.interval c.intervalAt }) s
  have ht : PguOk timed.pgu := h.modChan n _ fun _ _ => rfl
  have hreq : reqIn timed.pgu n = some r.req := by simp [timed, reqIn, hr]
  show PguOk (requestChan n r.req timed).pgu
  cases hcase : r.req with
  | idle => exact PguOk.takeAll (ht.join (hcase ▸ hreq))
  | queued => exact ht.modChan n _ fun _ _ => rfl
  | measuring => exact ht.modChan n _ fun _ _ => rfl

theorem periodEdgeStep_chan {n t : Nat} {m m' : Meas} (h : periodEdgeStep n t m = .inl m') : m'.chan = m.chan := by
  unfold periodEdgeStep at h
  split at h
  · cases h; rfl
  · split at h <;> cases h; rfl
  · cases h; rfl
  · cases h; rfl

theorem dutyEdgeStep_chan {n t : Nat} {e : Edge} {m m' : Meas} (h : dutyEdgeStep n t e m = .inl m') :
    m'.chan = m.chan := by
  unfold dutyEdgeStep at h
  split at h
  · cases h; rfl
  · cases h; rfl
  · dsimp only at h
    split at h <;> cases h; rfl
  · cases h; rfl

theorem PguOk.edge {s : State} (h : PguOk s.pgu) {e n : Nat} {m : Meas} (he : getN s.pgu.engines e = some (some m))
    (hm : m.chan = n) {x : Meas ⊕ Result} (hx : ∀ m', x = .inl m' → m'.chan = m.chan) : PguOk (applyEdge e n x s).pgu := by
  cases x with
  | inl m' => exact h.advance he (hx m' rfl)
  | inr r => exact h.result he hm r

/-! ## START and RESTART (R153, R154) -/

/-- One channel's request at START or RESTART leaves the other channels' request states. -/
theorem startChan_ok {s : State} (h : PguOk s.pgu) {n : Nat} (hn : reqIn s.pgu n = some .idle) :
    PguOk (startChan s n).pgu ∧ ∀ m, m ≠ n → reqIn (startChan s n).pgu m = reqIn s.pgu m := by
  unfold startChan
  split
  · split
    next k _ _ =>
      let timed := Machine.modChan n (fun c => { c with intervalAt := some (s.now + k.interval) }) s
      have ht : PguOk timed.pgu := h.modChan n _ fun _ _ => rfl
      have hother (m : Nat) (hm : m ≠ n) : reqIn timed.pgu m = reqIn s.pgu m := by
        simp [timed, reqIn, getN_modN_ne (Ne.symm hm)]
      have hself : reqIn timed.pgu n = some .idle := by
        obtain ⟨c, hc, hidle⟩ := Option.map_eq_some_iff.1 hn
        simp [timed, reqIn, hc, hidle]
      refine ⟨ht.join hself, fun m hm => ?_⟩
      exact (reqIn_joinQueue_ne (Ne.symm hm) timed).trans (hother m hm)
    · exact ⟨h, fun _ _ => rfl⟩
  · exact ⟨h, fun _ _ => rfl⟩

theorem foldl_startChan_ok {l : List Nat} (hl : l.Nodup) {s : State} (h : PguOk s.pgu)
    (hidle : ∀ n ∈ l, reqIn s.pgu n = some .idle) : PguOk (l.foldl startChan s).pgu := by
  induction l generalizing s with
  | nil => exact h
  | cons n ns ih =>
    obtain ⟨hnot, hns⟩ := List.nodup_cons.1 hl
    obtain ⟨hok, hother⟩ := startChan_ok h (hidle n (by simp))
    refine ih hns hok fun m hm => ?_
    rw [hother m fun hmn => hnot (hmn ▸ hm)]
    exact hidle m (by simp [hm])

/-- Gauge records with every channel IDLE are in order. -/
theorem pguOk_idle {chans : List Chan} (hlen : chans.length = 24) (hidle : ∀ c ∈ chans, c.req = .idle) :
    PguOk { chans := chans } := by
  have hreq (n : Nat) : reqIn { chans := chans } n ≠ some .queued ∧ reqIn { chans := chans } n ≠ some .measuring := by
    cases hc : getN chans n with
    | none => simp [reqIn, hc]
    | some c => simp [reqIn, hc, hidle c (mem_of_getN hc)]
  exact ⟨hlen, rfl, List.nodup_nil, List.nodup_nil, fun n => ⟨⟨fun h => by simp at h, fun h => absurd h (hreq n).1⟩,
    ⟨fun h => by simp [heldIn] at h, fun h => absurd h (hreq n).2⟩⟩⟩

theorem startChans_ok {chans : List Chan} {s : State} (hs : s.pgu = { chans := chans }) (hlen : chans.length = 24)
    (hidle : ∀ c ∈ chans, c.req = .idle) : PguOk (startChans s).pgu := by
  refine PguOk.takeAll (foldl_startChan_ok (numbers_nodup 24) (hs ▸ pguOk_idle hlen hidle) fun n hn => ?_)
  obtain ⟨c, hc⟩ := Option.isSome_iff_exists.1 (getN_isSome (hlen ▸ hn))
  simp [reqIn, hs, hc, hidle c (mem_of_getN hc)]

theorem startUp_pgu (c : Cfg) {s : State} (h : s.pgu = {}) : PguOk (startUp c s).pgu := by
  refine startChans_ok (chans := List.replicate 24 {}) ?_ rfl fun c hc => by rw [List.eq_of_mem_replicate hc]
  have hreacts := (((firstWrites_reacts (startRecords (startBase c s))).trans (shuNotice_reacts true _)).trans
    (settle_reacts false _)).trans ((stcNotice_reacts _).trans (startFuel_reacts _))
  exact hreacts.pgu.trans h

theorem restartAll_pgu {s : State} (h : PguOk s.pgu) : PguOk (restartAll s).pgu := by
  obtain ⟨hlen, -⟩ := h
  refine startChans_ok (chans := s.pgu.chans.map restartChan) ?_ (by simpa using hlen) fun c hc => ?_
  · have hreacts := (((shuNotice_reacts true (restartBase s)).trans (stcNotice_reacts _)).trans
      (settle_reacts false _)).trans ((fuelTotals_reacts _).trans (restartFuel_reacts _))
    rw [hreacts.pgu, restartBase_eq]
  · obtain ⟨q, -, rfl⟩ := List.mem_map.1 hc
    rfl

/-- Commands other than the gauge events, START and RESTART leave the gauge records. -/
theorem exec_pgu_frame {c : Instr} {s u : State} (hu : exec c s = .next u) (hc : touchesGauges c = false)
    (hr : isReset c = false) : u.pgu = s.pgu := by
  obtain ⟨_, _, -, hreset⟩ | ⟨t, b, v, -, hb, hv, hq⟩ := exec_cases hu
  · exact absurd (hr.symm.trans hreset) (by decide)
  · have huv : u.pgu = v.pgu := by obtain rfl | ⟨-, r, rfl⟩ := hq <;> rfl
    rw [huv, hv.pgu]
    cases hb
    case gauges _ h => exact absurd (hc.symm.trans h) (by decide)
    case started => cases hc
    case restarted => cases hc
    case stored => rw [storeFrame_eq]; rfl
    all_goals rfl

/-- A command keeps the gauge records in order. -/
theorem exec_pguOk {c : Instr} {s u : State} (hs : AsReset s) (h : PguOk s.pgu) (hu : exec c s = .next u) :
    PguOk u.pgu := by
  by_cases hreset : isReset c = true
  · have hpgu : u.pgu = {} := by cases c <;> first | (cases hu; rfl) | cases hreset
    rw [hpgu]
    exact pguOk_idle rfl fun c hc => by rw [List.eq_of_mem_replicate hc]
  by_cases htouch : touchesGauges c = true
  case neg =>
    rw [exec_pgu_frame hu (by simpa using htouch) (by simpa using hreset)]
    exact h
  cases c
  case intervalExpiry t n =>
    simp only [exec, execIntervalExpiry] at hu
    split at hu
    next r k hr _ =>
      split at hu <;> cases hu
      · exact PguOk.interval (s := setClock t s) h hr
      · exact h
    · cases hu; exact h
  case periodEdge t n e =>
    simp only [exec, execPeriodEdge] at hu
    split at hu
    next k e m hmeas =>
      obtain ⟨-, he, hm⟩ := underMeasure_some hmeas
      split at hu <;> cases hu
      · exact PguOk.edge (s := setClock t s) h he hm fun _ => periodEdgeStep_chan
      · exact h
    · cases hu; exact h
  case dutyEdge t n e =>
    simp only [exec, execDutyEdge] at hu
    split at hu
    next k e m hmeas =>
      obtain ⟨-, he, hm⟩ := underMeasure_some hmeas
      split at hu <;> cases hu
      · exact PguOk.edge (s := setClock t s) h he hm fun _ => dutyEdgeStep_chan
      · exact h
    · cases hu; exact h
  case periodWindowExpiry t n =>
    simp only [exec, execPeriodWindowExpiry] at hu
    split at hu
    next k e m hmeas =>
      obtain ⟨-, he, hm⟩ := underMeasure_some hmeas
      split at hu <;> cases hu
      · exact PguOk.result (s := setClock t s) h he hm _
      · exact h
    · cases hu; exact h
  case dutyWindowExpiry t n =>
    simp only [exec, execDutyWindowExpiry] at hu
    split at hu
    next k e m hmeas =>
      obtain ⟨-, he, hm⟩ := underMeasure_some hmeas
      split at hu <;> cases hu
      · exact PguOk.result (s := setClock t s) h he hm _
      · exact h
    · cases hu; exact h
  case start t =>
    by_cases hm : s.svp.mode = .configuring
    · obtain ⟨-, -, -, -, -, -, -, -, -, -, -, -, hpgu, -⟩ := hs hm
      cases hu
      split
      · simp only [startAnswer]
        split
        · exact h
        · split
          · exact h
          · rw [okAfter, replyOk_pgu]
            exact startUp_pgu _ hpgu
      · exact h
    · cases hu
      rw [if_neg (by simp [configuring, hm])]
      exact h
  case restart t =>
    cases hu
    unfold inService
    split
    · exact h
    · rw [okAfter, replyOk_pgu]
      exact restartAll_pgu h
  all_goals cases htouch

/-- Settles O7: a gauge event changes one channel's record and place; START and RESTART ask for each channel once. -/
theorem gaugeQueueKept : Obligations.GaugeQueueKept := by
  intro s t h ht
  obtain ⟨hs, hpgu⟩ := (gaugesOk_iff s).1 h
  refine (gaugesOk_iff t).2 ⟨configuringHoldsResetState s t hs ht, ?_⟩
  obtain ⟨q, k, d, rfl⟩ | ⟨c, rest, -, hc⟩ := step_cases ht
  · exact hpgu
  · exact exec_pguOk (s := { s with pending := rest }) hs hpgu hc

end Sys2Proof.Machine
end

section
/-!
PROOFS. Settles the service port's own statements: O1, O3, O15 to O18, O24 to O27.
-/

namespace Sys2Proof.Machine

/-! ## The machine as a whole -/

/-- Settles O1: the definition of `step` on a queue that is not empty. -/
theorem stepRunsFrontCommand : Obligations.StepRunsFrontCommand := by
  intro c rest s h
  simp only [step, h]

/-- Settles O3: reset leaves no entry, no journal, idle gauges and lines as reset leaves them. -/
theorem resetMeetsInvariants : Obligations.ResetMeetsInvariants := by
  have hreset : AsReset State.reset := afterReset_asReset .powerOn 0 State.reset
  refine ⟨reset_image_wf, hreset, ⟨hreset, List.Pairwise.nil, by simp [State.reset]⟩, ?_, reset_journalOk,
    ⟨hreset, ?_, pairLines_reset _⟩, rfl⟩
  · exact (gaugesOk_iff _).2 ⟨hreset, pguOk_idle rfl fun c hc => by rw [List.eq_of_mem_replicate hc]⟩
  · exact assignedOnce_unused fun x hx => by rw [List.eq_of_mem_replicate hx]

/-- Settles O15: the two resets are `afterReset` of the reset state. -/
theorem resetsLeaveResetState : Obligations.ResetsLeaveResetState :=
  fun _ _ => ⟨rfl, rfl, rfl, rfl, fun _ => rfl, rfl, rfl, rfl, rfl⟩

/-! ## Writes (R183, R184, R189, R201) -/

/-- Settles O16: a write is refused by its length, then by the mode, then by the image's end. -/
theorem writesWithoutEffect : Obligations.WritesWithoutEffect := by
  intro t s
  refine ⟨rfl, fun bytes hne hnone => ?_, fun page data hlen => ?_, fun page data hne hle hm => ?_,
    fun page data hne hle hm hend => ?_⟩
  · simp [exec, execBadRequest, badWrite, hne, hnone]
  · simp only [exec, execConfigWrite, configAnswer, if_pos hlen]
  · simp [exec, execConfigWrite, configAnswer, hne, Nat.not_lt.2 hle, configuring, hm]
  · simp [exec, execConfigWrite, configAnswer, hne, Nat.not_lt.2 hle, configuring, hm, Config.imageLength, hend]

/-- Bytes written from `a` on replace those bytes and no others. -/
theorem imageRead_imageWrite {m : List Host.Cell} (h : imageWf m = true) (bs : List Byte) {a : Nat}
    (ha : a + bs.length ≤ Config.imageLength) (x : Nat) :
    imageRead (imageWrite m a bs) x =
      if a ≤ x ∧ x < a + bs.length then bs.getD (x - a) 0 else imageRead m x := by
  induction bs generalizing m a with
  | nil => simp [imageWrite]
  | cons b bs ih =>
    simp only [List.length_cons] at ha ⊢
    have hput := imagePut_wf h (a := a) (by omega) b
    have hordered : imageOrdered 0 m = true := by
      simp only [imageWf, Bool.and_eq_true] at h
      exact h.1
    rw [imageWrite, ih hput (by omega), imageRead_imagePut hordered]
    by_cases hx : x = a
    · subst hx
      simp
    · by_cases hin : a + 1 ≤ x ∧ x < a + 1 + bs.length
      · have hsub : x - a = x - (a + 1) + 1 := by omega
        rw [if_pos hin, if_pos (by omega), hsub, List.getD_cons_succ]
      · rw [if_neg hin, if_neg hx, if_neg (by omega)]

/-- Settles O17: CONFIG_WRITE of a right length, in CONFIGURING and within the image, writes its bytes. -/
theorem configWriteStores : Obligations.ConfigWriteStores := by
  intro t page data s hwf hm hne hle hend
  have hexec : exec (.configWrite t page data) s =
      .next (okAfter (writeImage (page.toNat * 32) data) (setClock t s)) := by
    simp [exec, execConfigWrite, configAnswer, hne, Nat.not_lt.2 hle, configuring, hm, Config.imageLength,
      Nat.not_lt.2 hend]
  exact ⟨_, hexec, rfl, imageRead_imageWrite hwf data hend, rfl⟩

/-! ## START refused (R190, R191) -/

theorem exec_start (t : Nat) (s : State) : exec (.start t) s =
    .next (if configuring (setClock t s) then startAnswer (setClock t s) else replyStatus .notNow (setClock t s)) := rfl

/-- Settles O18: the mode, then the CRC, then the field check. -/
theorem startRefused : Obligations.StartRefused := by
  intro t s
  refine ⟨fun hm => ?_, fun hm hcrc => ?_, fun k hm hcrc hk => ?_⟩
  · rw [exec_start, if_neg (by simp [configuring, hm])]
  · rw [exec_start, if_pos (by simp [configuring, hm])]
    exact congrArg Host.Outcome.next (if_pos (α := State) hcrc)
  · rw [exec_start, if_pos (by simp [configuring, hm])]
    simp only [startAnswer, setClock_svp, computedCrc, trailerOf, hcrc, ne_eq, not_true_eq_false, if_false, hk]

/-- Settles O24: each request of service is made through `inService`. -/
theorem notNowInConfiguring : Obligations.NotNowInConfiguring := by
  intro c t s hc ht hm
  have hNotNow (f : State → State) (u : Nat) : (.next (inService f (setClock u s)) : Host.Outcome State Fault Refusal) =
      .next (replyStatus .notNow (setClock u s)) := by
    rw [inService_configuring (s := setClock u s) hm]
  cases c <;> first | exact absurd hc Bool.false_ne_true | (cases ht; exact hNotNow _ t)

/-! ## Attention flags (R196) -/

theorem flagBit_surjective : ∀ i < 14, ∃ f, flagBit f = i
  | 0, _ => ⟨.parted, rfl⟩ | 1, _ => ⟨.helmLost, rfl⟩ | 2, _ => ⟨.duplicate, rfl⟩ | 3, _ => ⟨.lineSuspended, rfl⟩
  | 4, _ => ⟨.rudderFault, rfl⟩ | 5, _ => ⟨.engineFault, rfl⟩ | 6, _ => ⟨.fuelReserve, rfl⟩
  | 7, _ => ⟨.discrepancy, rfl⟩ | 8, _ => ⟨.meterFault, rfl⟩ | 9, _ => ⟨.shortfall, rfl⟩
  | 10, _ => ⟨.releaseTimeout, rfl⟩ | 11, _ => ⟨.peerLost, rfl⟩ | 12, _ => ⟨.haulTimeout, rfl⟩
  | 13, _ => ⟨.panelLost, rfl⟩
  | n + 14, h => absurd h (by omega)

theorem attnLow_iff (s : State) : attnLow s = true ↔ ∃ f : Flag, flagSet f s = true := by
  simp only [attnLow, bne_iff_ne, flagSet]
  constructor
  · intro hne
    by_contra hnone
    refine hne (BitVec.eq_of_getLsbD_eq fun i hi => ?_)
    obtain ⟨f, rfl⟩ := flagBit_surjective i hi
    simpa using fun h => hnone ⟨f, h⟩
  · rintro ⟨f, hf⟩ hzero
    simp [hzero] at hf

/-- Settles O25: the answer carries the flags left; a bit of the flags is the bit of a flag. -/
theorem clearAttentionAnswers : Obligations.ClearAttentionAnswers := fun _ _ s => ⟨rfl, attnLow_iff s⟩

/-! ## Reports (R132, R162, R198) -/

theorem getN_of_le {α : Type} {l : List α} {n : Nat} (h1 : 1 ≤ n) (h2 : n ≤ l.length) : ∃ x, getN l n = some x :=
  Option.isSome_iff_exists.1 (getN_isSome (mem_numbers.2 ⟨h1, h2⟩))

theorem getN_of_outside {α : Type} {l : List α} {n : Nat} (h : n = 0 ∨ l.length < n) : getN l n = none := by
  cases n with
  | zero => rfl
  | succ i => simpa using h

/-- Settles O26: each report is a reply alone; READ_LINE finds a line from 1 to 24. -/
theorem reportsChangeOnlyTheReply : Obligations.ReportsChangeOnlyTheReply := by
  intro t s
  refine ⟨rfl, rfl, rfl, rfl, rfl, rfl, rfl, fun _ => rfl, fun n hc hl h1 h24 => ?_, fun n hl hout => ?_⟩
  · obtain ⟨c, hc'⟩ := getN_of_le (l := s.cfg.lines) h1 (hc ▸ h24)
    obtain ⟨l, hl'⟩ := getN_of_le (l := s.dlu.lines) h1 (hl ▸ h24)
    exact ⟨c, l, hc', hl', by simp [exec, execReadLine, lineAnswer, hc', hl']⟩
  · have hnone : getN s.dlu.lines n.toNat = none := getN_of_outside (hl ▸ hout)
    simp [exec, execReadLine, lineAnswer, hnone]

/-- No direct change touches the reply. -/
theorem base_reply {c : Instr} {s b : State} (h : Base c s b) : b.svp.reply = s.svp.reply := by
  cases h
  case stored => rw [storeFrame_eq]; rfl
  case restarted => rw [withPgu, restartBase_eq]
  all_goals rfl

/-- A command that is no request leaves the reply (R184). -/
theorem exec_reply {c : Instr} {s u : State} (hu : exec c s = .next u) (hq : isRequest c = false)
    (hr : isReset c = false) : u.svp.reply = s.svp.reply := by
  obtain ⟨_, _, -, hreset⟩ | ⟨t, b, v, -, hb, hv, rfl | ⟨hreq, -⟩⟩ := exec_cases hu
  · exact absurd (hr.symm.trans hreset) (by decide)
  · rw [hv.reply, base_reply hb, setClock_svp]
  · exact absurd (hq.symm.trans hreq) (by decide)

/-- In a journal in order the serials run from the oldest up to one below the next. -/
theorem JournalOk.serial_bounds {s : State} (h : JournalOk s) {e : Entry} (he : e ∈ s.fau.journal) :
    (∀ x, s.fau.journal.head? = some x → x.serial ≤ e.serial) ∧ e.serial < s.fau.nextSerial := by
  obtain ⟨-, hlen, -, hserials⟩ := h
  have hmem : e.serial ∈ s.fau.journal.map (·.serial) := List.mem_map_of_mem he
  rw [hserials] at hmem
  obtain ⟨i, hi, hes⟩ := List.mem_map.1 hmem
  rw [List.mem_range] at hi
  refine ⟨fun x hx => ?_, by omega⟩
  have hhead : (s.fau.journal.map (·.serial)).head? = some x.serial := by simp [hx]
  rw [hserials] at hhead
  cases hn : s.fau.journal.length with
  | zero => omega
  | succ n =>
    simp only [hn, List.range_succ_eq_map, List.map_cons, List.head?_cons, Option.some.injEq] at hhead
    omega

/-- Settles O27: the layout of the reply, the serials of a journal in order, and the frame of the reply. -/
theorem readJournalReplies : Obligations.ReadJournalReplies := by
  intro t from_ s
  refine ⟨?_, fun h hfrom => ?_, fun h hnext => ?_, fun _ _ _ _ hq hr hv => exec_reply hv hq hr⟩
  · simp only [exec, execReadJournal, report, journalData, journalSlice, setClock_fau, listBytes]
    cases s.fau.journal <;> simp [optBytes, be, beBool]
  · rw [List.filter_eq_self.2]
    intro e he
    cases hj : s.fau.journal with
    | nil => simp [hj] at he
    | cons x xs =>
      have hx : s.fau.journal.head? = some x := by simp [hj]
      exact decide_eq_true ((hfrom x hx).trans ((h.serial_bounds he).1 x hx))
  · rw [List.filter_eq_nil_iff.2]
    · rfl
    · intro e he
      have := (h.serial_bounds he).2
      simpa using by omega

end Sys2Proof.Machine
end

section
/-!
PROOFS. Settles O2: on an empty queue a tick moves the timebase on, and queues exactly the timers that have reached their
expiries, each once, in an order of the free values.
-/

namespace Sys2Proof.Machine

/-! ## The next moment of the timebase (R143, R188) -/

/-- The earliest window is the limit or a window after the clock, and none of those lies before it. -/
theorem earliestWindow_spec (clock : Nat) (l : List (Option Meas)) {limit : Nat} (h : clock < limit) :
    clock < earliestWindow clock limit l ∧ earliestWindow clock limit l ≤ limit ∧
      (∀ m, some m ∈ l → clock < m.windowAt → earliestWindow clock limit l ≤ m.windowAt) ∧
      (earliestWindow clock limit l = limit ∨ ∃ m, some m ∈ l ∧ earliestWindow clock limit l = m.windowAt) := by
  induction l generalizing limit with
  | nil => exact ⟨h, Nat.le_refl _, by simp, .inl rfl⟩
  | cons e es ih =>
    cases e with
    | none =>
      obtain ⟨hlt, hle, hwin, hwhich⟩ := ih h
      exact ⟨hlt, hle, fun m hm => hwin m (by simpa using hm), hwhich.imp_right fun ⟨m, hm, he⟩ => ⟨m, by simp [hm], he⟩⟩
    | some w =>
      by_cases hw : clock < w.windowAt ∧ w.windowAt < limit
      · have hstep : earliestWindow clock limit (some w :: es) = earliestWindow clock w.windowAt es := by
          simp only [earliestWindow, List.foldl_cons, if_pos hw]
        obtain ⟨hlt, hle, hwin, hwhich⟩ := ih hw.1
        rw [hstep]
        refine ⟨hlt, by omega, fun m hm hclock => ?_, .inr ?_⟩
        · obtain rfl | hm := by simpa using hm
          · exact hle
          · exact hwin m hm hclock
        · obtain heq | ⟨m, hm, heq⟩ := hwhich
          · exact ⟨w, by simp, heq⟩
          · exact ⟨m, by simp [hm], heq⟩
      · have hstep : earliestWindow clock limit (some w :: es) = earliestWindow clock limit es := by
          simp only [earliestWindow, List.foldl_cons, if_neg hw]
        obtain ⟨hlt, hle, hwin, hwhich⟩ := ih h
        rw [hstep]
        refine ⟨hlt, hle, fun m hm hclock => ?_, hwhich.imp_right fun ⟨m, hm, he⟩ => ⟨m, by simp [hm], he⟩⟩
        obtain rfl | hm := by simpa using hm
        · omega
        · exact hwin m hm hclock

/-! ## The order of coincident expiries -/

theorem dropAt_eq {α : Type} (i : Nat) (l : List α) : dropAt i l = l.eraseIdx i := by
  induction l generalizing i with
  | nil => cases i <;> rfl
  | cons x xs ih => cases i with
    | zero => rfl
    | succ i => simp [dropAt, ih]

/-- A shuffled list has the same items. -/
theorem shuffle_perm (fuel d : Nat) {l : List Instr} (h : l.length ≤ fuel) : (shuffle fuel d l).Perm l := by
  induction fuel generalizing d l with
  | zero =>
    rw [List.length_eq_zero_iff.1 (Nat.le_zero.1 h)]
    rfl
  | succ fuel ih =>
    match l, h with
    | [], _ => rfl
    | [c], _ => rfl
    | a :: b :: rest, h =>
      have hi : Config.coincidence d % (a :: b :: rest).length < (a :: b :: rest).length :=
        Nat.mod_lt _ (by simp)
      have hrest : (dropAt (Config.coincidence d % (a :: b :: rest).length) (a :: b :: rest)).length ≤ fuel := by
        rw [dropAt_eq, List.length_eraseIdx_of_lt hi]
        simp only [List.length_cons] at h ⊢
        omega
      simp only [shuffle, List.getElem?_eq_getElem hi, Option.toList_some, List.singleton_append]
      exact ((ih (d + 1) hrest).cons _).trans (dropAt_eq _ (a :: b :: rest) ▸ List.getElem_cons_eraseIdx_perm hi)

/-! ## What is queued has expired, and what has expired is queued -/

@[simp] theorem mem_dueOne {b : Bool} {c d : Instr} : d ∈ dueOne b c ↔ b = true ∧ d = c := by
  cases b <;> simp [dueOne]

theorem due_iff {now : Nat} {e : Option Nat} : due now e = true ↔ Reached now e := by
  cases e <;> simp [due, Reached]

theorem mem_flatMap_numbers {α : Type} {l : List α} {f : Nat → List Instr} {c : Instr} :
    c ∈ (numbers l.length).flatMap f ↔ ∃ n x, getN l n = some x ∧ c ∈ f n := by
  rw [List.mem_flatMap]
  constructor
  · rintro ⟨n, hn, hc⟩
    obtain ⟨x, hx⟩ := Option.isSome_iff_exists.1 (getN_isSome hn)
    exact ⟨n, x, hx, hc⟩
  · rintro ⟨n, x, hx, hc⟩
    refine ⟨n, ?_, hc⟩
    by_contra hout
    rw [mem_numbers, not_and_or] at hout
    rw [getN_of_outside (by omega)] at hx
    cases hx

theorem counted_iff {p : Peer} : counted p = true ↔ p.state ≠ .lost := by
  cases hp : p.state <;> simp [counted, hp]

theorem mem_duePeer {s : State} {p : Peer} {c : Instr} : c ∈ duePeer s p ↔
    (p.state = .live ∧ staleAt p ≤ s.now ∧ c = .staleExpiry s.clock p.number) ∨
      (p.state ≠ .lost ∧ lostAt p ≤ s.now ∧ c = .lostExpiry s.clock p.number) ∨
      ∃ h, p.helmPart = some h ∧ h.expired = false ∧ helmAgeAt h ≤ s.now ∧ c = .helmAgeExpiry s.clock p.number := by
  cases hh : p.helmPart <;> simp [duePeer, hh, counted_iff, and_assoc]

theorem mem_dueShafts {s : State} {c : Instr} : c ∈ (numbers s.sfc.length).flatMap (dueShaft s) ↔
    ∃ n r, getN s.sfc n = some r ∧
      ((Reached s.now r.stepAt ∧ c = .controlStep s.clock n) ∨ (Reached s.now r.dwellAt ∧ c = .dwellExpiry s.clock n) ∨
        (Reached s.now r.deviationAt ∧ c = .deviationExpiry s.clock n)) := by
  rw [mem_flatMap_numbers]
  refine exists₂_congr fun n r => and_congr_right fun hr => ?_
  simp [dueShaft, hr, due_iff]

theorem mem_dueRudders {s : State} {c : Instr} : c ∈ (numbers s.stc.rudders.length).flatMap (dueRudder s) ↔
    ∃ n r, getN s.stc.rudders n = some r ∧ Reached s.now r.stallAt ∧ c = .stallExpiry s.clock n := by
  rw [mem_flatMap_numbers]
  refine exists₂_congr fun n r => and_congr_right fun hr => ?_
  simp [dueRudder, hr, due_iff]

/-- The command of a winch's phase timer is that of its state. -/
theorem mem_winchTimer {t n : Nat} {w : Winch} {c : Instr} : c ∈ winchTimer t n w ↔
    (w.state = .hauling ∧ c = .haulTimeoutExpiry t n) ∨ (w.state = .made ∧ c = .haulPulseExpiry t n) ∨
      ((w.state = .releasing ∧ w.phase = some .payingOut) ∧ c = .releaseWaitExpiry t n) ∨
      ((w.state = .releasing ∧ w.phase = some .holding) ∧ c = .releaseHoldExpiry t n) := by
  unfold winchTimer
  split <;> simp_all

theorem mem_dueWinches {s : State} {c : Instr} : c ∈ (numbers s.cpc.winches.length).flatMap (dueWinch s) ↔
    ∃ n w, getN s.cpc.winches n = some w ∧ Reached s.now w.timerAt ∧ c ∈ winchTimer s.clock n w := by
  rw [mem_flatMap_numbers]
  refine exists₂_congr fun n w => and_congr_right fun hw => ?_
  by_cases hd : due s.now w.timerAt = true
  · simp [dueWinch, hw, hd, due_iff.1 hd]
  · simp [dueWinch, hw, hd, mt due_iff.2 hd]

theorem mem_dueChans {s : State} {c : Instr} : c ∈ (numbers s.pgu.chans.length).flatMap (dueChan s) ↔
    ∃ n k, getN s.pgu.chans n = some k ∧ Reached s.now k.intervalAt ∧ c = .intervalExpiry s.clock n := by
  rw [mem_flatMap_numbers]
  refine exists₂_congr fun n k => and_congr_right fun hk => ?_
  simp [dueChan, hk, due_iff]

theorem mem_dueWindows {s : State} {c : Instr} : c ∈ s.pgu.engines.flatMap (dueWindow s) ↔
    ∃ n, (WindowOver (· = .angle) n s ∧ c = .dutyWindowExpiry s.clock n) ∨
      (WindowOver (· ≠ .angle) n s ∧ c = .periodWindowExpiry s.clock n) := by
  rw [List.mem_flatMap]
  constructor
  · rintro ⟨e, he, hc⟩
    cases e with
    | none => simp [dueWindow] at hc
    | some m =>
      cases hk : getN s.cfg.chans m.chan with
      | none => simp [dueWindow, hk] at hc
      | some k =>
        obtain ⟨hover, rfl⟩ := by simpa [dueWindow, hk] using hc
        refine ⟨m.chan, ?_⟩
        by_cases hkind : k.kind = .angle
        · exact .inl ⟨⟨k, m, hk, hkind, he, rfl, hover⟩, if_pos hkind⟩
        · exact .inr ⟨⟨k, m, hk, hkind, he, rfl, hover⟩, if_neg hkind⟩
  · rintro ⟨n, ⟨⟨k, m, hk, hkind, he, rfl, hover⟩, rfl⟩ | ⟨⟨k, m, hk, hkind, he, rfl, hover⟩, rfl⟩⟩
    · exact ⟨some m, he, by simp [dueWindow, hk, hover, hkind]⟩
    · exact ⟨some m, he, by simp [dueWindow, hk, hover, hkind]⟩

theorem mem_duePort {s : State} {c : Instr} : c ∈ duePort s ↔
    (s.svp.mode = .joining ∧ Reached s.now s.svp.joinAt ∧ c = .joinTimerExpiry s.clock) ∨
      (s.svp.panelState = .current ∧ Reached s.now s.svp.panelAt ∧ c = .panelTimeout s.clock) ∨
      (Reached s.now s.lif.suspendedAt ∧ c = .suspensionExpiry s.clock) ∨
      (Reached s.now s.lif.statusAt ∧ c = .statusTimerExpiry s.clock) ∨
      (Reached s.now s.fau.fuelAt ∧ c = .fuelPeriodExpiry s.clock) := by
  simp [duePort, due_iff, and_assoc]

theorem reached_muteAt {s : State} : Reached s.now (muteAt s) ↔
    ∃ e, s.lif.lastSent = some e ∧ e + s.cfg.lostCount * s.cfg.statusPeriod ≤ s.now := by
  cases hs : s.lif.lastSent <;> simp [Reached, muteAt, hs, Cfg.lostTime]

theorem mem_dueView {s : State} {c : Instr} : c ∈ dueView s ↔
    (∃ p ∈ s.cvu.peers, c ∈ duePeer s p) ∨
      (s.cvu.claim = .claiming ∧ Reached s.now s.cvu.helmAt ∧ c = .helmPeriodExpiry s.clock) ∨
      (Reached s.now s.cvu.graceAt ∧ c = .graceExpiry s.clock) ∨
      (s.shu.muted = false ∧ Reached s.now (muteAt s) ∧ c = .muteExpiry s.clock) := by
  simp [dueView, due_iff, and_assoc]

theorem reached_pullOff {now : Nat} {o : Option PullOff} :
    Reached now (o.map (·.expiry)) ↔ ∃ p, o = some p ∧ p.expiry ≤ now := by
  cases o <;> simp [Reached]

/-- The commands queued are those whose timers have reached their expiries. -/
theorem mem_dueCommands (u : State) (c : Instr) : c ∈ dueCommands u ↔ HasExpired u c := by
  simp only [dueCommands, List.mem_append, mem_duePort, mem_dueView, mem_duePeer, mem_dueShafts, mem_dueRudders,
    mem_dueWinches, mem_winchTimer, mem_dueChans, mem_dueWindows, mem_dueOne, due_iff, reached_pullOff, reached_muteAt]
  -- What is left for each timer is the order in which the two sides name its conditions.
  cases c <;> simp [HasExpired, timeOf, PhaseOver]
  all_goals grind [staleAt, lostAt, helmAgeAt]

/-! ## Each expiry is queued once -/

theorem dueOne_sublist (b : Bool) (c : Instr) : (dueOne b c).Sublist [c] := by
  cases b <;> simp [dueOne]

theorem duePort_sublist (s : State) : (duePort s).Sublist
    [.joinTimerExpiry s.clock, .panelTimeout s.clock, .suspensionExpiry s.clock, .statusTimerExpiry s.clock,
      .fuelPeriodExpiry s.clock] :=
  ((((dueOne_sublist _ _).append (dueOne_sublist _ _)).append (dueOne_sublist _ _)).append (dueOne_sublist _ _)).append
    (dueOne_sublist _ _)

theorem duePeer_sublist (s : State) (p : Peer) : (duePeer s p).Sublist
    [.staleExpiry s.clock p.number, .lostExpiry s.clock p.number, .helmAgeExpiry s.clock p.number] := by
  refine ((dueOne_sublist _ _).append (dueOne_sublist _ _)).append ?_
  cases p.helmPart with
  | none => exact List.nil_sublist _
  | some h => exact dueOne_sublist _ _

theorem dueShaft_sublist (s : State) (n : Nat) : (dueShaft s n).Sublist
    [.controlStep s.clock n, .dwellExpiry s.clock n, .deviationExpiry s.clock n] := by
  cases hr : getN s.sfc n with
  | none => simp [dueShaft, hr]
  | some r =>
    simp only [dueShaft, hr]
    exact ((dueOne_sublist _ _).append (dueOne_sublist _ _)).append (dueOne_sublist _ _)

theorem dueRudder_sublist (s : State) (n : Nat) : (dueRudder s n).Sublist [.stallExpiry s.clock n] := by
  cases hr : getN s.stc.rudders n with
  | none => simp [dueRudder, hr]
  | some r => simpa only [dueRudder, hr] using dueOne_sublist _ _

theorem winchTimer_sublist (t n : Nat) (w : Winch) : (winchTimer t n w).Sublist
    [.haulTimeoutExpiry t n, .haulPulseExpiry t n, .releaseWaitExpiry t n, .releaseHoldExpiry t n] := by
  unfold winchTimer
  split <;> simp

theorem dueWinch_sublist (s : State) (n : Nat) : (dueWinch s n).Sublist
    [.haulTimeoutExpiry s.clock n, .haulPulseExpiry s.clock n, .releaseWaitExpiry s.clock n,
      .releaseHoldExpiry s.clock n] := by
  unfold dueWinch
  split
  · split
    · exact winchTimer_sublist _ _ _
    · exact List.nil_sublist _
  · exact List.nil_sublist _

theorem dueChan_sublist (s : State) (n : Nat) : (dueChan s n).Sublist [.intervalExpiry s.clock n] := by
  cases hr : getN s.pgu.chans n with
  | none => simp [dueChan, hr]
  | some r => simpa only [dueChan, hr] using dueOne_sublist _ _

/-- The window expiries of the channels under measurement, in either mode. -/
theorem dueWindows_sublist (s : State) : (s.pgu.engines.flatMap (dueWindow s)).Sublist
    ((heldChans s).flatMap fun n => [.dutyWindowExpiry s.clock n, .periodWindowExpiry s.clock n]) := by
  unfold heldChans
  induction s.pgu.engines with
  | nil => exact List.Sublist.slnil
  | cons e es ih =>
    cases e with
    | none => simpa [dueWindow] using ih
    | some m =>
      simp only [List.flatMap_cons]
      refine List.Sublist.append ?_ ih
      cases hk : getN s.cfg.chans m.chan with
      | none => simp [dueWindow, hk]
      | some k =>
        simp only [dueWindow, hk]
        refine (dueOne_sublist _ _).trans ?_
        by_cases hkind : k.kind = .angle <;> simp [hkind]

theorem sublist_flatMap {α β : Type} {f g : α → List β} (h : ∀ a, (f a).Sublist (g a)) (l : List α) :
    (l.flatMap f).Sublist (l.flatMap g) := by
  induction l with
  | nil => exact List.Sublist.slnil
  | cons a l ih => exact (h a).append ih

/-- The commands of every timer the machine has, running or not, each taken at the clock. -/
def allTimers (s : State) : List Instr :=
  [.joinTimerExpiry s.clock, .panelTimeout s.clock, .suspensionExpiry s.clock, .statusTimerExpiry s.clock,
      .fuelPeriodExpiry s.clock] ++
    (((s.cvu.peers.map (·.number)).flatMap fun n =>
        [.staleExpiry s.clock n, .lostExpiry s.clock n, .helmAgeExpiry s.clock n]) ++
      [.helmPeriodExpiry s.clock] ++ [.graceExpiry s.clock] ++ [.muteExpiry s.clock]) ++
    ((numbers s.sfc.length).flatMap fun n => [.controlStep s.clock n, .dwellExpiry s.clock n, .deviationExpiry s.clock n]) ++
    ((numbers s.stc.rudders.length).flatMap fun n => [.stallExpiry s.clock n]) ++
    ((numbers s.cpc.winches.length).flatMap fun n =>
      [.haulTimeoutExpiry s.clock n, .haulPulseExpiry s.clock n, .releaseWaitExpiry s.clock n,
        .releaseHoldExpiry s.clock n]) ++
    [.pullOffTimerExpiry s.clock] ++ ((numbers s.pgu.chans.length).flatMap fun n => [.intervalExpiry s.clock n]) ++
    ((heldChans s).flatMap fun n => [.dutyWindowExpiry s.clock n, .periodWindowExpiry s.clock n]) ++
    [.periodStart s.clock]

theorem dueView_sublist (s : State) : (dueView s).Sublist
    (((s.cvu.peers.map (·.number)).flatMap fun n =>
        [.staleExpiry s.clock n, .lostExpiry s.clock n, .helmAgeExpiry s.clock n]) ++
      [.helmPeriodExpiry s.clock] ++ [.graceExpiry s.clock] ++ [.muteExpiry s.clock]) := by
  rw [List.flatMap_map]
  exact (((sublist_flatMap (duePeer_sublist s) _).append (dueOne_sublist _ _)).append (dueOne_sublist _ _)).append
    (dueOne_sublist _ _)

theorem dueCommands_sublist (s : State) : (dueCommands s).Sublist (allTimers s) :=
  ((((((((duePort_sublist s).append (dueView_sublist s)).append (sublist_flatMap (dueShaft_sublist s) _)).append
    (sublist_flatMap (dueRudder_sublist s) _)).append (sublist_flatMap (dueWinch_sublist s) _)).append
    (dueOne_sublist _ _)).append (sublist_flatMap (dueChan_sublist s) _)).append (dueWindows_sublist s)).append
    (dueOne_sublist _ _)

/-- The commands of the things numbered `l` are all different where the numbers are, and each thing's commands are. -/
theorem nodup_timers {l : List Nat} (hl : l.Nodup) {f : Nat → List Instr} (hf : ∀ n, (f n).Nodup)
    (hdisj : ∀ n m c, c ∈ f n → c ∈ f m → n = m) : (l.flatMap f).Nodup :=
  List.nodup_flatMap.2 ⟨fun n _ => hf n, hl.imp fun hne c hn hm => hne (hdisj _ _ c hn hm)⟩

/-- The place in `allTimers` of the timers of one kind of thing: the port's, the view's, the shafts' and so on. -/
def timerBlock : Instr → Nat
  | .staleExpiry _ _ | .lostExpiry _ _ | .helmAgeExpiry _ _ | .helmPeriodExpiry _ | .graceExpiry _ | .muteExpiry _ => 1
  | .controlStep _ _ | .dwellExpiry _ _ | .deviationExpiry _ _ => 2
  | .stallExpiry _ _ => 3
  | .haulTimeoutExpiry _ _ | .haulPulseExpiry _ _ | .releaseWaitExpiry _ _ | .releaseHoldExpiry _ _ => 4
  | .pullOffTimerExpiry _ => 5
  | .intervalExpiry _ _ => 6
  | .dutyWindowExpiry _ _ | .periodWindowExpiry _ _ => 7
  | .periodStart _ => 8
  | _ => 0

/-- The commands of `l` are all different, and all of the first `k` blocks. -/
def BlocksBelow (k : Nat) (l : List Instr) : Prop := l.Nodup ∧ ∀ c ∈ l, timerBlock c < k

theorem BlocksBelow.append {k : Nat} {l m : List Instr} (hl : BlocksBelow k l) (hm : m.Nodup)
    (hblock : ∀ c ∈ m, timerBlock c = k) : BlocksBelow (k + 1) (l ++ m) := by
  obtain ⟨hnodup, hbelow⟩ := hl
  refine ⟨List.nodup_append.2 ⟨hnodup, hm, ?_⟩, fun c hc => ?_⟩
  · rintro c hc d hd rfl
    exact absurd (hblock c hd) (hbelow c hc).ne
  · obtain hc | hc := List.mem_append.1 hc
    · exact Nat.lt_succ_of_lt (hbelow c hc)
    · exact (hblock c hc).symm ▸ Nat.lt_succ_self k

theorem viewTimers_nodup (t : Nat) {l : List Nat} (hl : l.Nodup) :
    ((l.flatMap fun n => [Instr.staleExpiry t n, .lostExpiry t n, .helmAgeExpiry t n]) ++
      [Instr.helmPeriodExpiry t] ++ [Instr.graceExpiry t] ++ [Instr.muteExpiry t]).Nodup := by
  have hpeers := nodup_timers hl (f := fun n => [.staleExpiry t n, .lostExpiry t n, .helmAgeExpiry t n])
    (by simp) (by simp)
  simp +contextual [List.nodup_append, hpeers, or_imp, forall_and]

/-- No two timers have the same command, where no station has two entries and no channel two engines. -/
theorem allTimers_nodup {s : State} (hp : (s.cvu.peers.map (·.number)).Nodup) (hh : (heldChans s).Nodup) :
    (allTimers s).Nodup := by
  have hport : BlocksBelow 1 [.joinTimerExpiry s.clock, .panelTimeout s.clock, .suspensionExpiry s.clock,
      .statusTimerExpiry s.clock, .fuelPeriodExpiry s.clock] := ⟨by simp, by simp [timerBlock]⟩
  have hview := hport.append (viewTimers_nodup s.clock hp) (by simp +contextual [timerBlock, or_imp])
  have hshafts := hview.append (nodup_timers (numbers_nodup s.sfc.length)
    (f := fun n => [.controlStep s.clock n, .dwellExpiry s.clock n, .deviationExpiry s.clock n]) (by simp) (by simp))
    (by simp +contextual [timerBlock, or_imp])
  have hrudders := hshafts.append (nodup_timers (numbers_nodup s.stc.rudders.length)
    (f := fun n => [.stallExpiry s.clock n]) (by simp) (by simp)) (by simp +contextual [timerBlock])
  have hwinches := hrudders.append (nodup_timers (numbers_nodup s.cpc.winches.length)
    (f := fun n => [.haulTimeoutExpiry s.clock n, .haulPulseExpiry s.clock n, .releaseWaitExpiry s.clock n,
        .releaseHoldExpiry s.clock n]) (by simp) (by simp)) (by simp +contextual [timerBlock, or_imp])
  have hpull := hwinches.append (List.nodup_singleton (.pullOffTimerExpiry s.clock)) (by simp +contextual [timerBlock])
  have hchans := hpull.append (nodup_timers (numbers_nodup s.pgu.chans.length)
    (f := fun n => [.intervalExpiry s.clock n]) (by simp) (by simp)) (by simp +contextual [timerBlock])
  have hwindows := hchans.append (nodup_timers hh
    (f := fun n => [.dutyWindowExpiry s.clock n, .periodWindowExpiry s.clock n]) (by simp) (by simp))
    (by simp +contextual [timerBlock, or_imp])
  exact (hwindows.append (List.nodup_singleton (.periodStart s.clock)) (by simp [timerBlock])).1

theorem tick_eq (s : State) : tick s = { s with
    clock := nextMoment s
    pending := shuffle (dueCommands { s with clock := nextMoment s }).length s.draws
      (dueCommands { s with clock := nextMoment s })
    draws := s.draws + ((dueCommands { s with clock := nextMoment s }).length - 1) } := rfl

/-- Nothing that decides which timers have expired is in the queue or in the counter of draws. -/
theorem hasExpired_queue {s : State} {q : List Instr} {d : Nat} {c : Instr} :
    HasExpired { s with pending := q, draws := d } c ↔ HasExpired s c := by
  cases c <;> rfl

/-- Settles O2: what a tick queues is a shuffling of what has fallen due at the next moment. -/
theorem emptyQueueTicks : Obligations.EmptyQueueTicks := by
  intro s hs
  have hmoment : s.clock < (s.now + 1) * 1000 := by
    simp only [State.now]
    omega
  obtain ⟨hlt, hle, hwin, hwhich⟩ := earliestWindow_spec s.clock s.pgu.engines hmoment
  have hstep : step s = .next (tick s) := by simp only [step, hs]
  rw [tick_eq, nextMoment] at hstep
  generalize earliestWindow s.clock ((s.now + 1) * 1000) s.pgu.engines = k at *
  have hperm := shuffle_perm (dueCommands { s with clock := k }).length s.draws (Nat.le_refl _)
  generalize shuffle (dueCommands { s with clock := k }).length s.draws (dueCommands { s with clock := k }) = q at *
  refine ⟨_, hstep, hlt, hle, hwin, hwhich, fun c => ?_, fun hp hh => ?_, ?_, hperm, rfl⟩
  · rw [hperm.mem_iff, mem_dueCommands]
    exact hasExpired_queue.symm
  · exact hperm.nodup_iff.2 ((allTimers_nodup (s := { s with clock := k }) hp hh).sublist (dueCommands_sublist _))
  · rw [hperm.length_eq]

end Sys2Proof.Machine
end

section
/-!
SUPPORT. What a notice among the SHU, the SFC, the STC, the CPC and the LIF leaves alone, and a recompute of the share with
its delivery, shaft by shaft (R28, R46).
-/

namespace Sys2Proof.Machine

/-! ## What a notice leaves alone -/

/-- From `s` to `t` only the SHU, the shafts, the rudders, the couplings, the drive lines, the convoy line and the attention
flags have changed: the blocks among which a notice goes round. -/
structure Told (s t : State) : Prop where
  pending : t.pending = s.pending
  clock : t.clock = s.clock
  draws : t.draws = s.draws
  cfg : t.cfg = s.cfg
  svp : t.svp = { s.svp with flags := t.svp.flags }
  cvu : t.cvu = s.cvu
  fau : t.fau = s.fau
  pgu : t.pgu = s.pgu

namespace Told

variable {s t u : State}

theorem refl (s : State) : Told s s := ⟨rfl, rfl, rfl, rfl, rfl, rfl, rfl, rfl⟩

theorem trans (h : Told s t) (k : Told t u) : Told s u where
  pending := k.pending.trans h.pending
  clock := k.clock.trans h.clock
  draws := k.draws.trans h.draws
  cfg := k.cfg.trans h.cfg
  svp := by rw [k.svp, h.svp]
  cvu := k.cvu.trans h.cvu
  fau := k.fau.trans h.fau
  pgu := k.pgu.trans h.pgu

theorem ite (c : Prop) [Decidable c] (h : Told s t) : Told s (if c then t else s) := by
  split
  · exact h
  · exact refl s

/-- A reaction that leaves the convoy view and the fuel books is a notice. -/
theorem ofReacts (h : Reacts s t) (hv : t.cvu = s.cvu) (hf : t.fau = s.fau) : Told s t :=
  ⟨h.pending, h.clock, h.draws, h.cfg, h.svp, hv, hf, h.pgu⟩

theorem now (h : Told s t) : t.now = s.now := by rw [State.now, h.clock, State.now]

theorem stationTime (h : Told s t) : t.stationTime = s.stationTime := by rw [State.stationTime, h.clock, State.stationTime]

theorem mode (h : Told s t) : t.svp.mode = s.svp.mode := by rw [h.svp]

theorem panel (h : Told s t) : t.svp.panel = s.svp.panel := by rw [h.svp]

theorem reply (h : Told s t) : t.svp.reply = s.svp.reply := by rw [h.svp]

theorem peerOf (h : Told s t) (n : Nat) : peerOf n t = peerOf n s := by simp only [Machine.peerOf, h.cvu]

theorem boundDead (h : Told s t) (k : GaugeKind) (b : Option Nat) : boundDead k b t = boundDead k b s := by
  simp only [Machine.boundDead, chanOf, chanDead, h.cfg, h.pgu]

end Told

theorem shu_told (v : Shu) (s : State) : Told s { s with shu := v } := ⟨rfl, rfl, rfl, rfl, rfl, rfl, rfl, rfl⟩

theorem lif_told (l : Lif) (s : State) : Told s { s with lif := l } := ⟨rfl, rfl, rfl, rfl, rfl, rfl, rfl, rfl⟩

theorem cpc_told (c : Cpc) (s : State) : Told s { s with cpc := c } := ⟨rfl, rfl, rfl, rfl, rfl, rfl, rfl, rfl⟩

theorem raiseFlag_told (f : Flag) (s : State) : Told s (raiseFlag f s) := ⟨rfl, rfl, rfl, rfl, rfl, rfl, rfl, rfl⟩

theorem modShaft_told (n : Nat) (f : Shaft → Shaft) (s : State) : Told s (modShaft n f s) :=
  ⟨rfl, rfl, rfl, rfl, rfl, rfl, rfl, rfl⟩

theorem modWinch_told (n : Nat) (f : Winch → Winch) (s : State) : Told s (modWinch n f s) := cpc_told _ s

theorem modRudder_told (n : Nat) (f : Rudder → Rudder) (s : State) : Told s (modRudder n f s) :=
  ⟨rfl, rfl, rfl, rfl, rfl, rfl, rfl, rfl⟩

theorem stcNotice_told (s : State) : Told s (stcNotice s) := ⟨rfl, rfl, rfl, rfl, rfl, rfl, rfl, rfl⟩

theorem writeDuty_told (a : Assignment) (d : Nat) (s : State) : Told s (writeDuty a d s) := by
  rw [writeDuty_only]
  exact ⟨rfl, rfl, rfl, rfl, rfl, rfl, rfl, rfl⟩

/-! ## One record of a list visited number by number -/

/-- A fold over different numbers visits `n` once: what the other visits keep holds up to that visit, and after it. -/
theorem foldl_visits {σ : Type} {R : σ → σ → Prop} (refl : ∀ s, R s s) (trans : ∀ {a b c}, R a b → R b c → R a c)
    {f : σ → Nat → σ} {n : Nat} (h : ∀ s m, m ≠ n → R s (f s m)) {l : List Nat} (hl : l.Nodup) (hn : n ∈ l) (s : σ) :
    ∃ a, R s a ∧ R (f a n) (l.foldl f s) := by
  have keeps {k : List Nat} (hk : n ∉ k) (s : σ) : R s (k.foldl f s) := by
    induction k generalizing s with
    | nil => exact refl s
    | cons m ms ih =>
      rw [List.mem_cons, not_or] at hk
      exact trans (h s m (Ne.symm hk.1)) (ih hk.2 _)
  obtain ⟨pre, post, rfl⟩ := List.append_of_mem hn
  rw [List.nodup_append] at hl
  obtain ⟨-, hpost, hdisj⟩ := hl
  have hpre : n ∉ pre := fun hin => hdisj n hin n (by simp) rfl
  refine ⟨pre.foldl f s, keeps hpre s, ?_⟩
  rw [List.foldl_append, List.foldl_cons]
  exact keeps (List.nodup_cons.1 hpost).1 _

theorem mem_numbers_of_getN {α : Type} {l : List α} {n : Nat} {x : α} (h : getN l n = some x) : n ∈ numbers l.length :=
  mem_numbers.2 (getN_lt h)

/-! ## Lines written before and after -/

/-- No line of shaft `n` is one of another shaft. -/
theorem ofShaft_unique {n m : Nat} {a : Assignment} (h : ofShaft n a) (k : ofShaft m a) : m = n := by
  unfold ofShaft at h k
  aesop

theorem ofWinch_unique {n m : Nat} {a : Assignment} (h : ofWinch n a) (k : ofWinch m a) : m = n := by
  unfold ofWinch at h k
  aesop

/-- What the lines of a shaft show of one operation, they show of all that went before and after on other lines. -/
theorem ShaftLines.between {n : Nat} {first : Prop} {r q : Shaft} {s a b u : State} {P : Assignment → Prop}
    (hP : ∀ x, ofShaft n x → ¬P x) (h1 : OnlyLines P s a) (h2 : OnlyLines P b u) (hb : b.cfg = a.cfg)
    (h : ShaftLines n first r q a b) : ShaftLines n first r q s u := by
  obtain ⟨hon, hoff, hduty, hgon, hgoff⟩ := h
  have written {x : Assignment} {v : Nat} (hx : ofShaft n x) (k : Written x v a b) : Written x v s u :=
    ((h1.2 x (hP x hx)).written h1.1 k).kept (hb.trans h1.1) (h2.2 x (hP x hx))
  have kept {x : Assignment} (hx : ofShaft n x) (k : LineKept x a b) : LineKept x s u :=
    ((h1.2 x (hP x hx)).trans h1.1 k).trans (hb.trans h1.1) (h2.2 x (hP x hx))
  refine ⟨fun hc => ?_, fun hd hf => ?_, hduty, fun hw => written (.inl rfl) (hgon hw), fun hw => kept (.inl rfl) (hgoff hw)⟩
  · obtain ⟨hcw, hahead, hastern⟩ := hon hc
    exact ⟨hcw, written (.inr (.inl rfl)) hahead, written (.inr (.inr rfl)) hastern⟩
  · obtain ⟨hcw, hahead, hastern⟩ := hoff hd hf
    exact ⟨hcw, kept (.inr (.inl rfl)) hahead, kept (.inr (.inr rfl)) hastern⟩

/-- The same for the valve lines of a winch. -/
theorem Valves.between {n v w : Nat} {r q : Winch} {s a b u : State} {P : Assignment → Prop}
    (hP : ∀ x, ofWinch n x → ¬P x) (h1 : OnlyLines P s a) (h2 : OnlyLines P b u) (hb : b.cfg = a.cfg)
    (h : Valves n v w r q a b) : Valves n v w r q s u := by
  obtain ⟨hh, hp, hhaul, hpay⟩ := h
  have written {x : Assignment} {v : Nat} (hx : ofWinch n x) (k : Written x v a b) : Written x v s u :=
    ((h1.2 x (hP x hx)).written h1.1 k).kept (hb.trans h1.1) (h2.2 x (hP x hx))
  exact ⟨hh, hp, fun hw => written (.inl rfl) (hhaul hw), fun hw => written (.inr rfl) (hpay hw)⟩

/-! ## A delivery to one shaft (R46) -/

/-- From `s` to `t` shaft `n` and its lines are as they were, and nothing but shafts and lines has changed. -/
def ShaftKept (n : Nat) (s t : State) : Prop :=
  getN t.sfc n = getN s.sfc n ∧ OnlyLines (fun a => ∃ m, m ≠ n ∧ ofShaft m a) s t ∧ t = { s with sfc := t.sfc, dlu := t.dlu }

theorem ShaftKept.refl (n : Nat) (s : State) : ShaftKept n s s := ⟨rfl, .refl s, rfl⟩

theorem ShaftKept.trans {n : Nat} {s t u : State} (h : ShaftKept n s t) (k : ShaftKept n t u) : ShaftKept n s u := by
  obtain ⟨hget, hlines, heq⟩ := h
  obtain ⟨kget, klines, keq⟩ := k
  refine ⟨kget.trans hget, hlines.trans klines, ?_⟩
  rw [keq, heq]

/-- A delivery changes a shaft and its lines, where it has a part for it (R46, R60, R61). -/
theorem deliverTo_cases (res : ShareResult) (av : List (Nat × Nat)) (s : State) (n : Nat) :
    (∃ r c t a, getN s.sfc n = some r ∧ getN s.cfg.shafts n = some c ∧ getN res.targets n = some t ∧
      getN av n = some a ∧ deliverTo res av s n =
        shaftOutputs n r.dir false (modShaft n (takeDelivery s.now s.svp.mode c t res.targetWay a) s)) ∨
      deliverTo res av s n = s := by
  unfold deliverTo
  split
  · exact .inl ⟨_, _, _, _, by assumption, by assumption, by assumption, by assumption, rfl⟩
  · exact .inr rfl

theorem engage_eq (m : Mode) (r : Shaft) : engage m r = { r with dir := (engage m r).dir } := by
  unfold engage
  split
  · split <;> rfl
  · rfl

theorem dwellIfDue_eq (now : Nat) (c : ShaftCfg) (r : Shaft) :
    dwellIfDue now c r = { r with dir := (dwellIfDue now c r).dir, dwellAt := (dwellIfDue now c r).dwellAt } := by
  unfold dwellIfDue
  split <;> rfl

theorem clampShaft_eq (r : Shaft) : clampShaft r = { r with
    p := match r.dir with
      | .ahead => min r.p r.aAhead
      | .astern => min r.p r.aAstern
      | .neutral => r.p
      | .dwell => r.p } := by
  unfold clampShaft
  cases hd : r.dir <;> simp only [← hd]

/-- What a delivery leaves of a shaft record. -/
theorem takeDelivery_eq (now : Nat) (m : Mode) (c : ShaftCfg) (t : Nat) (w : Option Way) (a : Nat × Nat) (r : Shaft) :
    let q := takeDelivery now m c t w a r
    q.target = t ∧ q.targetWay = (if t = 0 then engagedWay r.dir else w) ∧ q.aAhead = a.1 ∧ q.aAstern = a.2 ∧
      q.p = (match r.dir with
        | .ahead => min r.p a.1
        | .astern => min r.p a.2
        | .neutral => r.p
        | .dwell => r.p) ∧
      q.commanded = curveRpm c q.p ∧ q.duty = governorDuty c q.commanded ∧
      q = { r with
        dir := q.dir, p := q.p, target := q.target, targetWay := q.targetWay, aAhead := q.aAhead
        aAstern := q.aAstern, dwellAt := q.dwellAt, commanded := q.commanded, duty := q.duty } := by
  intro q
  have hq : q = retune c (dwellIfDue now c (engage m (clampShaft { r with
      target := t, targetWay := if t = 0 then engagedWay r.dir else w, aAhead := a.1, aAstern := a.2 }))) := rfl
  rw [dwellIfDue_eq, engage_eq, clampShaft_eq] at hq
  rw [hq]
  exact ⟨rfl, rfl, rfl, rfl, rfl, rfl, rfl, rfl⟩

/-- A delivery settles the direction state of the shaft (R50, R51). -/
theorem takeDelivery_settled (now : Nat) (m : Mode) (c : ShaftCfg) (t : Nat) (w : Option Way) (a : Nat × Nat) (r : Shaft) :
    DirectionSettled now m c r (takeDelivery now m c t w a r) := by
  refine settled_delivery now m c ?_ ?_
  · rw [clampShaft_eq]
  · rw [clampShaft_eq]

/-- The shaft that takes a delivery: its record but for what is written, and its lines. -/
theorem deliverTo_shaft {res : ShareResult} {av : List (Nat × Nat)} {s : State} {n : Nat} {r : Shaft} {c : ShaftCfg}
    {t : Nat} {a : Nat × Nat} (hr : getN s.sfc n = some r) (hc : getN s.cfg.shafts n = some c)
    (ht : getN res.targets n = some t) (ha : getN av n = some a) :
    ∃ q, getN (deliverTo res av s n).sfc n = some q ∧
      q = { takeDelivery s.now s.svp.mode c t res.targetWay a r with
        dutyWritten := q.dutyWritten, clutchWritten := q.clutchWritten } ∧
      ShaftLines n False r q s (deliverTo res av s n) := by
  have hdeliver : deliverTo res av s n =
      shaftOutputs n r.dir false (modShaft n (takeDelivery s.now s.svp.mode c t res.targetWay a) s) := by
    simp only [deliverTo, hr, hc, ht, ha]
  obtain ⟨-, -, -, -, -, -, -, heq⟩ := takeDelivery_eq s.now s.svp.mode c t res.targetWay a r
  obtain ⟨q, hq, hqe, -, hlines, -⟩ := shaftOutputs_lines (takeDelivery s.now s.svp.mode c t res.targetWay a) false hr
    (by rw [heq]) (by rw [heq])
  rw [hdeliver]
  refine ⟨q, hq, ?_, ?_⟩
  · rw [hqe]
  · simpa using hlines

/-- A delivery leaves every other shaft and every other block. -/
theorem deliverTo_rest (res : ShareResult) (av : List (Nat × Nat)) (s : State) (m : Nat) :
    (∀ n, n ≠ m → getN (deliverTo res av s m).sfc n = getN s.sfc n) ∧
      deliverTo res av s m = { s with sfc := (deliverTo res av s m).sfc, dlu := (deliverTo res av s m).dlu } := by
  obtain ⟨r, c, t, a, hr, -, -, -, heq⟩ | heq := deliverTo_cases res av s m
  · obtain ⟨-, -, -, -, -, -, -, hrec⟩ := takeDelivery_eq s.now s.svp.mode c t res.targetWay a r
    obtain ⟨q, -, -, hother, -, hframe⟩ := shaftOutputs_lines (takeDelivery s.now s.svp.mode c t res.targetWay a) false
      hr (by rw [hrec]) (by rw [hrec])
    rw [heq]
    exact ⟨hother, hframe⟩
  · rw [heq]
    exact ⟨fun _ _ => rfl, rfl⟩

theorem deliverTo_kept (res : ShareResult) (av : List (Nat × Nat)) (s : State) {n m : Nat} (h : m ≠ n) :
    ShaftKept n s (deliverTo res av s m) := by
  obtain ⟨hother, hframe⟩ := deliverTo_rest res av s m
  exact ⟨hother n (Ne.symm h), (deliverTo_only res av s m).mono fun _ ha => ⟨m, h, ha⟩, hframe⟩

/-- Every shaft delivered to once, in number order (R46). -/
def deliverAll (res : ShareResult) (av : List (Nat × Nat)) (s : State) : State :=
  (numbers s.sfc.length).foldl (deliverTo res av) s

theorem deliverAll_frame (res : ShareResult) (av : List (Nat × Nat)) (s : State) :
    deliverAll res av s = { s with sfc := (deliverAll res av s).sfc, dlu := (deliverAll res av s).dlu } := by
  have h := foldl_keeps (R := fun s t : State => t = { s with sfc := t.sfc, dlu := t.dlu }) (fun _ => rfl)
    (fun h k => by rw [k, h]) (fun s n => (deliverTo_rest res av s n).2) (numbers s.sfc.length) s
  exact h

/-- Each shaft after every shaft has been delivered to. -/
theorem deliverAll_shaft {res : ShareResult} {av : List (Nat × Nat)} {s : State} {n : Nat} {r : Shaft} {c : ShaftCfg}
    {t : Nat} {a : Nat × Nat} (hr : getN s.sfc n = some r) (hc : getN s.cfg.shafts n = some c)
    (ht : getN res.targets n = some t) (ha : getN av n = some a) :
    ∃ q, getN (deliverAll res av s).sfc n = some q ∧
      q = { takeDelivery s.now s.svp.mode c t res.targetWay a r with
        dutyWritten := q.dutyWritten, clutchWritten := q.clutchWritten } ∧
      ShaftLines n False r q s (deliverAll res av s) := by
  obtain ⟨b, ⟨hget, hbefore, hb⟩, ⟨hget', hafter, -⟩⟩ := foldl_visits (R := ShaftKept n) (ShaftKept.refl n) ShaftKept.trans
    (f := deliverTo res av) (fun s m h => deliverTo_kept res av s h) (numbers_nodup s.sfc.length) (mem_numbers_of_getN hr) s
  have hcfg : b.cfg = s.cfg := hbefore.1
  obtain ⟨q, hq, hqe, hlines⟩ := deliverTo_shaft (s := b) (n := n) (res := res) (av := av) (hget.trans hr) (hcfg ▸ hc) ht ha
  have hown : ∀ x, ofShaft n x → ¬∃ m, m ≠ n ∧ ofShaft m x := fun x hx ⟨m, hm, hmx⟩ => hm (ofShaft_unique hx hmx)
  refine ⟨q, hget'.trans hq, ?_, hlines.between hown hbefore hafter (deliverTo_only res av b n).1⟩
  have hnow : b.now = s.now := by rw [hb]; rfl
  have hmode : b.svp.mode = s.svp.mode := by rw [hb]
  rw [hnow, hmode] at hqe
  exact hqe

/-! ## A recompute of the share with its delivery (R28, R37, R46) -/

/-- The state that a recompute hands to its delivery: its results kept, SHORTFALL raised on the passage to yes (R28, R37). -/
def shareKept (s : State) : State :=
  raiseShortfall s.shu.shortfall { s with shu := keepShare (shareResult s) (availabilities s) s.shu }

theorem raiseShortfall_eq (was : Bool) (s : State) :
    raiseShortfall was s = { s with svp := { s.svp with flags := (raiseShortfall was s).svp.flags } } := by
  unfold raiseShortfall
  split <;> rfl

theorem shareKept_eq (s : State) : shareKept s = { s with
    svp := { s.svp with flags := (shareKept s).svp.flags }
    shu := keepShare (shareResult s) (availabilities s) s.shu } := by
  unfold shareKept
  rw [raiseShortfall_eq]

theorem recomputeShare_configuring {s : State} (hm : s.svp.mode = .configuring) : recomputeShare s = s := by
  simp [recomputeShare, configuring, hm]

theorem recomputeShare_eq {s : State} (hm : s.svp.mode ≠ .configuring) : recomputeShare s =
    noticeDirs (shaftDirs s) (deliverAll (shareResult s) (availabilities s) (shareKept s)) := by
  have hlen : (shareKept s).sfc.length = s.sfc.length := by rw [shareKept_eq]
  simp only [recomputeShare, configuring, hm, decide_false, deliverAll, hlen]
  rfl

theorem noticeDirs_eq (old : List Dir) (s : State) : noticeDirs old s = { s with stc := (noticeDirs old s).stc } := by
  unfold noticeDirs
  split <;> rfl

/-- What a recompute has changed: the SHU's results, the shafts and their lines, SHORTFALL, and the rudders it has told. -/
theorem recomputeShare_frame {s : State} (hm : s.svp.mode ≠ .configuring) : recomputeShare s = { s with
    svp := { s.svp with flags := (shareKept s).svp.flags }
    shu := keepShare (shareResult s) (availabilities s) s.shu
    sfc := (recomputeShare s).sfc, dlu := (recomputeShare s).dlu, stc := (recomputeShare s).stc } := by
  rw [recomputeShare_eq hm, noticeDirs_eq, deliverAll_frame, shareKept_eq]

theorem recomputeShare_told (s : State) : Told s (recomputeShare s) := by
  by_cases hm : s.svp.mode = .configuring
  · rw [recomputeShare_configuring hm]
    exact .refl s
  · rw [recomputeShare_frame hm]
    exact ⟨rfl, rfl, rfl, rfl, rfl, rfl, rfl, rfl⟩

@[simp] theorem recomputeShare_cpc (s : State) : (recomputeShare s).cpc = s.cpc := by
  by_cases hm : s.svp.mode = .configuring
  · rw [recomputeShare_configuring hm]
  · rw [recomputeShare_frame hm]

theorem recomputeShare_shu {s : State} (hm : s.svp.mode ≠ .configuring) :
    (recomputeShare s).shu = keepShare (shareResult s) (availabilities s) s.shu := by
  rw [recomputeShare_frame hm]

/-- A recompute leaves what the SHU has been told: contributing, departing, muted and φ. -/
theorem recomputeShare_told_shu (s : State) :
    (recomputeShare s).shu.contributing = s.shu.contributing ∧ (recomputeShare s).shu.departing = s.shu.departing ∧
      (recomputeShare s).shu.muted = s.shu.muted ∧ (recomputeShare s).shu.phi = s.shu.phi := by
  by_cases hm : s.svp.mode = .configuring
  · rw [recomputeShare_configuring hm]
    exact ⟨rfl, rfl, rfl, rfl⟩
  · rw [recomputeShare_shu hm]
    exact ⟨rfl, rfl, rfl, rfl⟩

theorem flagBit_injective {f g : Flag} (h : flagBit f = flagBit g) : f = g := by
  cases f <;> cases g <;> first | rfl | exact absurd h (by simp [flagBit])

/-- A flag after one has been raised (R196). -/
theorem flagSet_raiseFlag (f g : Flag) (s : State) : flagSet f (raiseFlag g s) = (flagSet f s || decide (f = g)) := by
  have hbit : (BitVec.ofNat 14 (2 ^ flagBit g)).getLsbD (flagBit f) = decide (f = g) := by
    have hlt : flagBit f < 14 := by cases f <;> simp [flagBit]
    rw [BitVec.getLsbD_ofNat, Nat.testBit_two_pow]
    simp only [hlt, decide_true, Bool.true_and, decide_eq_decide]
    exact ⟨fun h => (flagBit_injective h).symm, fun h => h ▸ rfl⟩
  simp only [flagSet, raiseFlag, BitVec.getLsbD_or, hbit]

/-- The flags after a recompute: SHORTFALL is raised on the passage from no to yes alone (R37). -/
theorem recomputeShare_flags {s : State} (hm : s.svp.mode ≠ .configuring) (f : Flag) : flagSet f (recomputeShare s) =
    (flagSet f s || decide (f = .shortfall ∧ s.shu.shortfall = false ∧ (recomputeShare s).shu.shortfall = true)) := by
  rw [recomputeShare_shu hm]
  have hflags : flagSet f (recomputeShare s) = flagSet f (shareKept s) := by
    simp only [flagSet]
    rw [recomputeShare_frame hm]
  have hshu (v : Shu) : flagSet f { s with shu := v } = flagSet f s := rfl
  rw [hflags]
  cases hnow : (shareResult s).shortfall <;> cases hwas : s.shu.shortfall <;>
    simp [shareKept, raiseShortfall, keepShare, hnow, hwas, flagSet_raiseFlag, hshu]

/-- Lists whose records look the same, number by number, look the same. -/
theorem map_eq_of_getN {α β : Type} {g : α → β} {l k : List α} (h : ∀ n, (getN l n).map g = (getN k n).map g) :
    l.map g = k.map g :=
  List.ext_getElem? fun i => by simpa using h (i + 1)

theorem deliverTo_engines (res : ShareResult) (av : List (Nat × Nat)) (s : State) (n : Nat) :
    (deliverTo res av s n).sfc.map (·.engine) = s.sfc.map (·.engine) := by
  refine map_eq_of_getN fun m => ?_
  by_cases hm : m = n
  · subst hm
    obtain ⟨r, c, t, a, hr, hc, ht, ha, -⟩ | heq := deliverTo_cases res av s m
    · obtain ⟨q, hq, hqe, -⟩ := deliverTo_shaft (s := s) hr hc ht ha
      obtain ⟨-, -, -, -, -, -, -, hrec⟩ := takeDelivery_eq s.now s.svp.mode c t res.targetWay a r
      rw [hq, hr, hqe, hrec]
      rfl
    · rw [heq]
  · rw [(deliverTo_rest res av s n).1 m hm]

theorem recomputeShare_engines (s : State) : (recomputeShare s).sfc.map (·.engine) = s.sfc.map (·.engine) := by
  by_cases hm : s.svp.mode = .configuring
  · rw [recomputeShare_configuring hm]
  · have hall := foldl_keeps (R := fun s t : State => t.sfc.map (·.engine) = s.sfc.map (·.engine)) (fun _ => rfl)
      (fun h k => k.trans h) (deliverTo_engines (shareResult s) (availabilities s)) (numbers (shareKept s).sfc.length)
      (shareKept s)
    rw [recomputeShare_eq hm, noticeDirs_eq]
    refine hall.trans ?_
    rw [shareKept_eq]

/-- A recompute leaves what the availabilities come of (R29 to R32). -/
theorem shaftAvail_congr {s t : State} (hcfg : t.cfg = s.cfg) (hfau : t.fau.tanks = s.fau.tanks)
    (hcpl : t.cpc.fCpl = s.cpc.fCpl) {q r : Shaft} (he : q.engine = r.engine) (c : ShaftCfg) :
    shaftAvail t c q = shaftAvail s c r := by
  simp only [shaftAvail, fuelFactor, hcfg, hfau, hcpl, he]

theorem getN_zipWith {α β γ : Type} (f : α → β → γ) (l : List α) (k : List β) (n : Nat) {a : α} {b : β}
    (ha : getN l n = some a) (hb : getN k n = some b) : getN (List.zipWith f l k) n = some (f a b) := by
  cases n with
  | zero => cases ha
  | succ i => simp_all [List.getElem?_zipWith]

/-- The availability of a shaft among all (R32). -/
theorem getN_availabilities {s : State} {n : Nat} {r : Shaft} {c : ShaftCfg} (hr : getN s.sfc n = some r)
    (hc : getN s.cfg.shafts n = some c) : getN (availabilities s) n = some (shaftAvail s c r) :=
  getN_zipWith _ _ _ n hc hr

theorem placeRemainder_length (as : List Nat) (fuel : Nat) (served : List Nat) (rem : Nat) (ts : List Nat) :
    (placeRemainder as fuel served rem ts).length = ts.length := by
  induction fuel generalizing served rem ts with
  | zero => rfl
  | succ fuel ih =>
    unfold placeRemainder
    split
    · rw [ih, modN_length]
    · rfl

theorem splitShare_length (b c : Nat) (as : List Nat) : (splitShare b c as).length = as.length := by
  simp [splitShare, placeRemainder_length, baseTargets]

/-- A share computation has a target for each availability (R36, R40, R42, R43). -/
theorem shareResult_length (s : State) : (shareResult s).targets.length = (availabilities s).length := by
  unfold shareResult
  dsimp only
  split
  · split
    · simp [localTargets]
    · simp [noShare]
  · split
    · split
      · unfold contributedShare
        dsimp only
        split
        · simp [splitShare_length]
        · simp [noShare]
      · simp [noShare]
    · simp [noShare]

theorem shareResult_target {s : State} {n : Nat} {a : Nat × Nat} (ha : getN (availabilities s) n = some a) :
    ∃ t, getN (shareResult s).targets n = some t :=
  getN_of_le (getN_lt ha).1 (shareResult_length s ▸ (getN_lt ha).2)

/-- The part of a share's result that shaft `n` of `s` takes, as it stands in `u` (R46, R49 to R51, R59 to R61). -/
def TakesPart (s u : State) (n : Nat) (c : ShaftCfg) (r q : Shaft) (t : Nat) : Prop :=
  getN (shareResult s).targets n = some t ∧ getN u.sfc n = some q ∧
    q = { takeDelivery s.now s.svp.mode c t (shareResult s).targetWay (shaftAvail s c r) r with
      dutyWritten := q.dutyWritten, clutchWritten := q.clutchWritten } ∧
    ShaftLines n False r q s u ∧ (q.dir ≠ r.dir → SteeringInForce u)

theorem noticeDirs_changed {old : List Dir} {s : State} (h : shaftDirs s ≠ old) : noticeDirs old s = stcNotice s :=
  if_neg h

/-- Each shaft after a recompute. -/
theorem recomputeShare_shaft {s : State} (hm : s.svp.mode ≠ .configuring) {n : Nat} {r : Shaft} {c : ShaftCfg}
    (hr : getN s.sfc n = some r) (hc : getN s.cfg.shafts n = some c) :
    ∃ q t, TakesPart s (recomputeShare s) n c r q t := by
  have ha := getN_availabilities hr hc
  obtain ⟨t, ht⟩ := shareResult_target ha
  have hkept := shareKept_eq s
  have hr' : getN (shareKept s).sfc n = some r := by rw [hkept]; exact hr
  have hc' : getN (shareKept s).cfg.shafts n = some c := by rw [hkept]; exact hc
  obtain ⟨q, hq, hqe, hlines⟩ := deliverAll_shaft hr' hc' ht ha
  have hnow : (shareKept s).now = s.now := by rw [hkept]; rfl
  have hmode : (shareKept s).svp.mode = s.svp.mode := by rw [hkept]
  rw [hnow, hmode] at hqe
  have hstart : OnlyLines (fun _ => False) s (shareKept s) := .same (by rw [hkept]) (by rw [hkept])
  refine ⟨q, t, ht, ?_, hqe, ?_, fun hdir => ?_⟩
  · rw [recomputeShare_eq hm, noticeDirs_eq]
    exact hq
  · rw [recomputeShare_eq hm]
    refine hlines.between (P := fun _ => False) (fun _ _ h => h) hstart (noticeDirs_only _ _) ?_
    rw [deliverAll_frame]
  · have hchanged : shaftDirs (deliverAll (shareResult s) (availabilities s) (shareKept s)) ≠ shaftDirs s := by
      intro h
      have hn := congrArg (fun l => getN l n) h
      simp only [shaftDirs, getN_map, hq, hr, Option.map_some, Option.some.injEq] at hn
      exact hdir hn
    rw [recomputeShare_eq hm, noticeDirs_changed hchanged]
    exact stcNotice_inForce _

end Sys2Proof.Machine
end

section
/-!
SUPPORT. What a recompute leaves in force: the share, the targets and the availabilities that the inputs in force give
(R28 to R43), whatever they were before.
-/

namespace Sys2Proof.Machine

/-! ## Availabilities in the rules' words (R29 to R33) -/

theorem ruleAvail_eq (s : State) (w : Way) (c : ShaftCfg) (r : Shaft) :
    ruleAvail s w c r = inWay w (shaftAvail s c r) := by
  cases w <;> rfl

theorem ruleAvails_eq (s : State) (w : Way) : ruleAvails s w = (availabilities s).map (inWay w) := by
  simp only [ruleAvails, availabilities, List.map_zipWith]
  exact congrArg (fun f => List.zipWith f s.cfg.shafts s.sfc) (funext₂ (ruleAvail_eq s w))

/-- From `s` to `u` the availabilities have kept what they come of (R29 to R32). -/
structure SameAvail (s u : State) : Prop where
  cfg : u.cfg = s.cfg
  tanks : u.fau.tanks = s.fau.tanks
  fCpl : u.cpc.fCpl = s.cpc.fCpl
  engines : u.sfc.map (·.engine) = s.sfc.map (·.engine)

theorem SameAvail.avail {s u : State} (h : SameAvail s u) {q r : Shaft} (he : q.engine = r.engine) (c : ShaftCfg) :
    shaftAvail u c q = shaftAvail s c r := shaftAvail_congr h.cfg h.tanks h.fCpl he c

/-- A shaft by its engine alone. -/
def engineOnly (e : Engine) : Shaft := { engine := e }

theorem SameAvail.availabilities {s u : State} (h : SameAvail s u) : availabilities u = availabilities s := by
  have hmap (v : State) : Machine.availabilities v =
      List.zipWith (fun c e => shaftAvail v c (engineOnly e)) v.cfg.shafts (v.sfc.map (·.engine)) := by
    rw [List.zipWith_map_right]
    rfl
  rw [hmap u, hmap s, h.cfg, h.engines]
  exact congrArg (fun f => List.zipWith f _ _) (funext₂ fun c e => h.avail rfl c)

theorem recomputeShare_sameAvail (s : State) : SameAvail s (recomputeShare s) where
  cfg := (recomputeShare_told s).cfg
  tanks := by rw [(recomputeShare_told s).fau]
  fCpl := by rw [recomputeShare_cpc]
  engines := recomputeShare_engines s

/-! ## The contributor set in the rules' words (R36) -/

theorem ruleMembers_eq (s : State) (w : Way) : ruleMembers s w =
    contributors w (capacity w (availabilities s)) s.shu.phi s.cfg.station s.cvu.peers := by
  have hpeer : (fun p : Peer => match p.statusPart with
      | some st =>
        if p.state ≠ .lost ∧ st.contributing = true ∧ st.mode = .running then
          let c := min 12000 (match w with | .ahead => st.cAhead | .astern => st.cAstern)
          some ({ number := p.number, c := c, w := c * max 500 (min 1000 st.phi) / 1000 } : Member)
        else none
      | none => none) = peerMember w := by
    funext p
    cases hs : p.statusPart with
    | none => simp [peerMember, hs]
    | some st =>
      simp only [peerMember, hs, memberOf, clampNat, Bool.and_eq_true, decide_eq_true_eq, counted_iff, and_assoc,
        Nat.zero_max] <;> rfl
  have hreal : (fun m : Member => decide (m.c ≠ 0 ∧ m.w ≠ 0)) = realMember := by
    funext m
    simp [realMember]
  simp only [ruleMembers, ruleAvails_eq]
  rw [hreal]
  exact congrArg (fun f => List.filter realMember (_ :: List.filterMap f s.cvu.peers)) hpeer

/-- Every contributor is a real member (R36). -/
theorem contributors_real {w : Way} {c phi own : Nat} {l : List Peer} {m : Member} (h : m ∈ contributors w c phi own l) :
    realMember m = true := (List.mem_filter.1 h).2

/-- What a station that is a member takes is the take of one of its members (R37, R38). -/
theorem takeOf_ruleTake {e own : Nat} {ms : List Member} (hreal : ∀ m ∈ ms, realMember m = true)
    (hown : ∃ m ∈ ms, m.number = own) : ∃ m ∈ ms, m.number = own ∧ RuleTake e ms m (takeOf own (takes e ms)) := by
  obtain ⟨hall, hwalk⟩ := takes_eq (e := e) hreal
  have found {l : List (Nat × Nat)} (hl : ∃ x ∈ l, x.1 = own) : ∃ x ∈ l, x.1 = own ∧ takeOf own l = x.2 := by
    obtain ⟨y, hy, hyo⟩ := hl
    cases hf : l.find? fun x => decide (x.1 = own) with
    | none => exact absurd (List.find?_eq_none.1 hf y hy) (by simp [hyo])
    | some x => exact ⟨x, List.mem_of_find?_eq_some hf, by simpa using List.find?_some hf, by simp only [takeOf, hf]⟩
  by_cases he : (ms.map (·.c)).sum ≤ e
  · rw [hall he]
    obtain ⟨m, hm, hmo⟩ := hown
    obtain ⟨x, hx, hxo, htake⟩ := found (l := ms.map fun m => (m.number, m.c)) ⟨_, List.mem_map_of_mem hm, hmo⟩
    obtain ⟨k, hk, rfl⟩ := List.mem_map.1 hx
    exact ⟨k, hk, hxo, fun _ => htake, fun h => absurd he (Nat.not_le.2 h)⟩
  · obtain ⟨full, rest, hstops, htakes⟩ := hwalk (Nat.lt_of_not_le he)
    have hperm := hstops.1
    have hmem {m : Member} : m ∈ ms ↔ m ∈ full ∨ m ∈ rest := by rw [← hperm.mem_iff, List.mem_append]
    obtain ⟨m, hm, hmo⟩ := hown
    have hin : ∃ x ∈ takes e ms, x.1 = own := by
      rw [htakes]
      obtain hf | hr := hmem.1 hm
      · exact ⟨_, List.mem_append_left _ (List.mem_map_of_mem hf), hmo⟩
      · exact ⟨_, List.mem_append_right _ (List.mem_map_of_mem hr), hmo⟩
    obtain ⟨x, hx, hxo, htake⟩ := found hin
    rw [htakes, List.mem_append, List.mem_map, List.mem_map] at hx
    obtain ⟨k, hk, rfl⟩ | ⟨k, hk, rfl⟩ := hx
    · exact ⟨k, hmem.2 (.inl hk), hxo, fun h => absurd h he, fun _ => ⟨full, rest, hstops, .inl ⟨hk, htake⟩⟩⟩
    · exact ⟨k, hmem.2 (.inr hk), hxo, fun h => absurd h he, fun _ => ⟨full, rest, hstops, .inr ⟨hk, htake⟩⟩⟩

/-! ## The results of a share computation, case by case (R35 to R43) -/

theorem shareResult_localAhead {s : State} (hl : localApplied s = true) (hlever : 0 < s.svp.panel.lever) :
    shareResult s = { noShare s.shu.demand s.shu.demandWay (availabilities s).length with
      targetWay := some .ahead, targets := localTargets s.svp.panel.lever .ahead (availabilities s) } := by
  simp [shareResult, hl, wayOf, hlever]

theorem shareResult_localAstern {s : State} (hl : localApplied s = true) (hlever : s.svp.panel.lever < 0) :
    shareResult s = { noShare s.shu.demand s.shu.demandWay (availabilities s).length with
      targetWay := some .astern, targets := localTargets s.svp.panel.lever .astern (availabilities s) } := by
  simp [shareResult, hl, wayOf, hlever, Int.not_lt.2 hlever.le]

theorem shareResult_localStop {s : State} (hl : localApplied s = true) (hlever : s.svp.panel.lever = 0) :
    shareResult s = noShare s.shu.demand s.shu.demandWay (availabilities s).length := by
  simp [shareResult, hl, wayOf, hlever]

theorem shareResult_idle {s : State} (hl : localApplied s = false) (hc : contributes s = false) :
    shareResult s = noShare s.shu.demand s.shu.demandWay (availabilities s).length := by
  simp [shareResult, hl, hc]

theorem shareResult_noDemand {s : State} (hl : localApplied s = false) (hc : contributes s = true) (hd : s.cvu.effD = 0) :
    shareResult s = noShare (demandOf s.cvu.effD s.cvu.powerNom) none (availabilities s).length := by
  simp [shareResult, hl, hc, wayOf, hd]

theorem shareResult_demand {s : State} {w : Way} (hl : localApplied s = false) (hc : contributes s = true)
    (hd : (w = .ahead ∧ 0 < s.cvu.effD) ∨ (w = .astern ∧ s.cvu.effD < 0)) :
    shareResult s = contributedShare s w (availabilities s) := by
  obtain ⟨rfl, hd⟩ | ⟨rfl, hd⟩ := hd
  · simp [shareResult, hl, hc, wayOf, hd]
  · simp [shareResult, hl, hc, wayOf, hd, Int.not_lt.2 hd.le]

/-- A target of 0 leaves the direction state (R50, R51). -/
theorem takeDelivery_dir_zero (now : Nat) (m : Mode) (c : ShaftCfg) (w : Option Way) (a : Nat × Nat) (r : Shaft) :
    (takeDelivery now m c 0 w a r).dir = r.dir := by
  obtain ⟨-, -, -, hkeep⟩ := takeDelivery_settled now m c 0 w a r
  obtain ⟨htarget, -⟩ := takeDelivery_eq now m c 0 w a r
  have hnone : (takeDelivery now m c 0 w a r).target ≠ 0 → False := fun h => h htarget
  exact (hkeep (.inl fun ⟨_, h, _⟩ => hnone h) fun ⟨_, h, _⟩ => hnone h).1

/-! ## What a recompute delivers -/

/-- Each shaft of `u` has taken the part of a share result that `s` gives it (R46). -/
def Delivered (s u : State) : Prop :=
  ∀ n c q, getN u.cfg.shafts n = some c → getN u.sfc n = some q →
    ∃ a t, getN (availabilities s) n = some a ∧ getN (shareResult s).targets n = some t ∧ q.target = t ∧
      (t ≠ 0 → q.targetWay = (shareResult s).targetWay) ∧ (t = 0 → q.targetWay = engagedWay q.dir) ∧ q.aAhead = a.1 ∧
      q.aAstern = a.2 ∧ ∀ w, ruleAvail u w c q = inWay w a

theorem recomputeShare_delivered {s : State} (hm : s.svp.mode ≠ .configuring) : Delivered s (recomputeShare s) := by
  intro n c q hc hq
  have hsame := recomputeShare_sameAvail s
  rw [hsame.cfg] at hc
  have hlen : (recomputeShare s).sfc.length = s.sfc.length := by
    simpa using congrArg List.length hsame.engines
  obtain ⟨r, hr⟩ := getN_of_le (l := s.sfc) (getN_lt hq).1 (hlen ▸ (getN_lt hq).2)
  obtain ⟨x, t, ht, hx, hxe, -, -⟩ := recomputeShare_shaft hm hr hc
  obtain rfl : q = x := Option.some.inj (hq.symm.trans hx)
  obtain ⟨htarget, hway, hahead, hastern, -, -, -, hrec⟩ :=
    takeDelivery_eq s.now s.svp.mode c t (shareResult s).targetWay (shaftAvail s c r) r
  have hengine : q.engine = r.engine := by rw [hxe, hrec]
  refine ⟨shaftAvail s c r, t, getN_availabilities hr hc, ht, ?_, fun h => ?_, fun h => ?_, ?_, ?_, fun w => ?_⟩
  · rw [hxe]; exact htarget
  · rw [hxe]; exact hway.trans (if_neg h)
  · subst h
    have hdir : q.dir = r.dir := by
      rw [hxe]
      exact takeDelivery_dir_zero ..
    rw [hdir, hxe]
    exact hway.trans (if_pos rfl)
  · rw [hxe]; exact hahead
  · rw [hxe]; exact hastern
  · rw [ruleAvail_eq, hsame.avail hengine]

/-- Targets delivered from a list in one direction. -/
theorem Delivered.targets {s u : State} (h : Delivered s u) {w : Option Way} {f : Nat → ShaftCfg → Shaft → Option Nat}
    (hf : ∀ n c q a t, getN (availabilities s) n = some a → getN (shareResult s).targets n = some t →
      (∀ w, ruleAvail u w c q = inWay w a) → some t = f n c q)
    (hw : ∀ n t, getN (shareResult s).targets n = some t → t ≠ 0 → (shareResult s).targetWay = w) : Targets u w f := by
  intro n c q hc hq
  obtain ⟨a, t, ha, ht, htarget, hway, -, -, -, havail⟩ := h n c q hc hq
  exact ⟨htarget ▸ hf n c q a t ha ht havail, fun h => (hway (htarget ▸ h)).trans (hw n t ht (htarget ▸ h))⟩

theorem getN_replicate {α : Type} {k n : Nat} {x y : α} (h : getN (List.replicate k x) n = some y) : y = x :=
  List.eq_of_mem_replicate (mem_of_getN h)

/-- Where every target is 0, all are delivered as 0. -/
theorem Delivered.targets_zero {s u : State} (h : Delivered s u) {e : Nat} {w : Option Way} {k : Nat}
    (hs : shareResult s = noShare e w k) {f : Nat → ShaftCfg → Shaft → Option Nat} (hf : ∀ n c q, f n c q = some 0)
    (v : Option Way) : Targets u v f := by
  refine h.targets (fun n c q a t _ ht _ => ?_) fun n t ht h0 => ?_
  · rw [hs] at ht
    rw [hf, getN_replicate ht]
  · rw [hs] at ht
    exact absurd (getN_replicate ht) h0

/-! ## The share in force after a recompute (R28 to R43) -/

/-- The result for a station that is a member of the contributor set `ms`, with the capacity `own` (R37 to R40). -/
def sharedResult (s : State) (w : Way) (ms : List Member) (own : Nat) : ShareResult :=
  let e := demandOf s.cvu.effD s.cvu.powerNom
  let share := takeOf s.cfg.station (takes e ms)
  let biased := biasedShare share (biasOf s.cvu.effDelta s.cfg.lateral s.cfg.gDiff) own
  { demand := e, way := some w, share := share, biased := biased, shortfall := decide (sumC ms < e)
    deficit := e - sumC ms, targetWay := some w, targets := splitShare biased own ((availabilities s).map (inWay w)) }


/-- The SHU of `u` keeps the result that `s` gives, all its parts delivered, with what `s` computed it from unchanged. -/
structure ShareTaken (s u : State) : Prop where
  avail : SameAvail s u
  mode : u.svp.mode = s.svp.mode
  panel : u.svp.panel = s.svp.panel
  cvu : u.cvu = s.cvu
  shu : u.shu = keepShare (shareResult s) (availabilities s) s.shu
  delivered : Delivered s u

theorem recomputeShare_taken {s : State} (hm : s.svp.mode ≠ .configuring) : ShareTaken s (recomputeShare s) where
  avail := recomputeShare_sameAvail s
  mode := (recomputeShare_told s).mode
  panel := (recomputeShare_told s).panel
  cvu := (recomputeShare_told s).cvu
  shu := recomputeShare_shu hm
  delivered := recomputeShare_delivered hm

namespace ShareTaken

variable {s u : State} (h : ShareTaken s u)
include h

theorem capacities : u.shu.cAhead = (ruleAvails u .ahead).sum ∧ u.shu.cAstern = (ruleAvails u .astern).sum := by
  rw [ruleAvails_eq, ruleAvails_eq, h.avail.availabilities, h.shu]
  exact ⟨rfl, rfl⟩

/-- Without a share S, S', shortfall and deficit are 0 (R36, R37). -/
theorem noShare {e : Nat} {w : Option Way} {k : Nat} (hs : shareResult s = noShare e w k) : NoShare u := by
  rw [NoShare, h.shu]
  simp [keepShare, hs, Machine.noShare]

/-- In local mode the lever orders the shafts, and there is no share (R42). -/
theorem inLocal (hl : localApplied s = true) :
    NoShare u ∧
      (0 ≤ u.svp.panel.lever → Targets u (some .ahead) fun _ c q =>
        some (u.svp.panel.lever.natAbs * ruleAvail u .ahead c q / 1000)) ∧
      (u.svp.panel.lever < 0 → Targets u (some .astern) fun _ c q =>
        some (u.svp.panel.lever.natAbs * ruleAvail u .astern c q / 1000)) := by
  rw [h.panel]
  have delivered (w : Way) (hs : shareResult s = { Machine.noShare s.shu.demand s.shu.demandWay (availabilities s).length with
      targetWay := some w, targets := localTargets s.svp.panel.lever w (availabilities s) }) :
      Targets u (some w) fun _ c q => some (s.svp.panel.lever.natAbs * ruleAvail u w c q / 1000) := by
    refine h.delivered.targets (fun n c q a t ha ht havail => ?_) fun n t _ _ => by rw [hs]
    rw [hs] at ht
    rw [localTargets, getN_map, ha] at ht
    rw [havail w, ← ht]
    rfl
  obtain hneg | hzero | hpos := lt_trichotomy s.svp.panel.lever 0
  · have hs := shareResult_localAstern hl hneg
    refine ⟨?_, fun h0 => absurd h0 (Int.not_le.2 hneg), fun _ => delivered .astern hs⟩
    rw [NoShare, h.shu]
    simp [keepShare, hs, Machine.noShare]
  · have hs := shareResult_localStop hl hzero
    refine ⟨h.noShare hs, fun _ => h.delivered.targets_zero hs (fun n c q => ?_) _, fun h0 => absurd hzero h0.ne⟩
    simp [hzero]
  · have hs := shareResult_localAhead hl hpos
    refine ⟨?_, fun _ => delivered .ahead hs, fun h0 => absurd h0 (Int.not_lt.2 hpos.le)⟩
    rw [NoShare, h.shu]
    simp [keepShare, hs, Machine.noShare]

/-- A station that contributes, with a demand direction (R36 to R40). -/
theorem inDemand {w : Way} (hl : localApplied s = false) (hc : contributes s = true)
    (hd : (w = .ahead ∧ 0 < u.cvu.effD) ∨ (w = .astern ∧ u.cvu.effD < 0)) :
    let own := (ruleAvails u w).sum
    let ms := ruleMembers u w
    let b := max (-300) (min 300 (Int.tdiv (-(u.cvu.effDelta * u.cfg.lateral * u.cfg.gDiff)) 35000))
    u.shu.demand = u.cvu.effD.natAbs * u.cvu.powerNom / 1000 ∧ u.shu.demandWay = some w ∧
      ((∀ m ∈ ms, m.number ≠ u.cfg.station) → NoShare u ∧ Targets u none fun _ _ _ => some 0) ∧
      ((∃ m ∈ ms, m.number = u.cfg.station) →
        (∃ m ∈ ms, m.number = u.cfg.station ∧ RuleTake u.shu.demand ms m u.shu.share) ∧
        (u.shu.biased : Int) = max 0 (min (own : Int) (Int.tdiv (u.shu.share * (1000 + b)) 1000)) ∧
        u.shu.shortfall = decide ((ms.map (·.c)).sum < u.shu.demand) ∧
        u.shu.deficit = u.shu.demand - (ms.map (·.c)).sum ∧
        Targets u (some w) fun n c q => some (ruleTarget u.shu.biased (ruleAvails u w) n (ruleAvail u w c q))) := by
  intro own ms b
  have hs := shareResult_demand (s := s) hl hc (h.cvu ▸ hd)
  have hown : own = capacity w (availabilities s) := by
    simp only [own, ruleAvails_eq, h.avail.availabilities]
    rfl
  have hms : ms = contributors w (capacity w (availabilities s)) s.shu.phi s.cfg.station s.cvu.peers := by
    have hphi : u.shu.phi = s.shu.phi := by rw [h.shu]; rfl
    simp only [ms, ruleMembers_eq, h.avail.availabilities, h.avail.cfg, h.cvu, hphi]
  have hreal : ∀ m ∈ ms, realMember m = true := fun m hm => contributors_real (hms ▸ hm)
  have hany : (ms.any fun m => decide (m.number = s.cfg.station)) = true ↔ ∃ m ∈ ms, m.number = s.cfg.station := by
    simp
  by_cases hmember : ∃ m ∈ ms, m.number = s.cfg.station
  · have hresult : contributedShare s w (availabilities s) = sharedResult s w ms own := by
      simp only [contributedShare, ← hms]
      rw [← hown]
      exact if_pos (hany.2 hmember)
    rw [hresult] at hs
    have hown' : own = ((availabilities s).map (inWay w)).sum := hown
    have hkept := h.shu
    rw [hs] at hkept
    refine ⟨by rw [hkept, h.cvu]; rfl, by rw [hkept]; rfl, fun hno => ?_, fun _ => ⟨?_, ?_, ?_, ?_, ?_⟩⟩
    · obtain ⟨m, hm, hmo⟩ := hmember
      exact absurd (hmo.trans (by rw [h.avail.cfg])) (hno m hm)
    · rw [hkept, h.avail.cfg]
      exact takeOf_ruleTake hreal hmember
    · have hb : b = biasOf s.cvu.effDelta s.cfg.lateral s.cfg.gDiff := by
        simp only [b, h.cvu, h.avail.cfg]
        rfl
      rw [hkept, hb]
      exact Int.toNat_of_nonneg (le_max_left 0 _)
    · rw [hkept]; rfl
    · rw [hkept]; rfl
    · have hbiased : u.shu.biased = (shareResult s).biased := by rw [h.shu]; rfl
      refine h.delivered.targets (fun n c q a t ha ht havail => ?_) fun n t _ _ => by rw [hs]; rfl
      rw [havail w, ruleAvails_eq, h.avail.availabilities, hbiased, ← ht, hs]
      simp only [sharedResult]
      rw [hown']
      exact splitShare_get (by rw [getN_map, ha]; rfl)
  · have hresult : contributedShare s w (availabilities s) =
        Machine.noShare (demandOf s.cvu.effD s.cvu.powerNom) (some w) (availabilities s).length := by
      simp only [contributedShare, ← hms]
      exact if_neg (mt hany.1 hmember)
    rw [hresult] at hs
    refine ⟨by rw [h.shu, hs, h.cvu]; rfl, by rw [h.shu, hs]; rfl,
      fun _ => ⟨h.noShare hs, h.delivered.targets_zero hs (fun _ _ _ => rfl) _⟩, fun hm => ?_⟩
    exact absurd (h.avail.cfg ▸ hm) hmember

/-- What a recompute has taken is in force (R28, R32 to R43). -/
theorem inForce : ShareInForce u := by
  have hlocal : localApplied s = true ↔ u.svp.mode = .running ∧ u.svp.panel.localMode = true := by
    simp [localApplied, h.mode, h.panel]
  have hcontributing : u.shu.contributing = s.shu.contributing := by rw [h.shu]; rfl
  have hcontributes : contributes s = true ↔ u.svp.mode = .running ∧ u.shu.contributing = true := by
    simp [contributes, h.mode, hcontributing]
  refine ⟨h.capacities.1, h.capacities.2, fun n c q hc hq => ?_, fun hl => h.inLocal (hlocal.2 hl), fun hl hidle => ?_,
    fun hl hm hc => ?_⟩
  · obtain ⟨a, t, -, -, htarget, -, hzero, hahead, hastern, havail⟩ := h.delivered n c q hc hq
    exact ⟨hahead.trans (havail .ahead).symm, hastern.trans (havail .astern).symm, fun h0 => hzero (htarget ▸ h0)⟩
  · have hs := shareResult_idle (Bool.eq_false_iff.2 (mt hlocal.1 hl))
      (Bool.eq_false_iff.2 fun hcs => by simp_all)
    exact ⟨h.noShare hs, h.delivered.targets_zero hs (fun _ _ _ => rfl) _⟩
  · have hl' := Bool.eq_false_iff.2 (mt hlocal.1 hl)
    have hc' := hcontributes.2 ⟨hm, hc⟩
    refine ⟨?_, fun hd => ?_, fun w hd => ?_⟩
    · obtain hneg | hzero | hpos := lt_trichotomy u.cvu.effD 0
      · exact (h.inDemand hl' hc' (.inr ⟨rfl, hneg⟩)).1
      · rw [h.shu, shareResult_noDemand hl' hc' (h.cvu ▸ hzero), h.cvu]
        rfl
      · exact (h.inDemand hl' hc' (.inl ⟨rfl, hpos⟩)).1
    · have hs := shareResult_noDemand hl' hc' (h.cvu ▸ hd)
      exact ⟨by rw [h.shu, hs]; rfl, h.noShare hs, h.delivered.targets_zero hs (fun _ _ _ => rfl) _⟩
    · obtain ⟨-, hway, hnone, hsome⟩ := h.inDemand hl' hc' hd
      exact ⟨hway, hnone, hsome⟩

end ShareTaken

theorem recomputeShare_inForce {s : State} (hm : s.svp.mode ≠ .configuring) : ShareInForce (recomputeShare s) :=
  (recomputeShare_taken hm).inForce

end Sys2Proof.Machine
end

section
/-!
SUPPORT. What the notices leave in force (R23 to R28, R66 to R71, R95 to R97): the contributing state, the share, the
steering figures, the summary and f_cpl, and the ALERT that a change of them places.  A recompute with its delivery and a
recompute with all that its delivery brings about have the same properties (`Recomputes`), so that each is said once.
-/

namespace Sys2Proof.Machine

/-! ## Placing an ALERT (R169, R170) -/

/-- From `l` to `m` nothing of the convoy line has changed but the ALERT slot and what is being sent; with no idle line and
nothing being sent, nothing is. -/
def AlertsOnly (l m : Lif) : Prop :=
  m = { l with slotAlert := m.slotAlert, tx := m.tx, lineIdle := m.lineIdle } ∧
    (l.lineIdle = none → l.tx = none → m.lineIdle = none ∧ m.tx = none)

theorem AlertsOnly.refl (l : Lif) : AlertsOnly l l := ⟨rfl, fun h k => ⟨h, k⟩⟩

theorem AlertsOnly.trans {l m n : Lif} (h : AlertsOnly l m) (k : AlertsOnly m n) : AlertsOnly l n := by
  obtain ⟨heq, hidle⟩ := h
  obtain ⟨keq, kidle⟩ := k
  refine ⟨by rw [keq, heq], fun h1 h2 => ?_⟩
  obtain ⟨h3, h4⟩ := hidle h1 h2
  exact kidle h3 h4

/-- A frame that begins changes what is being sent alone. -/
theorem tryStart_eq (s : State) : tryStart s = { s with
    lif := { s.lif with tx := (tryStart s).lif.tx, lineIdle := (tryStart s).lif.lineIdle } } := by
  unfold tryStart
  split
  · split <;> rfl
  · rfl

theorem tryStart_noIdle {s : State} (h : s.lif.lineIdle = none) : tryStart s = s := by
  have hown : ownStart s = none := by simp [ownStart, h]
  unfold tryStart
  split
  · rw [hown]
  · rfl

theorem placeFrame_off {k : FrameKind} {p : List Byte} {s : State} (h : transmitterOn s.svp.mode = false) :
    placeFrame k p s = s := by
  simp [placeFrame, h]

/-- A placement changes its slot and what is being sent. -/
theorem placeFrame_on {k : FrameKind} {p : List Byte} {s : State} (h : transmitterOn s.svp.mode = true) :
    placeFrame k p s = { s with
      lif := { setSlot k (some p) s.lif with
        tx := (placeFrame k p s).lif.tx, lineIdle := (placeFrame k p s).lif.lineIdle } } := by
  have hplace : placeFrame k p s = tryStart { s with
      lif := { setSlot k (some p) s.lif with tx := txAfterPlacement s.clock k (setSlot k (some p) s.lif) } } := by
    simp [placeFrame, h]
  rw [hplace, tryStart_eq]

theorem placeFrame_eq (k : FrameKind) (p : List Byte) (s : State) :
    placeFrame k p s = { s with lif := (placeFrame k p s).lif } := by
  cases h : transmitterOn s.svp.mode
  · rw [placeFrame_off h]
  · rw [placeFrame_on h]

theorem placeAlert_eq (s : State) : placeAlert s = { s with lif := (placeAlert s).lif } := placeFrame_eq _ _ s

theorem placeFrame_told (k : FrameKind) (p : List Byte) (s : State) : Told s (placeFrame k p s) := by
  rw [placeFrame_eq]
  exact lif_told _ s

theorem placeAlert_told (s : State) : Told s (placeAlert s) := placeFrame_told _ _ s

theorem setSlot_lineIdle (k : FrameKind) (v : Option (List Byte)) (l : Lif) :
    (setSlot k v l).lineIdle = l.lineIdle := by
  cases k <;> rfl

theorem placeAlert_line (s : State) : AlertsOnly s.lif (placeAlert s).lif := by
  cases h : transmitterOn s.svp.mode
  · rw [placeAlert, placeFrame_off h]
    exact .refl _
  · refine ⟨?_, fun hidle htx => ?_⟩
    · rw [placeAlert, placeFrame_on h]
      rfl
    · have hstart : placeAlert s = { s with
          lif := { setSlot .alert (some (statusPayload s)) s.lif with tx := none } } := by
        have hafter : txAfterPlacement s.clock .alert (setSlot .alert (some (statusPayload s)) s.lif) = none := by
          simp [txAfterPlacement, htx]
        simp only [placeAlert, placeFrame, h, if_true, hafter]
        exact tryStart_noIdle hidle
      rw [hstart]
      exact ⟨hidle, rfl⟩

/-- Where the transmitter is on, the ALERT slot carries what is in force (R96, R168). -/
def Alerted (u : State) : Prop := (u.svp.mode = .joining ∨ u.svp.mode = .running) → u.lif.slotAlert = some (statusPayload u)

theorem transmitterOn_iff {m : Mode} : transmitterOn m = true ↔ m = .joining ∨ m = .running := by
  cases m <;> simp [transmitterOn]

theorem placeAlert_alerted (s : State) : Alerted (placeAlert s) := by
  intro h
  have hon : transmitterOn s.svp.mode = true := transmitterOn_iff.2 (by rwa [placeAlert_eq] at h)
  have hpayload : statusPayload (placeAlert s) = statusPayload s := by
    rw [placeAlert_eq]
    rfl
  rw [hpayload, placeAlert, placeFrame_on hon]
  rfl

/-! ## The seven conditions (R23) -/

theorem contributingNow_iff (s : State) : contributingNow s = true ↔ SevenHold s := by
  simp [contributingNow, contributingConditions, SevenHold]

/-- The contributing state is the one R23 gives. -/
def ContributesInForce (u : State) : Prop := u.shu.contributing = contributingNow u

theorem ContributesInForce.iff {u : State} (h : ContributesInForce u) : u.shu.contributing = true ↔ SevenHold u := by
  rw [h, contributingNow_iff]

/-- What the seven conditions and the contributing state come of is unchanged. -/
theorem ContributesInForce.congr {s u : State} (h : ContributesInForce s) (hmode : u.svp.mode = s.svp.mode)
    (hpanel : u.svp.panel = s.svp.panel) (hcpc : u.cpc = s.cpc) (hcontributing : u.shu.contributing = s.shu.contributing)
    (hdeparting : u.shu.departing = s.shu.departing) (hmuted : u.shu.muted = s.shu.muted) : ContributesInForce u := by
  simpa only [ContributesInForce, contributingNow, contributingConditions, hmode, hpanel, hcpc, hcontributing, hdeparting,
    hmuted] using h

/-! ## The steering figures (R66 to R71) -/

/-- What the steering figures come of, and the figures, are unchanged. -/
theorem SteeringInForce.congr {s u : State} (h : SteeringInForce s) (hcfg : u.cfg = s.cfg)
    (hmode : u.svp.mode = s.svp.mode) (hpanel : u.svp.panel = s.svp.panel) (hcvu : u.cvu = s.cvu) (hstc : u.stc = s.stc)
    (hcontributing : u.shu.contributing = s.shu.contributing) (hdirs : shaftDirs u = shaftDirs s) : SteeringInForce u := by
  have hsum (v : State) : ((List.zip v.cfg.shafts (List.zip v.stc.rudders v.sfc)).map fun x =>
      if x.2.1.state = .following ∧ x.2.2.dir ≠ .astern then x.1.gRud else 0) =
      (List.zip v.cfg.shafts (List.zip v.stc.rudders (shaftDirs v))).map fun x =>
        if x.2.1.state = .following ∧ x.2.2 ≠ .astern then x.1.gRud else 0 := by
    simp only [shaftDirs, List.zip_map_right, List.map_map]
    rfl
  unfold SteeringInForce at h ⊢
  rw [hsum] at h ⊢
  simpa only [hcfg, hmode, hpanel, hcvu, hstc, hcontributing, hdirs] using h

theorem recomputeShare_steering {s : State} (h : SteeringInForce s) : SteeringInForce (recomputeShare s) := by
  by_cases hm : s.svp.mode = .configuring
  · rwa [recomputeShare_configuring hm]
  · have htold := recomputeShare_told s
    by_cases hdirs : shaftDirs (deliverAll (shareResult s) (availabilities s) (shareKept s)) = shaftDirs s
    · have heq : recomputeShare s = deliverAll (shareResult s) (availabilities s) (shareKept s) := by
        rw [recomputeShare_eq hm, noticeDirs, if_pos hdirs]
      refine h.congr htold.cfg htold.mode htold.panel htold.cvu ?_ (recomputeShare_told_shu s).1 (heq ▸ hdirs)
      rw [heq, deliverAll_frame, shareKept_eq]
    · rw [recomputeShare_eq hm, noticeDirs_changed hdirs]
      exact stcNotice_inForce _

/-! ## The coupling summary and factor (R95, R97) -/

theorem ruleCounts_eq (s : State) (cw : WinchCfg × Winch) : ruleCounts s cw = winchCounts s cw.1 cw.2 := by
  unfold ruleCounts winchCounts winchFast
  cases cw.1.target with
  | tow => rfl
  | station n =>
    simp only [neighbourMade]
    cases peerOf n s with
    | none => rfl
    | some p =>
      cases hs : p.statusPart with
      | none => simp [hs]
      | some st => cases hp : p.state <;> simp [counted, hs, hp]

theorem countingWinches_eq (s : State) : (List.zip s.cfg.winches s.cpc.winches).filter (ruleCounts s) = countingWinches s :=
  List.filter_congr fun cw _ => ruleCounts_eq s cw

theorem ruleFactor_eq (cw : WinchCfg × Winch) : ruleFactor cw = winchFactor cw.1 cw.2 := rfl

/-- The least of a list and of 1000. -/
theorem foldr_min_spec (l : List Nat) : l.foldr min 1000 ≤ 1000 ∧ (∀ x ∈ l, l.foldr min 1000 ≤ x) ∧
    (l.foldr min 1000 = 1000 ∨ l.foldr min 1000 ∈ l) := by
  induction l with
  | nil => exact ⟨le_rfl, by simp, .inl rfl⟩
  | cons a l ih =>
    obtain ⟨hle, hall, hwhich⟩ := ih
    simp only [List.foldr_cons]
    refine ⟨(min_le_right _ _).trans hle, fun x hx => ?_, ?_⟩
    · obtain rfl | hx := List.mem_cons.1 hx
      · exact min_le_left _ _
      · exact (min_le_right _ _).trans (hall x hx)
    · obtain h | h := min_choice a (l.foldr min 1000)
      · exact .inr (by rw [h]; simp)
      · rw [h]
        exact hwhich.imp_right fun h => by simp [h]

/-- The summary and f_cpl are those that R95 and R97 give now. -/
theorem coupling_iff {u : State} : (u.cpc.summary = summaryNow u ∧ u.cpc.fCpl = fCplNow u) → CouplingInForce u := by
  rintro ⟨hsummary, hfactor⟩
  obtain ⟨hle, hall, hwhich⟩ := foldr_min_spec ((countingWinches u).map fun cw => winchFactor cw.1 cw.2)
  unfold CouplingInForce
  rw [countingWinches_eq]
  refine ⟨?_, hfactor ▸ hle, fun cw hcw => ?_, ?_⟩
  · rw [hsummary, summaryNow, summaryOf]
    split
    · rfl
    · split <;> split <;> first | rfl | omega
  · rw [hfactor]
    exact hall _ (List.mem_map_of_mem hcw)
  · rw [hfactor]
    refine hwhich.imp_right fun h => ?_
    obtain ⟨cw, hcw, heq⟩ := List.mem_map.1 h
    exact ⟨cw, hcw, heq.symm⟩

end Sys2Proof.Machine
end

section
/-!
SUPPORT. The winches visited one by one, and a pull-off that completes (R93, R94, R100, R102): what a recompute with all that
its delivery brings about leaves of the couplings.
-/

namespace Sys2Proof.Machine

/-! ## One winch and its lines (R94) -/

theorem updateHaul_eq (n v : Nat) (w : Option Nat) (s : State) : updateHaul n v w s = { s with
    cpc := { s.cpc with winches := (updateHaul n v w s).cpc.winches }, dlu := (updateHaul n v w s).dlu } := by
  unfold updateHaul
  split
  · rfl
  · rw [writeDuty_only]
    rfl

theorem updatePayout_eq (n v : Nat) (w : Option Nat) (s : State) : updatePayout n v w s = { s with
    cpc := { s.cpc with winches := (updatePayout n v w s).cpc.winches }, dlu := (updatePayout n v w s).dlu } := by
  unfold updatePayout
  split
  · rfl
  · rw [writeDuty_only]
    rfl

/-- From `s` to `t` nothing but records of winches, drive lines and attention flags has changed. -/
def WinchesOnly (s t : State) : Prop :=
  t = { s with
    svp := { s.svp with flags := t.svp.flags }, cpc := { s.cpc with winches := t.cpc.winches }, dlu := t.dlu } ∧
  t.cpc.winches.length = s.cpc.winches.length

theorem WinchesOnly.refl (s : State) : WinchesOnly s s := ⟨rfl, rfl⟩

theorem WinchesOnly.trans {s t u : State} (h : WinchesOnly s t) (k : WinchesOnly t u) : WinchesOnly s u := by
  obtain ⟨heq, hlen⟩ := h
  obtain ⟨keq, klen⟩ := k
  refine ⟨?_, klen.trans hlen⟩
  rw [keq, heq]

theorem WinchesOnly.told {s t : State} (h : WinchesOnly s t) : Told s t := by
  obtain ⟨heq, -⟩ := h
  rw [heq]
  exact ⟨rfl, rfl, rfl, rfl, rfl, rfl, rfl, rfl⟩

theorem changeWinch_only_winches (n : Nat) (f : Winch → Winch) (s : State) : WinchesOnly s (changeWinch n f s) := by
  refine WinchesOnly.trans (t := modWinch n f s) ⟨rfl, by simp [modWinch]⟩ ?_
  unfold changeWinch writeWinch
  have hhaul (v w) (t : State) : WinchesOnly t (updateHaul n v w t) := by
    refine ⟨by rw [updateHaul_eq], ?_⟩
    unfold updateHaul
    split <;> simp
  have hpayout (v w) (t : State) : WinchesOnly t (updatePayout n v w t) := by
    refine ⟨by rw [updatePayout_eq], ?_⟩
    unfold updatePayout
    split <;> simp
  split
  · exact .refl _
  · split
    · exact (hhaul _ _ _).trans (hpayout _ _ _)
    · exact (hpayout _ _ _).trans (hhaul _ _ _)

/-- The valve lines of winch `n` have been brought to `haul` and `payout` between `s` and `u`, and what was written to them
before and noted stays. -/
def ValvesSet (n haul payout : Nat) (w q : Winch) (s u : State) : Prop :=
  Valves n haul payout w q s u ∧
    (∀ z, s.cfg = z.cfg → w.haulWritten = some haul → Written (.winchHaul n) haul z s → Written (.winchHaul n) haul z u) ∧
    (∀ z, s.cfg = z.cfg → w.payoutWritten = some payout → Written (.winchPayout n) payout z s →
      Written (.winchPayout n) payout z u)

/-- The lines of a winch that changes twice. -/
theorem Valves.then {n v1 v2 p1 p2 : Nat} {w x q : Winch} {s a u : State} (h : Valves n v1 p1 w x s a) (hr : Reacts s a)
    (k : ValvesSet n v2 p2 x q a u) : Valves n v2 p2 w q s u := by
  obtain ⟨hhaul, hpayout, hw, hp⟩ := h
  obtain ⟨⟨khaul, kpayout, kw, kp⟩, kwas, kpas⟩ := k
  refine ⟨khaul, kpayout, fun hne => ?_, fun hne => ?_⟩
  · by_cases hx : x.haulWritten = some v2
    · obtain rfl : v1 = v2 := Option.some.inj (hhaul.symm.trans hx)
      exact kwas s hr.cfg hx (hw hne)
    · exact .after hr (kw hx)
  · by_cases hx : x.payoutWritten = some p2
    · obtain rfl : p1 = p2 := Option.some.inj (hpayout.symm.trans hx)
      exact kpas s hr.cfg hx (hp hne)
    · exact .after hr (kp hx)

theorem haulDuty_eq (w : Winch) :
    haulDuty w = if w.state = .hauling ∨ (w.state = .made ∧ w.pulse = true) then 1000 else 0 := by
  unfold haulDuty
  cases w.state <;> simp

theorem payoutDuty_eq (w : Winch) : payoutDuty w = if w.state = .rendering ∨ w.state = .releasing then 1000 else 0 := by
  unfold payoutDuty
  cases w.state <;> simp

theorem valvesByState_iff {n : Nat} {w q : Winch} {s u : State} :
    ValvesByState n w q s u ↔ Valves n (haulDuty q) (payoutDuty q) w q s u := by
  rw [haulDuty_eq, payoutDuty_eq]
  rfl

theorem updateHaul_same {n v : Nat} (s : State) : updateHaul n v (some v) s = s := by simp [updateHaul]

theorem updatePayout_same {n v : Nat} (s : State) : updatePayout n v (some v) s = s := by simp [updatePayout]

/-- The lines of a winch written for its state: what stands there already stays. -/
theorem writeWinch_through {n : Nat} {s z : State} {w : Winch} (hw : getN s.cpc.winches n = some w) (hz : s.cfg = z.cfg) :
    (w.haulWritten = some (haulDuty w) → Written (.winchHaul n) (haulDuty w) z s →
      Written (.winchHaul n) (haulDuty w) z (writeWinch n s)) ∧
    (w.payoutWritten = some (payoutDuty w) → Written (.winchPayout n) (payoutDuty w) z s →
      Written (.winchPayout n) (payoutDuty w) z (writeWinch n s)) := by
  have hduty : haulDuty w = 0 ∨ payoutDuty w = 0 := by
    rw [haulDuty_eq, payoutDuty_eq]
    cases w.state <;> simp
  have heq : writeWinch n s = if haulDuty w = 0 then
      updatePayout n (payoutDuty w) w.payoutWritten (updateHaul n (haulDuty w) w.haulWritten s)
    else updateHaul n (haulDuty w) w.haulWritten (updatePayout n (payoutDuty w) w.payoutWritten s) := by
    simp only [writeWinch, hw]
  refine ⟨fun hsame hold => ?_, fun hsame hold => ?_⟩
  · rw [heq, hsame, updateHaul_same, updateHaul_same, ite_self]
    exact haul_through hold hz hduty
  · rw [heq, hsame, updatePayout_same, updatePayout_same, ite_self]
    exact payout_through hold hz hduty.symm

/-- All that a winch changed by `f` does, in one. -/
theorem changeWinch_set {n : Nat} {s : State} {w : Winch} (f : Winch → Winch) (hw : getN s.cpc.winches n = some w)
    (hh : (f w).haulWritten = w.haulWritten) (hp : (f w).payoutWritten = w.payoutWritten) :
    ∃ q, getN (changeWinch n f s).cpc.winches n = some q ∧
      q = { f w with haulWritten := some (haulDuty (f w)), payoutWritten := some (payoutDuty (f w)) } ∧
      ValvesSet n (haulDuty q) (payoutDuty q) w q s (changeWinch n f s) := by
  obtain ⟨q, hq, rfl, -, hvalves⟩ := changeWinch_lines f hw hh hp
  refine ⟨_, hq, rfl, valvesByState_iff.1 hvalves, fun z hz hsame hold => ?_, fun z hz hsame hold => ?_⟩
  · exact (writeWinch_through (s := modWinch n f s) (w := f w) (by simp [hw]) hz).1 (hh.trans hsame) hold
  · exact (writeWinch_through (s := modWinch n f s) (w := f w) (by simp [hw]) hz).2 (hp.trans hsame) hold

theorem changeWinch_other {n m : Nat} (h : m ≠ n) (f : Winch → Winch) (s : State) :
    getN (changeWinch n f s).cpc.winches m = getN s.cpc.winches m := by
  cases hw : getN s.cpc.winches n with
  | none =>
    have hmod : getN (modWinch n f s).cpc.winches n = none := by simp [hw]
    rw [changeWinch, writeWinch, hmod]
    exact getN_modN_ne (Ne.symm h) _ _
  | some w =>
    have hmod : getN (modWinch n f s).cpc.winches n = some (f w) := by simp [hw]
    obtain ⟨-, -, -, hkept, -⟩ := writeWinch_lines hmod
    exact (hkept m h).trans (getN_modN_ne (Ne.symm h) _ _)

theorem updateHaul_svp (n v : Nat) (w : Option Nat) (s : State) : (updateHaul n v w s).svp = s.svp := by
  rw [updateHaul_eq]

theorem updatePayout_svp (n v : Nat) (w : Option Nat) (s : State) : (updatePayout n v w s).svp = s.svp := by
  rw [updatePayout_eq]

/-- The lines of a winch raise no flag. -/
theorem changeWinch_svp (n : Nat) (f : Winch → Winch) (s : State) : (changeWinch n f s).svp = s.svp := by
  unfold changeWinch writeWinch
  split
  · rfl
  · split
    · rw [updatePayout_svp, updateHaul_svp]
      rfl
    · rw [updateHaul_svp, updatePayout_svp]
      rfl

/-! ## The winches visited in turn -/

/-- From `s` to `t` winch `n` and its lines are as they were, and nothing but winches, lines and flags has changed. -/
def WinchKept (n : Nat) (s t : State) : Prop :=
  getN t.cpc.winches n = getN s.cpc.winches n ∧ OnlyLines (fun a => ¬ofWinch n a) s t ∧ WinchesOnly s t

theorem WinchKept.refl (n : Nat) (s : State) : WinchKept n s s := ⟨rfl, .refl s, .refl s⟩

theorem WinchKept.trans {n : Nat} {s t u : State} (h : WinchKept n s t) (k : WinchKept n t u) : WinchKept n s u := by
  obtain ⟨hget, hlines, honly⟩ := h
  obtain ⟨kget, klines, konly⟩ := k
  exact ⟨kget.trans hget, hlines.trans klines, honly.trans konly⟩

theorem changeWinch_keeps {n m : Nat} (h : m ≠ n) (f : Winch → Winch) (s : State) : WinchKept n s (changeWinch m f s) :=
  ⟨changeWinch_other (Ne.symm h) f s, (changeWinch_only m f s).mono fun _ ha k => h (ofWinch_unique k ha),
    changeWinch_only_winches m f s⟩

/-- What the valve lines of winch `n` show of its own visit, they show of all visits. -/
theorem ValvesSet.between {n v p : Nat} {w q : Winch} {s a b u : State} {P : Assignment → Prop}
    (hP : ∀ x, ofWinch n x → ¬P x) (h1 : OnlyLines P s a) (h2 : OnlyLines P b u) (hb : b.cfg = a.cfg)
    (h : ValvesSet n v p w q a b) : ValvesSet n v p w q s u := by
  obtain ⟨hvalves, hhaul, hpayout⟩ := h
  refine ⟨hvalves.between hP h1 h2 hb, fun z hz hsame hold => ?_, fun z hz hsame hold => ?_⟩
  · have ha := hold.kept hz (h1.2 _ (hP _ (.inl rfl)))
    exact (hhaul z (h1.1.trans hz) hsame ha).kept (hb.trans (h1.1.trans hz)) (h2.2 _ (hP _ (.inl rfl)))
  · have ha := hold.kept hz (h1.2 _ (hP _ (.inr rfl)))
    exact (hpayout z (h1.1.trans hz) hsame ha).kept (hb.trans (h1.1.trans hz)) (h2.2 _ (hP _ (.inr rfl)))

/-- Winches changed in turn, each by an `f` of its own that leaves alone what was written to its lines: winch `n` is changed
once, and its lines follow it. -/
theorem visit_winches {f : State → Nat → State} {n : Nat} {w : Winch} {g : Winch → Winch} {s : State} {l : List Nat}
    (hkeeps : ∀ t m, m ≠ n → WinchKept n t (f t m)) (hl : l.Nodup) (hn : n ∈ l)
    (hw : getN s.cpc.winches n = some w) (hvisit : ∀ a, WinchKept n s a → f a n = changeWinch n g a)
    (hh : (g w).haulWritten = w.haulWritten) (hp : (g w).payoutWritten = w.payoutWritten) :
    ∃ q, getN (l.foldl f s).cpc.winches n = some q ∧
      q = { g w with haulWritten := some (haulDuty (g w)), payoutWritten := some (payoutDuty (g w)) } ∧
      ValvesSet n (haulDuty q) (payoutDuty q) w q s (l.foldl f s) := by
  obtain ⟨a, hbefore, hafter⟩ := foldl_visits (WinchKept.refl n) (fun h k => WinchKept.trans h k) hkeeps hl hn s
  rw [hvisit a hbefore] at hafter
  obtain ⟨hget, hlines, -⟩ := hbefore
  obtain ⟨kget, klines, -⟩ := hafter
  obtain ⟨q, hq, heq, hset⟩ := changeWinch_set (s := a) g (hget.trans hw) hh hp
  exact ⟨q, kget.trans hq, heq, hset.between (fun _ hx => not_not_intro hx) hlines klines (changeWinch_only n g a).1⟩

theorem fold_winchesOnly {f : State → Nat → State} (h : ∀ s n, WinchesOnly s (f s n)) (l : List Nat) (s : State) :
    WinchesOnly s (l.foldl f s) := foldl_keeps (R := WinchesOnly) .refl .trans h l s

/-! ## A pull-off completes (R93, R100, R102) -/

theorem releaseOne_some {s : State} {n : Nat} {c : WinchCfg} (hc : getN s.cfg.winches n = some c) :
    releaseOne s n = changeWinch n (releaseWinch s.now c) s := by
  simp [releaseOne, hc]

theorem releaseOne_only (s : State) (n : Nat) : WinchesOnly s (releaseOne s n) := by
  unfold releaseOne
  split
  · exact changeWinch_only_winches _ _ _
  · exact .refl _

theorem releaseOne_keeps {n m : Nat} (h : m ≠ n) (s : State) : WinchKept n s (releaseOne s m) := by
  unfold releaseOne
  split
  · exact changeWinch_keeps h _ _
  · exact .refl _ _

theorem releaseWinch_written (now : Nat) (c : WinchCfg) (w : Winch) :
    (releaseWinch now c w).haulWritten = w.haulWritten ∧ (releaseWinch now c w).payoutWritten = w.payoutWritten := by
  unfold releaseWinch
  split
  · split <;> exact ⟨rfl, rfl⟩
  · exact ⟨rfl, rfl⟩

/-- The make-up stack after a pull-off: the record pushed where it shows a winch as made (R100, R102). -/
def makeUpStack (s : State) : List (List MakeUp) :=
  if (makeUpRecord s).any (·.made) then pushRecord (makeUpRecord s) s.cpc.stack else s.cpc.stack

theorem pushMakeUp_eq (s : State) : pushMakeUp s = { s with cpc := { s.cpc with stack := makeUpStack s } } := by
  unfold pushMakeUp makeUpStack
  split <;> rfl

/-- The winches released, the record on the stack, the outcome set. -/
def released (s : State) : State :=
  let r := (numbers s.cpc.winches.length).foldl releaseOne (pushMakeUp s)
  setOutcome .released { r with cpc := { r.cpc with pullOff := none } }

theorem finishPullOff_eq (s : State) : finishPullOff s = settleWith recomputeShare false (released s) := rfl

theorem releaseAll_only (s : State) :
    WinchesOnly (pushMakeUp s) ((numbers s.cpc.winches.length).foldl releaseOne (pushMakeUp s)) :=
  fold_winchesOnly releaseOne_only _ _

theorem released_eq (s : State) : released s = { s with
    svp := { s.svp with flags := (released s).svp.flags }
    cpc := { s.cpc with
      winches := (released s).cpc.winches, pullOff := none, outcome := .released, outcomeAt := s.stationTime
      stack := makeUpStack s }
    dlu := (released s).dlu } := by
  obtain ⟨h, -⟩ := releaseAll_only s
  unfold released
  rw [h, pushMakeUp_eq]
  rfl

theorem released_told (s : State) : Told s (released s) := by
  rw [released_eq]
  exact ⟨rfl, rfl, rfl, rfl, rfl, rfl, rfl, rfl⟩

theorem released_svp (s : State) : (released s).svp = s.svp := by
  have hone (t : State) (n : Nat) : (releaseOne t n).svp = t.svp := by
    unfold releaseOne
    split
    · exact changeWinch_svp _ _ _
    · rfl
  have hall := foldl_keeps (R := fun t u : State => u.svp = t.svp) (fun _ => rfl) (fun h k => k.trans h) hone
    (numbers s.cpc.winches.length) (pushMakeUp s)
  rw [pushMakeUp_eq] at hall
  rw [released, pushMakeUp_eq]
  exact hall

theorem released_length (s : State) : (released s).cpc.winches.length = s.cpc.winches.length := by
  obtain ⟨-, hlen⟩ := releaseAll_only s
  have hpush : (pushMakeUp s).cpc.winches = s.cpc.winches := by rw [pushMakeUp_eq]
  rwa [hpush] at hlen

/-- A winch of a pull-off that completes. -/
theorem released_winch {s : State} {n : Nat} {w : Winch} {c : WinchCfg} (hw : getN s.cpc.winches n = some w)
    (hc : getN s.cfg.winches n = some c) :
    ∃ q, getN (released s).cpc.winches n = some q ∧
      q = { releaseWinch s.now c w with
        haulWritten := some (haulDuty (releaseWinch s.now c w))
        payoutWritten := some (payoutDuty (releaseWinch s.now c w)) } ∧
      ValvesSet n (haulDuty q) (payoutDuty q) w q s (released s) := by
  have hw' : getN (pushMakeUp s).cpc.winches n = some w := by rw [pushMakeUp_eq]; exact hw
  obtain ⟨q, hq, heq, hset⟩ := visit_winches (f := releaseOne) (g := releaseWinch s.now c) (s := pushMakeUp s)
    (fun t m hm => releaseOne_keeps hm t) (numbers_nodup s.cpc.winches.length) (mem_numbers_of_getN hw) hw'
    (fun a ha => by
      have htold : Told s a := by
        obtain ⟨-, -, honly⟩ := ha
        have hpushed := honly.told
        rw [pushMakeUp_eq] at hpushed
        exact (cpc_told _ s).trans hpushed
      rw [releaseOne_some (htold.cfg ▸ hc), htold.now])
    (releaseWinch_written _ _ _).1 (releaseWinch_written _ _ _).2
  have hsame : OnlyLines (fun _ => False) s (pushMakeUp s) := by
    rw [pushMakeUp_eq]
    exact .same rfl rfl
  refine ⟨q, hq, heq, hset.between (P := fun _ => False) (fun _ _ => id) hsame (.same rfl rfl) ?_⟩
  exact (releaseAll_only s).told.cfg

/-! ## What a recompute leaves of the couplings (R100) -/

/-- From `s` to `u` of the couplings nothing but summary and f_cpl has changed, and no line but those of shafts. -/
def CouplingsKept (s u : State) : Prop :=
  u.cpc = { s.cpc with summary := u.cpc.summary, fCpl := u.cpc.fCpl } ∧ OnlyLines (fun a => ∃ n, ofShaft n a) s u

theorem CouplingsKept.refl (s : State) : CouplingsKept s s := ⟨rfl, .refl s⟩

theorem CouplingsKept.trans {s t u : State} (h : CouplingsKept s t) (k : CouplingsKept t u) : CouplingsKept s u := by
  obtain ⟨hcpc, hlines⟩ := h
  obtain ⟨kcpc, klines⟩ := k
  refine ⟨?_, hlines.trans klines⟩
  rw [kcpc, hcpc]

/-- A change of other blocks. -/
theorem CouplingsKept.same {s u : State} (hcpc : u.cpc = s.cpc) (hcfg : u.cfg = s.cfg) (hdlu : u.dlu = s.dlu) :
    CouplingsKept s u := ⟨by rw [hcpc], .same hcfg hdlu⟩

/-- Between `s` and `u` the pull-off of `s` completes. -/
def Completes (s u : State) : Prop :=
  s.cpc.pullOff.isSome = true ∧
    ∃ a, Told s a ∧ CouplingsKept s a ∧ shaftsDown a = true ∧ CouplingsKept (released a) u

/-- Between `s` and `u` the couplings are kept, or the pull-off completes. -/
def CouplingsFollow (s u : State) : Prop := CouplingsKept s u ∨ Completes s u

theorem CouplingsFollow.after {s t u : State} (ht : Told s t) (h : CouplingsKept s t) (k : CouplingsFollow t u) :
    CouplingsFollow s u := by
  obtain k | ⟨hp, a, ktold, kkept, kdown, kafter⟩ := k
  · exact .inl (h.trans k)
  · have hpull : t.cpc.pullOff = s.cpc.pullOff := by rw [h.1]
    exact .inr ⟨hpull ▸ hp, a, ht.trans ktold, h.trans kkept, kdown, kafter⟩

theorem CouplingsFollow.before {s t u : State} (h : CouplingsFollow s t) (k : CouplingsKept t u) :
    CouplingsFollow s u := by
  obtain h | ⟨hp, a, htold, hkept, hdown, hafter⟩ := h
  · exact .inl (h.trans k)
  · exact .inr ⟨hp, a, htold, hkept, hdown, hafter.trans k⟩

theorem CouplingsFollow.withoutPullOff {s u : State} (h : CouplingsFollow s u) (hp : s.cpc.pullOff = none) :
    CouplingsKept s u := h.resolve_right fun ⟨hsome, _⟩ => by simp [hp] at hsome

end Sys2Proof.Machine
end

section
/-!
SUPPORT. A notice to the SHU and a settlement of the couplings, each by any recompute with the properties `Recomputes`: a
recompute with its delivery has them, and so has one with all that its delivery brings about (R23, R26, R28, R95 to R97,
R100, R106).
-/

namespace Sys2Proof.Machine

/-! ## What the figures in force come of -/

/-- What the share comes of, and the share, are unchanged. -/
theorem ShareInForce.congr {s u : State} (h : ShareInForce s) (hcfg : u.cfg = s.cfg) (hmode : u.svp.mode = s.svp.mode)
    (hpanel : u.svp.panel = s.svp.panel) (hcvu : u.cvu = s.cvu) (htanks : u.fau.tanks = s.fau.tanks)
    (hfactor : u.cpc.fCpl = s.cpc.fCpl) (hshu : u.shu = s.shu) (hsfc : u.sfc = s.sfc) : ShareInForce u := by
  obtain ⟨_, _, _, _, ⟨_⟩, _, _, _, _, _, ⟨_⟩, ⟨_⟩, _, _⟩ := u
  obtain ⟨_, _, _, _, ⟨_⟩, _, _, _, _, _, ⟨_⟩, ⟨_⟩, _, _⟩ := s
  simp only at hcfg hmode hpanel hcvu htanks hfactor hshu hsfc
  subst hcfg hmode hpanel hcvu htanks hfactor hshu hsfc
  exact h

/-- The summary and f_cpl are those that R95 and R97 give now. -/
def CouplingNow (u : State) : Prop := u.cpc.summary = summaryNow u ∧ u.cpc.fCpl = fCplNow u

theorem CouplingNow.inForce {u : State} (h : CouplingNow u) : CouplingInForce u := coupling_iff h

/-- What summary and f_cpl come of, and both, are unchanged. -/
theorem CouplingNow.congr {s u : State} (h : CouplingNow s) (hcfg : u.cfg = s.cfg) (hcvu : u.cvu = s.cvu)
    (hcpc : u.cpc = s.cpc) : CouplingNow u := by
  simpa only [CouplingNow, summaryNow, fCplNow, countingWinches, winchCounts, neighbourMade, peerOf, hcfg, hcvu, hcpc]
    using h

theorem stcNotice_eq (s : State) : stcNotice s = { s with stc := (stcNotice s).stc } := rfl

theorem placeAlert_share {s : State} (h : ShareInForce s) : ShareInForce (placeAlert s) := by
  rw [placeAlert_eq]
  exact h.congr rfl rfl rfl rfl rfl rfl rfl rfl

theorem placeAlert_steering {s : State} (h : SteeringInForce s) : SteeringInForce (placeAlert s) := by
  rw [placeAlert_eq]
  exact h.congr rfl rfl rfl rfl rfl rfl rfl

theorem placeAlert_coupling {s : State} (h : CouplingNow s) : CouplingNow (placeAlert s) := by
  rw [placeAlert_eq]
  exact h.congr rfl rfl rfl

theorem placeAlert_contributes {s : State} (h : ContributesInForce s) : ContributesInForce (placeAlert s) := by
  rw [placeAlert_eq]
  exact h

theorem stcNotice_share {s : State} (h : ShareInForce s) : ShareInForce (stcNotice s) :=
  h.congr rfl rfl rfl rfl rfl rfl rfl rfl

theorem stcNotice_coupling {s : State} (h : CouplingNow s) : CouplingNow (stcNotice s) := h.congr rfl rfl rfl

/-- From `s` to `u` no flag but SHORTFALL has been raised. -/
def ShortfallOnly (s u : State) : Prop := ∀ f, f ≠ .shortfall → flagSet f u = flagSet f s

theorem ShortfallOnly.same {s u : State} (h : u.svp.flags = s.svp.flags) : ShortfallOnly s u := fun f _ => by
  simp only [flagSet, h]

theorem ShortfallOnly.trans {s t u : State} (h : ShortfallOnly s t) (k : ShortfallOnly t u) : ShortfallOnly s u :=
  fun f hf => (k f hf).trans (h f hf)

theorem recomputeShare_shortfallOnly (s : State) : ShortfallOnly s (recomputeShare s) := by
  by_cases hm : s.svp.mode = .configuring
  · rw [recomputeShare_configuring hm]
    exact .same rfl
  · intro f hf
    rw [recomputeShare_flags hm]
    simp [hf]

theorem placeAlert_shortfallOnly (s : State) : ShortfallOnly s (placeAlert s) := .same (by rw [placeAlert_eq])

/-! ## The rudders through notices (R66, R71) -/

/-- A notice to the STC serves every rudder, and aims it where it is FOLLOWING. -/
theorem stcNotice_rudder {s : State} {n : Nat} {r : Rudder} (h : getN s.stc.rudders n = some r) :
    ∃ q, getN (stcNotice s).stc.rudders n = some q ∧
      q = { serveRudder (steeringOrder s) r with setPoint := q.setPoint } ∧
      ((serveRudder (steeringOrder s) r).state ≠ .following → q = serveRudder (steeringOrder s) r) := by
  have hget : getN (stcNotice s).stc.rudders n = getN
      (mapWith (aimRudder s.shu.contributing s.cvu.effDelta s.svp.panel.tiller (stcNotice s).stc.k) s.cfg.shafts
        (s.stc.rudders.map (serveRudder (steeringOrder s)))) n := rfl
  rw [hget, getN_mapWith, getN_map, h]
  cases getN s.cfg.shafts n with
  | none => exact ⟨_, rfl, rfl, fun _ => rfl⟩
  | some c =>
    refine ⟨_, rfl, ?_, fun hne => if_neg hne⟩
    unfold aimRudder
    split <;> rfl

/-- From `s` to `u` every rudder keeps its angle and its drive; one in a fault state is as it was, one in service stays so, and
one PARKED was so with the set-point it has, or has the set-point 0. -/
def RuddersFollow (s u : State) : Prop :=
  ∀ n r, getN s.stc.rudders n = some r → ∃ q, getN u.stc.rudders n = some q ∧
    q = { r with state := q.state, setPoint := q.setPoint } ∧
    ((r.state = .stalled ∨ r.state = .sensorLost) → q = r) ∧
    ((r.state = .following ∨ r.state = .parked) → (q.state = .following ∨ q.state = .parked)) ∧
    (q.state = .parked → (r.state = .parked ∧ q.setPoint = r.setPoint) ∨ q.setPoint = 0)

theorem RuddersFollow.same {s u : State} (h : u.stc.rudders = s.stc.rudders) : RuddersFollow s u :=
  fun _ r hr => ⟨r, h ▸ hr, rfl, fun _ => rfl, fun h => h, fun h => .inl ⟨h, rfl⟩⟩

theorem RuddersFollow.trans {s t u : State} (h : RuddersFollow s t) (k : RuddersFollow t u) : RuddersFollow s u := by
  intro n r hr
  obtain ⟨m, hm, heq, hfault, hserve, hpark⟩ := h n r hr
  obtain ⟨q, hq, keq, kfault, kserve, kpark⟩ := k n m hm
  refine ⟨q, hq, by rw [keq, heq], fun hf => ?_, fun hs => kserve (hserve hs), fun hp => ?_⟩
  · obtain rfl := hfault hf
    exact kfault hf
  · obtain ⟨hmp, hsame⟩ | hzero := kpark hp
    · rw [hsame]
      exact hpark hmp
    · exact .inr hzero

theorem stcNotice_rudders (s : State) : RuddersFollow s (stcNotice s) := by
  intro n r hr
  obtain ⟨q, hq, heq, hrest⟩ := stcNotice_rudder hr
  have hstate : q.state = (serveRudder (steeringOrder s) r).state := by rw [heq]
  refine ⟨q, hq, ?_, fun hf => ?_, fun hs => ?_, fun hp => ?_⟩
  · rw [heq]
    unfold serveRudder
    cases r.state <;> cases steeringOrder s <;> rfl
  · have hsame : serveRudder (steeringOrder s) r = r := by
      obtain hf | hf := hf <;> simp [serveRudder, hf]
    rw [hsame] at hrest
    exact hrest (by obtain hf | hf := hf <;> simp [hf])
  · rw [hstate]
    unfold serveRudder
    obtain hs | hs := hs <;> cases steeringOrder s <;> simp [hs]
  · rw [hrest (by rw [← hstate, hp]; simp)]
    rw [hstate] at hp
    clear heq hrest hstate
    unfold serveRudder at hp ⊢
    cases hr : r.state <;> cases ho : steeringOrder s <;> simp [hr, ho] at hp ⊢

theorem recomputeShare_rudders (s : State) : RuddersFollow s (recomputeShare s) := by
  by_cases hm : s.svp.mode = .configuring
  · rw [recomputeShare_configuring hm]
    exact .same rfl
  · rw [recomputeShare_eq hm, noticeDirs]
    have hkept : (deliverAll (shareResult s) (availabilities s) (shareKept s)).stc = s.stc := by
      rw [deliverAll_frame, shareKept_eq]
    split
    · exact .same (by rw [hkept])
    · exact .trans (.same (by rw [hkept])) (stcNotice_rudders _)

/-! ## The recomputes -/

/-- What a recompute of the share does: it leaves the share in force and what the other figures come of, or brings these up
to date, with an ALERT for each change of the summary and of the contributing state; nothing in CONFIGURING. -/
structure Recomputes (rc : State → State) : Prop where
  told : ∀ s, Told s (rc s)
  configuring : ∀ {s}, s.svp.mode = .configuring → rc s = s
  share : ∀ {s}, s.svp.mode ≠ .configuring → ShareInForce (rc s)
  steering : ∀ {s}, SteeringInForce s → SteeringInForce (rc s)
  coupling : ∀ {s}, CouplingNow s → CouplingNow (rc s)
  contributes : ∀ {s}, ContributesInForce s → ContributesInForce (rc s)
  alerts : ∀ {s}, ((rc s).cpc.summary ≠ s.cpc.summary ∨ (rc s).shu.contributing ≠ s.shu.contributing) → Alerted (rc s)
  line : ∀ s, AlertsOnly s.lif (rc s).lif
  kept : ∀ s, (rc s).shu.muted = s.shu.muted ∧ (rc s).shu.departing = s.shu.departing ∧
    (rc s).shu.phi = s.shu.phi ∧ (rc s).cpc.parted = s.cpc.parted
  couplings : ∀ s, CouplingsFollow s (rc s)
  flags : ∀ s, ShortfallOnly s (rc s)
  rudders : ∀ s, RuddersFollow s (rc s)
  withoutPullOff : ∀ {s}, s.cpc.pullOff = none →
    (rc s).cpc = s.cpc ∧ (rc s).shu.contributing = s.shu.contributing ∧ (rc s).lif = s.lif

theorem recomputeShare_kept (s : State) : CouplingsKept s (recomputeShare s) :=
  ⟨by rw [recomputeShare_cpc], recomputeShare_only s⟩

theorem recomputeShare_recomputes : Recomputes recomputeShare where
  told := recomputeShare_told
  configuring := recomputeShare_configuring
  share := recomputeShare_inForce
  steering := recomputeShare_steering
  coupling {s} h := h.congr (recomputeShare_told s).cfg (recomputeShare_told s).cvu (recomputeShare_cpc s)
  contributes {s} h := by
    obtain ⟨hcontributing, hdeparting, hmuted, hphi⟩ := recomputeShare_told_shu s
    exact h.congr (recomputeShare_told s).mode (recomputeShare_told s).panel (recomputeShare_cpc s) hcontributing
      hdeparting hmuted
  alerts {s} h := by
    obtain ⟨hcontributing, -⟩ := recomputeShare_told_shu s
    rw [recomputeShare_cpc, hcontributing] at h
    exact absurd h (by simp)
  line s := by
    rw [recomputeShare_lif]
    exact .refl _
  kept s := by
    obtain ⟨-, hdeparting, hmuted, hphi⟩ := recomputeShare_told_shu s
    exact ⟨hmuted, hdeparting, hphi, by rw [recomputeShare_cpc]⟩
  couplings s := .inl (recomputeShare_kept s)
  flags := recomputeShare_shortfallOnly
  rudders := recomputeShare_rudders
  withoutPullOff {s} _ := ⟨recomputeShare_cpc s, (recomputeShare_told_shu s).1, recomputeShare_lif s⟩

/-! ## A notice to the SHU (R23, R26, R28) -/

/-- The contributing state brought up to date. -/
def withContributing (s : State) : State := { s with shu := { s.shu with contributing := contributingNow s } }

theorem withContributing_contributes (s : State) : ContributesInForce (withContributing s) := rfl

theorem withContributing_told (s : State) : Told s (withContributing s) := shu_told _ s

section
variable {rc : State → State} (hrc : Recomputes rc) {force : Bool} {s : State}
include hrc

omit hrc in
/-- A notice to the SHU leaves the contributing state as it was, with a recompute or none, or changes it with an ALERT. -/
theorem shuNoticeWith_cases (P : State → Prop) (hkept : contributingNow s = s.shu.contributing → force = false → P s)
    (hforced : contributingNow s = s.shu.contributing → force = true → P (rc s))
    (hchanged : contributingNow s ≠ s.shu.contributing →
      P (placeAlert (stcNotice (rc (withContributing s))))) :
    P (shuNoticeWith rc force s) := by
  unfold shuNoticeWith
  split
  next h =>
    cases force
    · exact hkept h rfl
    · exact hforced h rfl
  next h => exact hchanged h

theorem shuNoticeWith_told : Told s (shuNoticeWith rc force s) :=
  shuNoticeWith_cases (Told s) (fun _ _ => .refl s) (fun _ _ => hrc.told s) fun _ =>
    (((withContributing_told s).trans (hrc.told _)).trans (stcNotice_told _)).trans (placeAlert_told _)

theorem shuNoticeWith_contributes : ContributesInForce (shuNoticeWith rc force s) := by
  refine shuNoticeWith_cases ContributesInForce (fun h _ => h.symm) (fun h _ => hrc.contributes h.symm) fun _ => ?_
  have h : ContributesInForce (rc (withContributing s)) := hrc.contributes (withContributing_contributes s)
  exact placeAlert_contributes h

theorem shuNoticeWith_coupling (h : CouplingNow s) : CouplingNow (shuNoticeWith rc force s) := by
  refine shuNoticeWith_cases CouplingNow (fun _ _ => h) (fun _ _ => hrc.coupling h) fun _ => ?_
  exact placeAlert_coupling (stcNotice_coupling (hrc.coupling (h.congr rfl rfl rfl)))

theorem shuNoticeWith_share (hm : s.svp.mode ≠ .configuring)
    (h : force = true ∨ contributingNow s ≠ s.shu.contributing ∨ ShareInForce s) :
    ShareInForce (shuNoticeWith rc force s) := by
  refine shuNoticeWith_cases ShareInForce (fun hc hf => ?_) (fun _ _ => hrc.share hm) fun _ => ?_
  · obtain h | h | h := h
    · exact absurd h (by simp [hf])
    · exact absurd hc h
    · exact h
  · exact placeAlert_share (stcNotice_share (hrc.share (s := withContributing s) hm))

theorem shuNoticeWith_steering (h : contributingNow s ≠ s.shu.contributing ∨ SteeringInForce s) :
    SteeringInForce (shuNoticeWith rc force s) := by
  refine shuNoticeWith_cases SteeringInForce (fun hc _ => h.resolve_left (not_not_intro hc))
    (fun hc _ => hrc.steering (h.resolve_left (not_not_intro hc))) fun _ => ?_
  exact placeAlert_steering (stcNotice_inForce _)

theorem shuNoticeWith_alerts
    (h : (shuNoticeWith rc force s).cpc.summary ≠ s.cpc.summary ∨
      (shuNoticeWith rc force s).shu.contributing ≠ s.shu.contributing) : Alerted (shuNoticeWith rc force s) := by
  revert h
  exact shuNoticeWith_cases
    (fun u => u.cpc.summary ≠ s.cpc.summary ∨ u.shu.contributing ≠ s.shu.contributing → Alerted u)
    (fun _ _ h => absurd h (by simp)) (fun _ _ h => hrc.alerts h) fun _ _ => placeAlert_alerted _

theorem shuNoticeWith_line : AlertsOnly s.lif (shuNoticeWith rc force s).lif :=
  shuNoticeWith_cases (fun u => AlertsOnly s.lif u.lif) (fun _ _ => .refl _) (fun _ _ => hrc.line s) fun _ =>
    AlertsOnly.trans (m := (rc (withContributing s)).lif) (hrc.line (withContributing s))
      (placeAlert_line (stcNotice (rc (withContributing s))))

omit hrc in
theorem placeAlert_kept (s : State) : CouplingsKept s (placeAlert s) := by
  rw [placeAlert_eq]
  exact .same rfl rfl rfl

omit hrc in
theorem stcNotice_kept (s : State) : CouplingsKept s (stcNotice s) := .same rfl rfl rfl

theorem shuNoticeWith_couplings : CouplingsFollow s (shuNoticeWith rc force s) := by
  refine shuNoticeWith_cases (CouplingsFollow s) (fun _ _ => .inl (.refl s)) (fun _ _ => hrc.couplings s) fun _ => ?_
  have h := CouplingsFollow.after (withContributing_told s) (.same rfl rfl rfl) (hrc.couplings (withContributing s))
  exact (h.before (stcNotice_kept _)).before (placeAlert_kept _)

theorem shuNoticeWith_flags : ShortfallOnly s (shuNoticeWith rc force s) := by
  refine shuNoticeWith_cases (ShortfallOnly s) (fun _ _ => .same rfl) (fun _ _ => hrc.flags s) fun _ => ?_
  have h : ShortfallOnly s (rc (withContributing s)) := hrc.flags (withContributing s)
  exact (h.trans (.same rfl)).trans (placeAlert_shortfallOnly (stcNotice (rc (withContributing s))))

omit hrc in
theorem placeAlert_rudders (s : State) : RuddersFollow s (placeAlert s) := .same (by rw [placeAlert_eq])

theorem shuNoticeWith_rudders : RuddersFollow s (shuNoticeWith rc force s) := by
  refine shuNoticeWith_cases (RuddersFollow s) (fun _ _ => .same rfl) (fun _ _ => hrc.rudders s) fun _ => ?_
  have h : RuddersFollow s (rc (withContributing s)) := hrc.rudders (withContributing s)
  exact (h.trans (stcNotice_rudders _)).trans (placeAlert_rudders _)

/-- What a notice to the SHU leaves of the SHU and of the couplings. -/
theorem shuNoticeWith_kept : (shuNoticeWith rc force s).shu.muted = s.shu.muted ∧
    (shuNoticeWith rc force s).shu.departing = s.shu.departing ∧ (shuNoticeWith rc force s).shu.phi = s.shu.phi ∧
    (shuNoticeWith rc force s).cpc.parted = s.cpc.parted := by
  refine shuNoticeWith_cases (fun u => u.shu.muted = s.shu.muted ∧ u.shu.departing = s.shu.departing ∧
    u.shu.phi = s.shu.phi ∧ u.cpc.parted = s.cpc.parted) (fun _ _ => ⟨rfl, rfl, rfl, rfl⟩)
    (fun _ _ => hrc.kept s) fun _ => ?_
  rw [placeAlert_eq]
  exact hrc.kept (withContributing s)

theorem shuNoticeWith_withoutPullOff (h : s.cpc.pullOff = none) : (shuNoticeWith rc force s).cpc = s.cpc := by
  refine shuNoticeWith_cases (fun u => u.cpc = s.cpc) (fun _ _ => rfl) (fun _ _ => (hrc.withoutPullOff h).1) fun _ => ?_
  rw [placeAlert_eq]
  exact (hrc.withoutPullOff (s := withContributing s) h).1

/-! ## A settlement of the couplings (R91, R95 to R97, R106) -/

/-- Summary and f_cpl brought up to date. -/
def withCoupling (s : State) : State := { s with cpc := { s.cpc with summary := summaryNow s, fCpl := fCplNow s } }

omit hrc in
theorem withCoupling_now (s : State) : CouplingNow (withCoupling s) := ⟨rfl, rfl⟩

omit hrc in
theorem withCoupling_told (s : State) : Told s (withCoupling s) := cpc_told _ s

omit hrc in
/-- A settlement is a notice to the SHU on the new summary and f_cpl, with or without an ALERT after it. -/
theorem settleWith_cases (P : State → Prop) (parted : Bool)
    (htold : summaryNow s = s.cpc.summary → parted = false →
      P (shuNoticeWith rc (decide (fCplNow s ≠ s.cpc.fCpl)) (withCoupling s)))
    (halert : ∀ v, (v = shuNoticeWith rc (decide (fCplNow s ≠ s.cpc.fCpl)) (withCoupling s) ∨
      v = placeAlert (shuNoticeWith rc (decide (fCplNow s ≠ s.cpc.fCpl)) (withCoupling s))) → P (placeAlert v)) :
    P (settleWith rc parted s) := by
  by_cases hsm : summaryNow s = s.cpc.summary
  · cases parted
    · have heq : settleWith rc false s = shuNoticeWith rc (decide (fCplNow s ≠ s.cpc.fCpl)) (withCoupling s) := by
        simp only [settleWith, hsm, if_true]
        simp [withCoupling, hsm]
      exact heq ▸ htold hsm rfl
    · have heq : settleWith rc true s =
          placeAlert (shuNoticeWith rc (decide (fCplNow s ≠ s.cpc.fCpl)) (withCoupling s)) := by
        simp only [settleWith, hsm, if_true]
        simp [withCoupling, hsm]
      exact heq ▸ halert _ (.inl rfl)
  · cases parted
    · have heq : settleWith rc false s =
          placeAlert (shuNoticeWith rc (decide (fCplNow s ≠ s.cpc.fCpl)) (withCoupling s)) := by
        simp [settleWith, hsm, withCoupling]
      exact heq ▸ halert _ (.inl rfl)
    · have heq : settleWith rc true s =
          placeAlert (placeAlert (shuNoticeWith rc (decide (fCplNow s ≠ s.cpc.fCpl)) (withCoupling s))) := by
        simp [settleWith, hsm, withCoupling]
      exact heq ▸ halert _ (.inr rfl)

omit hrc in
/-- What the notice leaves, and an ALERT keeps, a settlement leaves. -/
theorem settleWith_of_notice (P : State → Prop) (parted : Bool)
    (hnotice : P (shuNoticeWith rc (decide (fCplNow s ≠ s.cpc.fCpl)) (withCoupling s)))
    (halert : ∀ v, P v → P (placeAlert v)) : P (settleWith rc parted s) :=
  settleWith_cases P parted (fun _ _ => hnotice) fun _ hv => halert _ <| by
    obtain rfl | rfl := hv
    · exact hnotice
    · exact halert _ hnotice

theorem settleWith_told (parted : Bool) : Told s (settleWith rc parted s) :=
  settleWith_of_notice (Told s) parted ((withCoupling_told s).trans (shuNoticeWith_told hrc)) fun v hv =>
    hv.trans (placeAlert_told v)

theorem settleWith_contributes (parted : Bool) : ContributesInForce (settleWith rc parted s) :=
  settleWith_of_notice ContributesInForce parted (shuNoticeWith_contributes hrc) fun _ => placeAlert_contributes

theorem settleWith_coupling (parted : Bool) : CouplingNow (settleWith rc parted s) :=
  settleWith_of_notice CouplingNow parted (shuNoticeWith_coupling hrc (withCoupling_now s))
    fun _ => placeAlert_coupling

theorem settleWith_share (parted : Bool) (hm : s.svp.mode ≠ .configuring) (h : ShareInForce s) :
    ShareInForce (settleWith rc parted s) := by
  refine settleWith_of_notice ShareInForce parted (shuNoticeWith_share hrc hm ?_) fun _ => placeAlert_share
  · by_cases hf : fCplNow s = s.cpc.fCpl
    · exact .inr (.inr (h.congr rfl rfl rfl rfl rfl hf rfl rfl))
    · exact .inl (decide_eq_true hf)

theorem settleWith_steering (parted : Bool) (h : SteeringInForce s) : SteeringInForce (settleWith rc parted s) := by
  refine settleWith_of_notice SteeringInForce parted (shuNoticeWith_steering hrc ?_) fun _ => placeAlert_steering
  exact .inr (h.congr rfl rfl rfl rfl rfl rfl rfl)

theorem settleWith_alerts (parted : Bool)
    (h : parted = true ∨ (settleWith rc parted s).cpc.summary ≠ s.cpc.summary ∨
      (settleWith rc parted s).shu.contributing ≠ s.shu.contributing) : Alerted (settleWith rc parted s) := by
  revert h
  refine settleWith_cases (fun u => parted = true ∨ u.cpc.summary ≠ s.cpc.summary ∨
    u.shu.contributing ≠ s.shu.contributing → Alerted u) parted (fun hsm hp h => ?_) fun _ _ _ => placeAlert_alerted _
  refine shuNoticeWith_alerts hrc (h.resolve_left (by simp [hp]) |>.imp_left fun h => ?_)
  exact fun heq => h (heq.trans hsm)

omit hrc in
theorem withCoupling_kept (s : State) : CouplingsKept s (withCoupling s) := ⟨rfl, .same rfl rfl⟩

theorem settleWith_couplings (parted : Bool) : CouplingsFollow s (settleWith rc parted s) :=
  settleWith_of_notice (CouplingsFollow s) parted
    (.after (withCoupling_told s) (withCoupling_kept s) (shuNoticeWith_couplings hrc)) fun v hv =>
      hv.before (placeAlert_kept v)

theorem settleWith_flags (parted : Bool) : ShortfallOnly s (settleWith rc parted s) :=
  settleWith_of_notice (ShortfallOnly s) parted (shuNoticeWith_flags hrc (s := withCoupling s)) fun v hv =>
    hv.trans (placeAlert_shortfallOnly v)

theorem settleWith_rudders (parted : Bool) : RuddersFollow s (settleWith rc parted s) :=
  settleWith_of_notice (RuddersFollow s) parted (shuNoticeWith_rudders hrc (s := withCoupling s)) fun v hv =>
    hv.trans (placeAlert_rudders v)

theorem settleWith_line (parted : Bool) : AlertsOnly s.lif (settleWith rc parted s).lif :=
  settleWith_of_notice (fun u => AlertsOnly s.lif u.lif) parted (shuNoticeWith_line hrc (s := withCoupling s))
    fun v hv => hv.trans (placeAlert_line v)

theorem settleWith_kept (parted : Bool) : (settleWith rc parted s).shu.muted = s.shu.muted ∧
    (settleWith rc parted s).shu.departing = s.shu.departing ∧ (settleWith rc parted s).shu.phi = s.shu.phi ∧
    (settleWith rc parted s).cpc.parted = s.cpc.parted :=
  settleWith_of_notice (fun u => u.shu.muted = s.shu.muted ∧ u.shu.departing = s.shu.departing ∧
    u.shu.phi = s.shu.phi ∧ u.cpc.parted = s.cpc.parted) parted (shuNoticeWith_kept hrc) fun v hv => by
      rw [placeAlert_eq]
      exact hv

/-- With no pull-off a settlement changes summary and f_cpl alone of the couplings. -/
theorem settleWith_withoutPullOff (parted : Bool) (h : s.cpc.pullOff = none) :
    (settleWith rc parted s).cpc = (withCoupling s).cpc :=
  settleWith_of_notice (fun u => u.cpc = (withCoupling s).cpc) parted
    (shuNoticeWith_withoutPullOff hrc (s := withCoupling s) h) fun v hv => by
      rw [placeAlert_eq]
      exact hv

end

end Sys2Proof.Machine
end

section
/-!
SUPPORT. A completed pull-off and a recompute with all that its delivery brings about (R28, R46, R100): the latter is one of
the recomputes (`Recomputes`).
-/

namespace Sys2Proof.Machine

/-! ## What a completed pull-off leaves -/

theorem releaseWinch_notFast (now : Nat) (c : WinchCfg) (w : Winch) : winchFast (releaseWinch now c w) = false := by
  unfold releaseWinch
  split
  · split <;> simp [winchFast]
  next h => simpa using h

/-- After a pull-off no winch counts (R95). -/
theorem released_noneCounts (s : State) : countingWinches (released s) = [] := by
  refine List.filter_eq_nil_iff.2 fun cw hcw => ?_
  obtain ⟨i, hi⟩ := List.mem_iff_getElem?.1 hcw
  obtain ⟨hc, hq⟩ := List.getElem?_zip_eq_some.1 hi
  have hcfg : (released s).cfg = s.cfg := (released_told s).cfg
  rw [hcfg] at hc
  have hq : getN (released s).cpc.winches (i + 1) = some cw.2 := hq
  have hc : getN s.cfg.winches (i + 1) = some cw.1 := hc
  obtain ⟨w, hw⟩ : ∃ w, getN s.cpc.winches (i + 1) = some w :=
    Option.isSome_iff_exists.1 (getN_isSome (released_length s ▸ mem_numbers_of_getN hq))
  obtain ⟨q, hq', heq, -⟩ := released_winch hw hc
  have hfast : winchFast cw.2 = false := by
    rw [Option.some.inj (hq.symm.trans hq'), heq]
    exact releaseWinch_notFast s.now cw.1 w
  simp [winchCounts, hfast]

theorem released_summary (s : State) : summaryNow (released s) = .free := by
  simp [summaryNow, released_noneCounts, summaryOf]

theorem released_factor (s : State) : fCplNow (released s) = 1000 := by simp [fCplNow, released_noneCounts]

theorem finishPullOff_cpc (s : State) : (finishPullOff s).cpc = { (released s).cpc with summary := .free, fCpl := 1000 } := by
  have hpull : (released s).cpc.pullOff = none := by rw [released_eq]
  rw [finishPullOff_eq, settleWith_withoutPullOff recomputeShare_recomputes false hpull, withCoupling, released_summary,
    released_factor]

theorem finishPullOff_told (s : State) : Told s (finishPullOff s) :=
  (released_told s).trans (settleWith_told recomputeShare_recomputes false)

theorem finishPullOff_contributing (s : State) : (finishPullOff s).shu.contributing = false := by
  have h : ContributesInForce (finishPullOff s) := settleWith_contributes recomputeShare_recomputes false
  have hnow : contributingNow (finishPullOff s) = false := by
    simp [contributingNow, contributingConditions, finishPullOff_cpc]
  rw [h, hnow]

theorem finishPullOff_follows (s : State) : CouplingsKept (released s) (finishPullOff s) :=
  (settleWith_couplings recomputeShare_recomputes false).withoutPullOff (by rw [released_eq])

theorem released_shu (s : State) : (released s).shu = s.shu := by rw [released_eq]

theorem released_lif (s : State) : (released s).lif = s.lif := by rw [released_eq]

theorem released_share {s : State} (h : ShareInForce s) : ShareInForce (released s) :=
  h.congr (released_told s).cfg (released_told s).mode (released_told s).panel (released_told s).cvu
    (by rw [(released_told s).fau])
    (by rw [released_eq]) (released_shu s) (by rw [released_eq])

theorem released_steering {s : State} (h : SteeringInForce s) : SteeringInForce (released s) :=
  h.congr (released_told s).cfg (released_told s).mode (released_told s).panel (released_told s).cvu
    (by rw [released_eq]) (by rw [released_shu]) (by rw [released_eq]; rfl)

theorem finishPullOff_share {s : State} (hm : s.svp.mode ≠ .configuring) (h : ShareInForce s) :
    ShareInForce (finishPullOff s) :=
  settleWith_share (s := released s) recomputeShare_recomputes false ((released_told s).mode ▸ hm) (released_share h)

theorem finishPullOff_alerts {s : State} (h : (finishPullOff s).cpc.summary ≠ s.cpc.summary ∨
    (finishPullOff s).shu.contributing ≠ s.shu.contributing) : Alerted (finishPullOff s) := by
  refine settleWith_alerts (s := released s) recomputeShare_recomputes false (.inr ?_)
  have hsummary : (released s).cpc.summary = s.cpc.summary := by rw [released_eq]
  rw [hsummary, released_shu]
  exact h

theorem finishPullOff_line (s : State) : AlertsOnly s.lif (finishPullOff s).lif := by
  rw [← released_lif s]
  exact settleWith_line (s := released s) recomputeShare_recomputes false

theorem finishPullOff_flags (s : State) : ShortfallOnly s (finishPullOff s) :=
  ShortfallOnly.trans (t := released s) (.same (by rw [released_svp]))
    (settleWith_flags (s := released s) recomputeShare_recomputes false)

theorem finishPullOff_kept (s : State) : (finishPullOff s).shu.muted = s.shu.muted ∧
    (finishPullOff s).shu.departing = s.shu.departing ∧ (finishPullOff s).shu.phi = s.shu.phi ∧
    (finishPullOff s).cpc.parted = s.cpc.parted := by
  have h := settleWith_kept (s := released s) recomputeShare_recomputes false
  have hparted : (released s).cpc.parted = s.cpc.parted := by rw [released_eq]
  rw [hparted, released_shu] at h
  exact h

/-! ## A recompute with all that its delivery brings about -/

/-- A recompute is one with its delivery alone, or the pull-off of the state completes after it. -/
theorem recompute_cases (s : State) :
    (recompute s = recomputeShare s ∧
      (s.cpc.pullOff = none ∨ shaftPs (recomputeShare s) = shaftPs s ∨ shaftsDown (recomputeShare s) = false)) ∨
    (s.cpc.pullOff.isSome = true ∧ shaftsDown (recomputeShare s) = true ∧
      recompute s = finishPullOff (recomputeShare s)) := by
  by_cases hps : shaftPs (recomputeShare s) = shaftPs s
  · exact .inl ⟨by rw [recompute, noticePs, if_pos hps], .inr (.inl hps)⟩
  · have heq : recompute s = completePullOff (recomputeShare s) := by rw [recompute, noticePs, if_neg hps]
    rw [heq, completePullOff, recomputeShare_cpc]
    cases hp : s.cpc.pullOff with
    | none => exact .inl ⟨by simp, .inl rfl⟩
    | some p =>
      cases hd : shaftsDown (recomputeShare s) with
      | false => exact .inl ⟨by simp, .inr (.inr rfl)⟩
      | true => exact .inr ⟨rfl, rfl, by simp⟩

theorem recompute_withoutPullOff {s : State} (h : s.cpc.pullOff = none) : recompute s = recomputeShare s := by
  obtain ⟨heq, -⟩ | ⟨hp, -⟩ := recompute_cases s
  · exact heq
  · simp [h] at hp

/-- What a recompute with its delivery and a pull-off that completes after it leave, a recompute leaves. -/
theorem recompute_induct {s : State} (P : State → Prop) (hshare : P (recomputeShare s))
    (hfinish : s.cpc.pullOff.isSome = true → shaftsDown (recomputeShare s) = true → P (finishPullOff (recomputeShare s))) :
    P (recompute s) := by
  obtain ⟨heq, -⟩ | ⟨hp, hd, heq⟩ := recompute_cases s
  · exact heq ▸ hshare
  · exact heq ▸ hfinish hp hd

theorem recompute_configuring {s : State} (hm : s.svp.mode = .configuring) : recompute s = s := by
  rw [recompute, recomputeShare_configuring hm, noticePs, if_pos rfl]

theorem recompute_recomputes : Recomputes recompute where
  told s := recompute_induct (Told s) (recomputeShare_told s) fun _ _ => (recomputeShare_told s).trans (finishPullOff_told _)
  configuring := recompute_configuring
  share {s} hm := recompute_induct ShareInForce (recomputeShare_inForce hm) fun _ _ =>
    finishPullOff_share (by rwa [(recomputeShare_told s).mode]) (recomputeShare_inForce hm)
  steering {s} h := recompute_induct SteeringInForce (recomputeShare_steering h) fun _ _ =>
    settleWith_steering recomputeShare_recomputes false (released_steering (recomputeShare_steering h))
  coupling {s} h := recompute_induct CouplingNow (recomputeShare_recomputes.coupling h) fun _ _ =>
    settleWith_coupling recomputeShare_recomputes false
  contributes {s} h := recompute_induct ContributesInForce (recomputeShare_recomputes.contributes h) fun _ _ =>
    settleWith_contributes recomputeShare_recomputes false
  alerts {s} := by
    obtain ⟨hcontributing, -⟩ := recomputeShare_told_shu s
    refine recompute_induct (fun u => u.cpc.summary ≠ s.cpc.summary ∨ u.shu.contributing ≠ s.shu.contributing → Alerted u)
      recomputeShare_recomputes.alerts fun _ _ h => finishPullOff_alerts ?_
    rwa [recomputeShare_cpc, hcontributing]
  line s := recompute_induct (fun u => AlertsOnly s.lif u.lif) (recomputeShare_recomputes.line s) fun _ _ => by
    have h := finishPullOff_line (recomputeShare s)
    rwa [recomputeShare_lif] at h
  kept s := by
    have hshare := recomputeShare_recomputes.kept s
    refine recompute_induct (fun u => u.shu.muted = s.shu.muted ∧ u.shu.departing = s.shu.departing ∧
      u.shu.phi = s.shu.phi ∧ u.cpc.parted = s.cpc.parted) hshare fun _ _ => ?_
    obtain ⟨hmuted, hdeparting, hphi, hparted⟩ := hshare
    obtain ⟨kmuted, kdeparting, kphi, kparted⟩ := finishPullOff_kept (recomputeShare s)
    exact ⟨kmuted.trans hmuted, kdeparting.trans hdeparting, kphi.trans hphi, kparted.trans hparted⟩
  couplings s := recompute_induct (CouplingsFollow s) (recomputeShare_recomputes.couplings s) fun hp hd =>
    .inr ⟨hp, recomputeShare s, recomputeShare_told s, recomputeShare_kept s, hd, finishPullOff_follows _⟩
  flags s := recompute_induct (ShortfallOnly s) (recomputeShare_shortfallOnly s) fun _ _ =>
    (recomputeShare_shortfallOnly s).trans (finishPullOff_flags _)
  rudders s := recompute_induct (RuddersFollow s) (recomputeShare_rudders s) fun _ _ =>
    ((recomputeShare_rudders s).trans (.same (by rw [released_eq]))).trans
      (settleWith_rudders (s := released (recomputeShare s)) recomputeShare_recomputes false)
  withoutPullOff {s} h := recompute_withoutPullOff h ▸ recomputeShare_recomputes.withoutPullOff h

end Sys2Proof.Machine
end

section
/-!
PROOFS. What follows a change that reaches the share, the steering and the couplings: departure, the end of JOINING
(O23, O28).
-/

namespace Sys2Proof.Machine

/-- A recompute, a notice to the SHU or a settlement of the couplings changes nothing of the service port but its flags. -/
theorem shuNotice_told (force : Bool) (s : State) : Told s (shuNotice force s) := shuNoticeWith_told recompute_recomputes

theorem shuNotice_contributes (force : Bool) (s : State) : ContributesInForce (shuNotice force s) :=
  shuNoticeWith_contributes recompute_recomputes

theorem shuNotice_share {s : State} (hm : s.svp.mode ≠ .configuring) : ShareInForce (shuNotice true s) :=
  shuNoticeWith_share recompute_recomputes hm (.inl rfl)

/-- Settles O23: a station that departs has not all of R23's conditions. -/
theorem departWithdraws : Obligations.DepartWithdraws := by
  intro t s hm
  let u := setDeparting (setClock t s)
  have hdeparting : u.shu.departing = true := by
    obtain ⟨-, hkept, -⟩ := shuNoticeWith_kept (force := false) (s := { setClock t s with
      shu := { s.shu with departing := true } }) recompute_recomputes
    exact hkept
  refine ⟨replyOk [] u, ?_, rfl, hdeparting, ?_⟩
  · exact congrArg Host.Outcome.next (inService_serving (s := setClock t s) hm _)
  · have hcontributes : u.shu.contributing = contributingNow u := shuNotice_contributes false _
    have hnow : contributingNow u = false := by simp [contributingNow, contributingConditions, hdeparting]
    exact hcontributes.trans hnow

/-- Settles O28: the mode is told to every block, and the ALERT placed last. -/
theorem joinEnds : Obligations.JoinEnds := by
  refine fun t s => ⟨fun hmode hdue => ?_, fun h => ?_⟩
  · let running := setMode .running none (setClock t s)
    let told := shuNotice true (reselect running)
    let u := enterRunning (setClock t s)
    have hexec : exec (.joinTimerExpiry t) s = .next u := if_pos ⟨hmode, hdue⟩
    have hsel : Reacts running (reselect running) := reselect_reacts running
    have hmodeSel : (reselect running).svp.mode = .running := hsel.mode
    have hu : Told told u := (stcNotice_told told).trans (placeAlert_told _)
    have htold : Told (reselect running) u := (shuNotice_told true _).trans hu
    have hmodeU : u.svp.mode = .running := htold.mode.trans hmodeSel
    refine ⟨u, hexec, hmodeU, ?_, placeAlert_alerted _ (.inr hmodeU), statusPayload_bytes u, ?_, ?_, ?_⟩
    · rw [htold.svp, hsel.svp]
      rfl
    · have hcontributes : ContributesInForce (stcNotice told) := shuNotice_contributes true (reselect running)
      exact (placeAlert_contributes hcontributes).iff
    · have hmode : (reselect running).svp.mode ≠ .configuring := by simp [hmodeSel]
      exact placeAlert_share (stcNotice_share (shuNotice_share hmode))
    · exact placeAlert_steering (stcNotice_inForce told)
  · have hnot : ¬(s.svp.mode = .joining ∧ due (max s.clock t / 1000) s.svp.joinAt = true) := by
      rintro ⟨hmode, hdue⟩
      simp [hmode, hdue] at h
    exact if_neg hnot

end Sys2Proof.Machine
end

section
/-!
SUPPORT. The payloads of own HELMs and FUELs as they are read back (R11, R133, R200), and what a placement does to the slots.
-/

namespace Sys2Proof.Machine

/-! ## Numbers carried in bytes -/

theorem signed_of_mod {x : Int} (hlo : -32768 ≤ x) (hhi : x < 32768) : signed 16 (x % 65536).toNat = x := by
  unfold signed
  split <;> omega

theorem stationSet_kept (b : Byte) : stationSet (BitVec.ofNat 8 (((stationSet b).map fun n => 2 ^ n).sum)) = stationSet b := by
  revert b
  decide

theorem u16_beInt (x : Int) : (x % (65536 : Int)).toNat / 256 % 256 * 256 + (x % 65536).toNat % 256 = (x % 65536).toNat := by
  omega

/-- The payload of an own HELM carries its contents. -/
theorem helmPayload_carries (h : HelmContents) (yielded : Bool) : HelmCarries (helmPayload h yielded) yielded h := by
  simp only [HelmCarries, helmPayload, beInt, setByte, beBool, be, List.cons_append, List.nil_append, s16, u16, u8,
    List.getD_cons_zero, List.getD_cons_succ, byte_ofNat, pow_zero, pow_one, Nat.div_one]
  refine ⟨rfl, trivial, trivial, ?_, fun hlo hhi => ?_, fun hlo hhi => ?_, trivial, fun b hb => ?_, fun b hb => ?_, trivial⟩
  · cases yielded <;> rfl
  · exact (congrArg _ (u16_beInt h.d)).trans (signed_of_mod hlo hhi)
  · exact (congrArg _ (u16_beInt h.delta)).trans (signed_of_mod hlo hhi)
  · rw [hb]
    exact stationSet_kept b
  · rw [hb]
    exact stationSet_kept b

theorem reserveFlag_iff (s : State) : reserveFlag s = true ↔ ∃ n c k, getN s.cfg.tanks n = some c ∧
    getN s.fau.tanks n = some k ∧ c.role = .day ∧ k.band ≠ .normal := by
  simp only [reserveFlag, List.any_eq_true, decide_eq_true_eq]
  constructor
  · rintro ⟨x, hx, hday, hband⟩
    obtain ⟨i, hi⟩ := List.mem_iff_getElem?.1 hx
    obtain ⟨hc, hk⟩ := List.getElem?_zip_eq_some.1 hi
    exact ⟨i + 1, x.1, x.2, hc, hk, hday, hband⟩
  · rintro ⟨n, c, k, hc, hk, hday, hband⟩
    cases n with
    | zero => simp at hc
    | succ i => exact ⟨(c, k), List.mem_iff_getElem?.2 ⟨i, List.getElem?_zip_eq_some.2 ⟨hc, hk⟩⟩, hday, hband⟩

/-- The payload of an own FUEL says what the state holds. -/
theorem fuelPayload_bytes (s : State) : FuelBytes (fuelPayload s) s := by
  simp only [FuelBytes, fuelPayload, beBool, be, List.cons_append, List.nil_append, u32, u16, u8,
    List.getD_cons_zero, List.getD_cons_succ, byte_ofNat, pow_zero, pow_one, Nat.div_one]
  refine ⟨rfl, by omega, ?_, fun h => ?_, fun h => ?_, trivial⟩
  · simp only [sat16]
    omega
  · rw [(reserveFlag_iff s).2 h]
    rfl
  · have hno : reserveFlag s = false := by
      rw [Bool.eq_false_iff]
      intro hyes
      obtain ⟨n, c, k, hc, hk, hday, hband⟩ := (reserveFlag_iff s).1 hyes
      exact hband (h n c k hc hk hday)
    rw [hno]
    rfl

/-! ## Slots (R169) -/

theorem slotOf_setSlot_same (k : FrameKind) (v : Option (List Byte)) (l : Lif) : slotOf k (setSlot k v l) = v := by
  cases k <;> rfl

theorem slotOf_setSlot_other {j k : FrameKind} (h : j ≠ k) (v : Option (List Byte)) (l : Lif) :
    slotOf j (setSlot k v l) = slotOf j l := by
  cases j <;> cases k <;> first | rfl | exact absurd rfl h

/-- A placement fills its slot where the transmitter is on. -/
theorem placeFrame_slot (k : FrameKind) (p : List Byte) (s : State) : slotOf k (placeFrame k p s).lif =
    if s.svp.mode = .joining ∨ s.svp.mode = .running then some p else slotOf k s.lif := by
  cases h : transmitterOn s.svp.mode
  · rw [placeFrame_off h, if_neg fun hm => by rw [transmitterOn_iff.2 hm] at h; cases h]
  · rw [placeFrame_on h, if_pos (transmitterOn_iff.1 h)]
    cases k <;> rfl

/-- A placement changes no other slot. -/
theorem placeFrame_otherSlot {j k : FrameKind} (h : j ≠ k) (p : List Byte) (s : State) :
    slotOf j (placeFrame k p s).lif = slotOf j s.lif := by
  cases hon : transmitterOn s.svp.mode
  · rw [placeFrame_off hon]
  · rw [placeFrame_on hon]
    cases k <;> cases j <;> first | rfl | exact absurd rfl h

/-- What a placement leaves of the line beside its slot and what is being sent. -/
theorem placeFrame_line (k : FrameKind) (p : List Byte) (s : State) : (placeFrame k p s).lif =
    { setSlot k (slotOf k (placeFrame k p s).lif) s.lif with
      tx := (placeFrame k p s).lif.tx, lineIdle := (placeFrame k p s).lif.lineIdle } := by
  cases hon : transmitterOn s.svp.mode
  · rw [placeFrame_off hon]
    cases k <;> rfl
  · rw [placeFrame_on hon]
    cases k <;> rfl

end Sys2Proof.Machine
end

section
/-!
SUPPORT. The followed claimant selected anew and the own claim evaluated (R10 to R18): the selection leaves what
`SelectedAnew` says, whatever has been noticed before and after.
-/

namespace Sys2Proof.Machine

/-! ## The preferred candidate (R14) -/

/-- The best of a list: one of it, to which none of it is preferred. -/
theorem bestOf_spec : ∀ (l : List Candidate), (bestOf l = none ∧ l = []) ∨
    ∃ c ∈ l, bestOf l = some c ∧ ∀ d ∈ l, preferred d c = false
  | [] => .inl ⟨rfl, rfl⟩
  | c :: cs => by
    refine .inr ?_
    have hself (x : Candidate) : preferred x x = false := by simp [preferred]
    obtain ⟨hnone, rfl⟩ | ⟨d, hd, hbest, hall⟩ := bestOf_spec cs
    · exact ⟨c, by simp, by simp [bestOf], by simp [hself]⟩
    · cases hp : preferred d c
      · refine ⟨c, by simp, by simp [bestOf, hbest, hp], fun x hx => ?_⟩
        obtain rfl | hx := List.mem_cons.1 hx
        · exact hself _
        · have hxd := hall x hx
          simp only [preferred, decide_eq_false_iff_not] at *
          omega
      · refine ⟨d, by simp [hd], by simp [bestOf, hbest, hp], fun x hx => ?_⟩
        obtain rfl | hx := List.mem_cons.1 hx
        · simp only [preferred, decide_eq_true_eq, decide_eq_false_iff_not] at *
          omega
        · exact hall x hx

theorem selected_none_iff (s : State) : selected s = none ↔ ∀ r n, ¬HelmCandidate s r n := by
  rw [no_candidate_iff, selected, Option.map_eq_none_iff]
  obtain ⟨hnone, hnil⟩ | ⟨c, hc, hbest, -⟩ := bestOf_spec (candidates s)
  · simp [hnil, bestOf]
  · simp [hbest, List.ne_nil_of_mem hc]

/-- The station selected is the preferred candidate. -/
theorem selected_iff (s : State) (n : Nat) : selected s = some n ↔ Preferred s n := by
  rw [preferred_iff, selected]
  obtain ⟨hnone, hnil⟩ | ⟨c, hc, hbest, hall⟩ := bestOf_spec (candidates s)
  · simp [hnil, bestOf]
  · rw [hbest, Option.map_some, Option.some.injEq]
    constructor
    · rintro rfl
      refine ⟨c, hc, rfl, fun d hd => ?_⟩
      have hnot := hall d hd
      simp only [preferred, decide_eq_false_iff_not] at hnot
      by_cases heq : d.rank = c.rank ∧ d.number = c.number
      · exact .inl (by cases d; cases c; simp_all)
      · right
        omega
    · rintro ⟨d, hd, rfl, hbetter⟩
      have hnot := hall d hd
      simp only [preferred, decide_eq_false_iff_not] at hnot
      obtain rfl | h := hbetter c hc
      · rfl
      · omega

/-! ## The order of the station selected (R16) -/

/-- An entry of an ordered table is the one found under its number. -/
theorem peerOf_of_mem {s : State} (h : PeersOk s.cfg.station s.cvu.peers) {p : Peer} (hp : p ∈ s.cvu.peers) :
    peerOf p.number s = some p := by
  obtain ⟨hsorted, -⟩ := h
  unfold peerOf
  generalize s.cvu.peers = l at hsorted hp ⊢
  induction l with
  | nil => simp at hp
  | cons q qs ih =>
    rw [List.map_cons, List.pairwise_cons] at hsorted
    obtain ⟨hhead, htail⟩ := hsorted
    obtain rfl | hp := List.mem_cons.1 hp
    · simp
    · have hne : q.number ≠ p.number := (hhead _ (List.mem_map_of_mem hp)).ne
      rw [List.find?_cons_of_neg (by simpa using hne)]
      exact ih htail hp

theorem peerOf_number {n : Nat} {s : State} {p : Peer} (h : peerOf n s = some p) : p.number = n ∧ p ∈ s.cvu.peers :=
  ⟨by simpa using List.find?_some h, List.mem_of_find?_eq_some h⟩

theorem ordersOf_own (s : State) : ordersOf s.cfg.station s = some (helmContents s) := if_pos rfl

/-- The contents that a helm part carries. -/
def helmPartContents (h : HelmPart) : HelmContents :=
  { rank := h.rank, periodUnits := h.period / 10, d := h.d, delta := h.delta, order := h.order
    releaseSet := h.releaseSet, remakeSet := h.remakeSet }

theorem ordersOf_peer {n : Nat} {s : State} {p : Peer} {h : HelmPart} (hn : n ≠ s.cfg.station) (hp : peerOf n s = some p)
    (hh : p.helmPart = some h) : ordersOf n s = some (helmPartContents h) := by
  simp [ordersOf, hn, helmPartOf, hp, hh, helmPartContents]

/-- Another station preferred has an entry with a helm part. -/
theorem preferred_peer {s : State} {n : Nat} (hok : PeersOk s.cfg.station s.cvu.peers) (h : Preferred s n)
    (hn : n ≠ s.cfg.station) : ∃ p hp, peerOf n s = some p ∧ p.helmPart = some hp := by
  obtain ⟨rank, hc, -⟩ := h
  obtain ⟨-, hself, -⟩ | ⟨p, hp, hmem, rfl, -, hpart, -⟩ := hc
  · exact absurd hself hn
  · exact ⟨p, hp, peerOf_of_mem hok hmem, hpart⟩

theorem peerOf_own {s : State} (h : PeersOk s.cfg.station s.cvu.peers) : peerOf s.cfg.station s = none :=
  peerOf_outside h (.inl rfl)

/-! ## What a notice leaves to the selection -/

/-- From `s` to `u` only the SHU, the shafts, the rudders, the couplings, the books, the lines, the ALERT slot and flags
other than HELM_LOST have changed; a share and steering figures in force stay so. -/
structure Noticed (s u : State) : Prop where
  clock : u.clock = s.clock
  cfg : u.cfg = s.cfg
  svp : u.svp = { s.svp with flags := u.svp.flags }
  cvu : u.cvu = s.cvu
  line : AlertsOnly s.lif u.lif
  helmLost : flagSet .helmLost u = flagSet .helmLost s
  share : s.svp.mode ≠ .configuring → ShareInForce s → ShareInForce u
  steering : SteeringInForce s → SteeringInForce u

namespace Noticed

variable {s t u : State}

theorem refl (s : State) : Noticed s s := ⟨rfl, rfl, rfl, rfl, .refl _, rfl, fun _ h => h, fun h => h⟩

theorem mode (h : Noticed s t) : t.svp.mode = s.svp.mode := by rw [h.svp]

theorem now (h : Noticed s t) : t.now = s.now := by rw [State.now, h.clock, State.now]

theorem trans (h : Noticed s t) (k : Noticed t u) : Noticed s u where
  clock := k.clock.trans h.clock
  cfg := k.cfg.trans h.cfg
  svp := by rw [k.svp, h.svp]
  cvu := k.cvu.trans h.cvu
  line := h.line.trans k.line
  helmLost := k.helmLost.trans h.helmLost
  share hm hs := k.share (h.mode ▸ hm) (h.share hm hs)
  steering hs := k.steering (h.steering hs)

theorem ite (c : Prop) [Decidable c] (h : Noticed s t) : Noticed s (if c then t else s) := by
  split
  · exact h
  · exact refl s

/-- A notice to the SHU on its way. -/
theorem ofTold (h : Told s u) (hline : AlertsOnly s.lif u.lif) (hflag : flagSet .helmLost u = flagSet .helmLost s)
    (hshare : s.svp.mode ≠ .configuring → ShareInForce s → ShareInForce u)
    (hsteering : SteeringInForce s → SteeringInForce u) : Noticed s u :=
  ⟨h.clock, h.cfg, h.svp, h.cvu, hline, hflag, hshare, hsteering⟩

/-- A change of what neither the share nor the steering comes of. -/
theorem ofSame (h : Told s u) (hline : u.lif = s.lif) (hflag : flagSet .helmLost u = flagSet .helmLost s)
    (hfactor : u.cpc.fCpl = s.cpc.fCpl)
    (hcontributing : u.shu = { s.shu with departing := u.shu.departing, muted := u.shu.muted })
    (hsfc : u.sfc = s.sfc) (hstc : u.stc = s.stc) : Noticed s u := by
  refine ofTold h (by rw [hline]; exact .refl _) hflag (fun _ hs => ?_) fun hs => ?_
  · have hmid : ShareInForce { s with shu := u.shu } := by
      rw [hcontributing]
      exact hs
    exact hmid.congr h.cfg h.mode h.panel h.cvu (by rw [h.fau]) hfactor rfl hsfc
  · exact hs.congr h.cfg h.mode h.panel h.cvu hstc (by rw [hcontributing]) (by simp [shaftDirs, hsfc])

end Noticed

theorem recomputes_noticed {rc : State → State} (hrc : Recomputes rc) (s : State) : Noticed s (rc s) :=
  .ofTold (hrc.told s) (hrc.line s) (hrc.flags s _ (by simp)) (fun hm _ => hrc.share hm) hrc.steering

theorem stcNotice_noticed (s : State) : Noticed s (stcNotice s) :=
  .ofTold (stcNotice_told s) (.refl _) rfl (fun _ h => stcNotice_share h) fun _ => stcNotice_inForce s

theorem shuNotice_noticed (force : Bool) (s : State) : Noticed s (shuNotice force s) :=
  .ofTold (shuNotice_told force s) (shuNoticeWith_line recompute_recomputes)
    (shuNoticeWith_flags recompute_recomputes _ (by simp))
    (fun hm h => shuNoticeWith_share recompute_recomputes hm (.inr (.inr h)))
    fun h => shuNoticeWith_steering recompute_recomputes (.inr h)

theorem settle_told (parted : Bool) (s : State) : Told s (settle parted s) := settleWith_told recompute_recomputes parted

theorem settle_noticed (parted : Bool) (s : State) : Noticed s (settle parted s) :=
  .ofTold (settle_told parted s) (settleWith_line recompute_recomputes parted)
    (settleWith_flags recompute_recomputes parted _ (by simp)) (settleWith_share recompute_recomputes parted)
    (settleWith_steering recompute_recomputes parted)

theorem fuelTotals_noticed (s : State) : Noticed s (fuelTotals s) where
  clock := rfl
  cfg := rfl
  svp := rfl
  cvu := rfl
  line := .refl _
  helmLost := rfl
  share _ h := h.congr rfl rfl rfl rfl rfl rfl rfl rfl
  steering h := h.congr rfl rfl rfl rfl rfl rfl rfl

theorem raiseFlag_noticed {f : Flag} (hf : f ≠ .helmLost) (s : State) : Noticed s (raiseFlag f s) :=
  .ofSame (raiseFlag_told f s) rfl (by simp [flagSet_raiseFlag, hf.symm]) rfl rfl rfl rfl

theorem noticePeers_noticed (s : State) : Noticed s (noticePeers s) :=
  (((recomputes_noticed recompute_recomputes s).trans (stcNotice_noticed _)).trans (settle_noticed false _)).trans
    (fuelTotals_noticed _)

theorem noticeOrder_noticed (s : State) : Noticed s (noticeOrder s) :=
  (recomputes_noticed recompute_recomputes s).trans (stcNotice_noticed _)

/-- A new effective order leaves the share and the steering figures in force. -/
theorem noticeOrder_inForce (s : State) :
    (s.svp.mode ≠ .configuring → ShareInForce (noticeOrder s)) ∧ SteeringInForce (noticeOrder s) :=
  ⟨fun hm => stcNotice_share (recompute_recomputes.share hm), stcNotice_inForce _⟩

end Sys2Proof.Machine
end

section
/-!
SUPPORT. A selection made anew, step by step (R10, R11, R13, R14, R16, R18): the claim evaluated after it, and what the
selection leaves (`SelectedAnew`), also through the notices before and after it.
-/

namespace Sys2Proof.Machine

/-! ## The claim evaluated (R10, R11, R13) -/

/-- From `w` to `u` only the claim, the helm period, the last HELM and the HELM slot have changed, with what is being sent. -/
def ClaimOnly (w u : State) : Prop :=
  u = { w with
    cvu := { w.cvu with claim := u.cvu.claim, helmAt := u.cvu.helmAt, lastHelm := u.cvu.lastHelm }
    lif := { w.lif with slotHelm := u.lif.slotHelm, tx := u.lif.tx, lineIdle := u.lif.lineIdle } }

theorem ClaimOnly.refl (w : State) : ClaimOnly w w := rfl

theorem ClaimOnly.trans {w x u : State} (h : ClaimOnly w x) (k : ClaimOnly x u) : ClaimOnly w u := by
  unfold ClaimOnly at h k ⊢
  rw [k, h]

theorem setClaim_claimOnly (c : Claim) (e : Option Nat) (w : State) : ClaimOnly w (setClaim c e w) := rfl

theorem placeHelm_claimOnly (h : HelmContents) (y : Bool) (w : State) : ClaimOnly w (placeHelm h y w) := by
  unfold ClaimOnly placeHelm
  rw [placeFrame_eq, placeFrame_line]
  rfl

theorem sendHelm_claimOnly (w : State) : ClaimOnly w (sendHelm w) :=
  .trans (x := { w with cvu := { w.cvu with lastHelm := some (helmContents w) } }) rfl (placeHelm_claimOnly _ _ _)

theorem sendYield_claimOnly (w : State) : ClaimOnly w (sendYield w) := by
  unfold sendYield
  split
  · exact placeHelm_claimOnly _ _ _
  · exact .refl w

theorem placeHelm_cvu (h : HelmContents) (y : Bool) (w : State) : (placeHelm h y w).cvu = w.cvu := by
  rw [placeHelm, placeFrame_eq]

theorem sendHelm_cvu (w : State) : (sendHelm w).cvu = { w.cvu with lastHelm := some (helmContents w) } :=
  placeHelm_cvu _ _ _

theorem sendYield_cvu (w : State) : (sendYield w).cvu = w.cvu := by
  unfold sendYield
  split
  · exact placeHelm_cvu _ _ _
  · rfl

/-- A HELM placed in RUNNING carries what the panel record says (R11). -/
theorem sendHelm_slot {w : State} (hm : w.svp.mode = .joining ∨ w.svp.mode = .running) :
    ∃ p, (sendHelm w).lif.slotHelm = some p ∧ HelmBytes p w := by
  refine ⟨helmPayload (helmContents w) false, ?_, helmPayload_carries _ _⟩
  exact (placeFrame_slot .helm _ _).trans (if_pos hm)

theorem sendYield_slot {w : State} {h : HelmContents} (hm : w.svp.mode = .joining ∨ w.svp.mode = .running)
    (hlast : w.cvu.lastHelm = some h) : ∃ p, (sendYield w).lif.slotHelm = some p ∧ HelmCarries p true h := by
  refine ⟨helmPayload h true, ?_, helmPayload_carries _ _⟩
  rw [sendYield, hlast]
  exact (placeFrame_slot .helm _ _).trans (if_pos hm)

theorem claimNow_iff (w : State) : (claimNow w = .claiming ↔ Eligible w ∧ w.cvu.followed = some w.cfg.station) ∧
    (claimNow w = .notClaiming ↔ ¬Eligible w) := by
  rw [← eligible_iff, claimNow]
  cases claimEligible w
  · simp
  · by_cases h : w.cvu.followed = some w.cfg.station <;> simp [h]

/-- What the claim evaluated in `w` leaves in `u`. -/
structure Claimed (w u : State) : Prop where
  only : ClaimOnly w u
  now : u.cvu.claim = claimNow w
  enters : u.cvu.claim = .claiming → w.cvu.claim ≠ .claiming →
    u.cvu.helmAt = some (w.now + w.cfg.helmPeriod) ∧ ∃ p, u.lif.slotHelm = some p ∧ HelmBytes p w
  yields : w.cvu.claim = .claiming → u.cvu.claim = .notClaiming → w.svp.mode = .running →
    ∀ h, w.cvu.lastHelm = some h → ∃ p, u.lif.slotHelm = some p ∧ HelmCarries p true h
  stopped : u.cvu.claim ≠ .claiming → u.cvu.helmAt = none
  stays : w.cvu.claim = .claiming → u.cvu.claim = .claiming → u = w
  keeps : (w.cvu.claim = .claiming ∧ u.cvu.claim ≠ .notClaiming) ∨ (w.cvu.claim ≠ .claiming ∧ u.cvu.claim ≠ .claiming) →
    u.lif.slotHelm = w.lif.slotHelm

theorem evalClaim_left {w : State} (hold : w.cvu.claim = .claiming) (hnow : claimNow w = .notClaiming) :
    Claimed w (evalClaim w) := by
  have heq : evalClaim w =
      if w.svp.mode = .running then sendYield (setClaim .notClaiming none w) else setClaim .notClaiming none w := by
    simp [evalClaim, hold, hnow]
  by_cases hm : w.svp.mode = .running
  · rw [heq, if_pos hm]
    have hcvu := sendYield_cvu (setClaim .notClaiming none w)
    have hclaim : (sendYield (setClaim .notClaiming none w)).cvu.claim = .notClaiming := by
      rw [hcvu]
      rfl
    exact {
      only := (setClaim_claimOnly _ _ w).trans (sendYield_claimOnly _)
      now := hclaim.trans hnow.symm
      enters := fun h => by simp [hclaim] at h
      yields := fun _ _ _ h hlast => sendYield_slot (w := setClaim .notClaiming none w) (.inr hm) hlast
      stopped := fun _ => by
        rw [hcvu]
        rfl
      stays := fun _ h => by simp [hclaim] at h
      keeps := fun h => by simp [hclaim, hold] at h }
  · rw [heq, if_neg hm]
    exact {
      only := setClaim_claimOnly _ _ w
      now := hnow.symm
      enters := nofun
      yields := fun _ _ h => absurd h hm
      stopped := fun _ => rfl
      stays := nofun
      keeps := fun _ => rfl }

theorem evalClaim_other {w : State} (hnow : claimNow w ≠ .claiming) (h : w.cvu.claim ≠ .claiming ∨ claimNow w = .shadowed) :
    Claimed w (setClaim (claimNow w) none w) where
  only := setClaim_claimOnly _ _ w
  now := rfl
  enters h := absurd h hnow
  yields hold hnot := by
    have hclaim : claimNow w = .notClaiming := hnot
    simp [hold, hclaim] at h
  stopped _ := rfl
  stays _ h := absurd h hnow
  keeps _ := rfl

theorem evalClaim_enters {w : State} (hold : w.cvu.claim ≠ .claiming) (hnow : claimNow w = .claiming) :
    Claimed w (sendHelm (setClaim .claiming (some (w.now + w.cfg.helmPeriod)) w)) := by
  have hcvu := sendHelm_cvu (setClaim .claiming (some (w.now + w.cfg.helmPeriod)) w)
  have hclaim : (sendHelm (setClaim .claiming (some (w.now + w.cfg.helmPeriod)) w)).cvu.claim = .claiming := by
    rw [hcvu]
    rfl
  obtain ⟨⟨-, -, -, hrunning⟩, -⟩ := (claimNow_iff w).1.1 hnow
  exact {
    only := (setClaim_claimOnly _ _ w).trans (sendHelm_claimOnly _)
    now := hclaim.trans hnow.symm
    enters := fun _ _ => by
      refine ⟨by rw [hcvu]; rfl, ?_⟩
      exact sendHelm_slot (w := setClaim .claiming (some (w.now + w.cfg.helmPeriod)) w) (.inr hrunning)
    yields := fun h => absurd h hold
    stopped := fun h => absurd hclaim h
    stays := fun h => absurd h hold
    keeps := fun h => by simp [hclaim, hold] at h }

theorem evalClaim_claimed (w : State) : Claimed w (evalClaim w) := by
  cases hold : w.cvu.claim <;> cases hnow : claimNow w
  case claiming.claiming =>
    have heq : evalClaim w = w := by simp [evalClaim, hold, hnow]
    rw [heq]
    exact {
      only := .refl w
      now := hold.trans hnow.symm
      enters := fun h k => absurd h k
      yields := fun _ h => by simp [hold] at h
      stopped := fun h => absurd hold h
      stays := fun _ _ => rfl
      keeps := fun _ => rfl }
  case claiming.notClaiming => exact evalClaim_left hold hnow
  case notClaiming.claiming =>
    have h := evalClaim_enters (w := w) (by simp [hold]) hnow
    simpa [evalClaim, hold, hnow] using h
  case shadowed.claiming =>
    have h := evalClaim_enters (w := w) (by simp [hold]) hnow
    simpa [evalClaim, hold, hnow] using h
  case claiming.shadowed =>
    have h := evalClaim_other (w := w) (by simp [hnow]) (.inr hnow)
    simpa [evalClaim, hold, hnow] using h
  all_goals
    have h := evalClaim_other (w := w) (by simp [hnow]) (.inl (by simp [hold]))
    simpa [evalClaim, hold, hnow] using h

/-! ## The selection made (R14, R16, R18) -/

/-- The state after the selection, before the claim is evaluated. -/
def chosen (s : State) : State :=
  if selected s = s.cvu.followed then s
  else
    match selected s with
    | some n => follow n s
    | none => loseHelm s

theorem reselect_eq (s : State) : reselect s = evalClaim (chosen s) := rfl

/-- The state in which a change of followed claimant to station `n` with order `h` is noticed (R16). -/
def followed (n : Nat) (h : HelmContents) (s : State) : State :=
  { s with
    cvu :=
      { s.cvu with
        followed := some n, helmState := .following, graceAt := none, effD := h.d, effDelta := h.delta
        baseline := some (baselineOf n h) } }

theorem follow_some {n : Nat} {h : HelmContents} {s : State} (ho : ordersOf n s = some h) :
    follow n s = noticeOrder (followed n h s) := by
  simp [follow, ho, followed]

/-- The selection keeps the followed claimant, follows another, or loses the helm. -/
theorem chosen_cases (s : State) :
    (chosen s = s ∧ (selected s = s.cvu.followed ∨ ∃ n, selected s = some n ∧ ordersOf n s = none)) ∨
    (∃ n h, selected s = some n ∧ s.cvu.followed ≠ some n ∧ ordersOf n s = some h ∧
      chosen s = noticeOrder (followed n h s)) ∨
    (selected s = none ∧ s.cvu.followed ≠ none ∧ chosen s = loseHelm s) := by
  by_cases heq : selected s = s.cvu.followed
  · exact .inl ⟨if_pos heq, .inl heq⟩
  · cases hsel : selected s with
    | none =>
      refine .inr (.inr ⟨rfl, fun h => heq (hsel.trans h.symm), ?_⟩)
      rw [chosen, if_neg heq, hsel]
    | some n =>
      have hchosen : chosen s = follow n s := by rw [chosen, if_neg heq, hsel]
      cases ho : ordersOf n s with
      | none => exact .inl ⟨by simp [hchosen, follow, ho], .inr ⟨n, rfl, ho⟩⟩
      | some h =>
        exact .inr (.inl ⟨n, h, rfl, fun k => heq (hsel.trans k.symm), ho, hchosen.trans (follow_some ho)⟩)

/-- What every selection leaves, before and after the claim is evaluated: time, configuration, service port, and in the CVU all
that the selection is not about. -/
structure Selects (s u : State) : Prop where
  clock : u.clock = s.clock
  cfg : u.cfg = s.cfg
  svp : u.svp = { s.svp with flags := u.svp.flags }
  cvu : u.cvu = { s.cvu with
    followed := u.cvu.followed, helmState := u.cvu.helmState, graceAt := u.cvu.graceAt, effD := u.cvu.effD
    effDelta := u.cvu.effDelta, baseline := u.cvu.baseline }
  line : AlertsOnly s.lif u.lif

theorem chosen_selects (s : State) : Selects s (chosen s) := by
  obtain ⟨h, -⟩ | ⟨n, h, -, -, -, heq⟩ | ⟨-, -, heq⟩ := chosen_cases s
  · rw [h]
    exact ⟨rfl, rfl, rfl, rfl, .refl _⟩
  · have hn := noticeOrder_noticed (followed n h s)
    rw [heq]
    exact ⟨hn.clock, hn.cfg, hn.svp, by rw [hn.cvu]; rfl, hn.line⟩
  · rw [heq]
    exact ⟨rfl, rfl, rfl, rfl, .refl _⟩

theorem Selects.mode {s u : State} (h : Selects s u) : u.svp.mode = s.svp.mode := by rw [h.svp]

theorem Selects.now {s u : State} (h : Selects s u) : u.now = s.now := by rw [State.now, h.clock, State.now]

theorem Selects.panel {s u : State} (h : Selects s u) : u.svp.panel = s.svp.panel := by rw [h.svp]

theorem Selects.eligible {s u : State} (h : Selects s u) : Eligible u ↔ Eligible s := by
  have hstate : u.svp.panelState = s.svp.panelState := by rw [h.svp]
  simp only [Eligible, h.cfg, h.panel, h.mode, hstate]

theorem Selects.slotHelm {s u : State} (h : Selects s u) : u.lif.slotHelm = s.lif.slotHelm := by
  obtain ⟨heq, -⟩ := h.line
  rw [heq]

theorem Selects.contents {s u : State} (h : Selects s u) : helmContents u = helmContents s := by
  have horder : u.cvu.ownOrder = s.cvu.ownOrder := by rw [h.cvu]
  simp only [helmContents, h.cfg, h.panel, horder]

/-- The claim evaluated after a selection made in `s` is the one R10 gives for it. -/
theorem claimSettled_of_selects {s w : State} (h : Selects s w) : ClaimSettled s (evalClaim w) := by
  have hc := evalClaim_claimed w
  have honly := hc.only
  have hfollowed : (evalClaim w).cvu.followed = w.cvu.followed := by rw [honly]
  have hclaim : w.cvu.claim = s.cvu.claim := by rw [h.cvu]
  have hlast : w.cvu.lastHelm = s.cvu.lastHelm := by rw [h.cvu]
  have hbytes : ∀ p, HelmBytes p w ↔ HelmBytes p s := fun p => by
    have hcontents := h.contents
    simp only [helmContents] at hcontents
    rw [HelmBytes, HelmBytes, hcontents]
  refine ⟨?_, ?_, fun hnew hold => ?_, fun hold hnew hm => ?_, hc.stopped, fun hk => ?_⟩
  · rw [hc.now, (claimNow_iff w).1, h.eligible, hfollowed, h.cfg]
  · rw [hc.now, (claimNow_iff w).2, h.eligible]
  · obtain ⟨hat, p, hslot, hp⟩ := hc.enters hnew (hclaim ▸ hold)
    refine ⟨?_, p, hslot, (hbytes p).1 hp⟩
    rw [hat, h.now, h.cfg]
    rfl
  · rw [← hlast]
    exact hc.yields (hclaim.trans hold) hnew (h.mode.trans hm)
  · rw [← h.slotHelm]
    exact hc.keeps (hclaim ▸ hk)

end Sys2Proof.Machine
end

section
/-!
SUPPORT. A selection made anew leaves what R14 to R18 say (`HelmSelected`, `SelectedAnew`), and so does the same selection
made after notices and followed by notices.
-/

namespace Sys2Proof.Machine

theorem ClaimOnly.share {w u : State} (h : ClaimOnly w u) (hs : ShareInForce w) : ShareInForce u := by
  rw [h]
  exact hs

theorem ClaimOnly.steering {w u : State} (h : ClaimOnly w u) (hs : SteeringInForce w) : SteeringInForce u := by
  rw [h]
  exact hs

theorem loseHelm_lost (s : State) : flagSet .helmLost (loseHelm s) = true := by
  simp [loseHelm, flagSet_raiseFlag]

/-- The selection as it stands before the claim is evaluated. -/
theorem chosen_selected {s : State} (hok : PeersOk s.cfg.station s.cvu.peers) : HelmSelected s (chosen s) := by
  obtain ⟨heq, hsel⟩ | ⟨n, h, hsel, hnew, ho, heq⟩ | ⟨hsel, hold, heq⟩ := chosen_cases s
  · have hsame : selected s = s.cvu.followed := by
      refine hsel.resolve_right ?_
      rintro ⟨n, hn, hnone⟩
      by_cases hself : n = s.cfg.station
      · rw [hself, ordersOf_own] at hnone
        cases hnone
      · obtain ⟨p, hp, hpeer, hpart⟩ := preferred_peer hok ((selected_iff s n).1 hn) hself
        rw [ordersOf_peer hself hpeer hpart] at hnone
        cases hnone
    rw [heq]
    refine ⟨fun n hn => ?_, fun hnone => ?_, fun _ => ⟨rfl, rfl, rfl, rfl, rfl⟩⟩
    · have hf : s.cvu.followed = some n := hsame ▸ (selected_iff s n).2 hn
      exact ⟨hf, rfl, fun hne => absurd hf hne⟩
    · have hf : s.cvu.followed = none := hsame ▸ (selected_none_iff s).2 hnone
      exact ⟨hf, rfl, rfl, fun hne => absurd hf hne, fun _ => rfl⟩
  · have hnotice := noticeOrder_noticed (followed n h s)
    have hcvu : (chosen s).cvu = (followed n h s).cvu := by rw [heq, hnotice.cvu]
    have hflag : flagSet .helmLost (chosen s) = flagSet .helmLost s := by
      rw [heq, hnotice.helmLost]
      rfl
    have hmine : ∀ m, Preferred s m → m = n := fun m hm =>
      Option.some.inj (((selected_iff s m).2 hm).symm.trans hsel)
    have order : FollowsOrder n h.d h.delta h.order h.releaseSet h.remakeSet (chosen s) := by
      unfold FollowsOrder
      rw [hcvu]
      exact ⟨rfl, rfl, rfl⟩
    refine ⟨fun m hm => ?_, fun hnone => ?_, ?_⟩
    · obtain rfl := hmine m hm
      refine ⟨by rw [hcvu]; rfl, hflag, fun _ => ⟨by rw [hcvu]; rfl, by rw [hcvu]; rfl, fun hself => ?_,
        fun p hp hpeer hpart => ?_, fun hmode => ?_⟩⟩
      · subst hself
        obtain rfl := Option.some.inj ((ordersOf_own s).symm.trans ho)
        exact order
      · have hne : m ≠ s.cfg.station := by
          rintro rfl
          rw [peerOf_own hok] at hpeer
          cases hpeer
        obtain rfl := Option.some.inj ((ordersOf_peer hne hpeer hpart).symm.trans ho)
        exact order
      · obtain ⟨hshare, hsteering⟩ := noticeOrder_inForce (followed m h s)
        rw [heq]
        exact ⟨hshare hmode, hsteering⟩
    · rw [(selected_none_iff s).2 hnone] at hsel
      cases hsel
    · rintro (⟨-, hnone⟩ | ⟨m, hf, hm⟩)
      · rw [(selected_none_iff s).2 hnone] at hsel
        cases hsel
      · exact absurd (hmine m hm ▸ hf) hnew
  · have hnone := (selected_none_iff s).1 hsel
    rw [heq]
    refine ⟨fun n hn => ?_, fun _ => ⟨rfl, rfl, rfl, fun _ => ⟨rfl, rfl, rfl, loseHelm_lost s⟩, fun hf => absurd hf hold⟩, ?_⟩
    · rw [(selected_iff s n).2 hn] at hsel
      cases hsel
    · rintro (⟨hf, -⟩ | ⟨n, -, hn⟩)
      · exact absurd hf hold
      · rw [(selected_iff s n).2 hn] at hsel
        cases hsel

/-- What a selection leaves stays where the CVU's choice, HELM_LOST and the figures in force stay. -/
theorem HelmSelected.target {s w u : State} (h : HelmSelected s w)
    (hcvu : u.cvu = { w.cvu with claim := u.cvu.claim, helmAt := u.cvu.helmAt, lastHelm := u.cvu.lastHelm })
    (hflag : flagSet .helmLost u = flagSet .helmLost w) (hshare : s.svp.mode ≠ .configuring → ShareInForce w → ShareInForce u)
    (hsteering : SteeringInForce w → SteeringInForce u) : HelmSelected s u := by
  have hfollowed : u.cvu.followed = w.cvu.followed := by rw [hcvu]
  have hstate : u.cvu.helmState = w.cvu.helmState := by rw [hcvu]
  have hgrace : u.cvu.graceAt = w.cvu.graceAt := by rw [hcvu]
  have hD : u.cvu.effD = w.cvu.effD := by rw [hcvu]
  have hdelta : u.cvu.effDelta = w.cvu.effDelta := by rw [hcvu]
  have hbaseline : u.cvu.baseline = w.cvu.baseline := by rw [hcvu]
  obtain ⟨hpreferred, hlost, hkept⟩ := h
  simp only [HelmSelected, FollowsOrder, hfollowed, hstate, hgrace, hD, hdelta, hbaseline, hflag] at *
  refine ⟨fun n hn => ?_, hlost, hkept⟩
  obtain ⟨hf, hfl, hnew⟩ := hpreferred n hn
  refine ⟨hf, hfl, fun hne => ?_⟩
  obtain ⟨h1, h2, h3, h4, hforce⟩ := hnew hne
  exact ⟨h1, h2, h3, h4, fun hm => (hforce hm).imp (hshare hm) hsteering⟩

theorem reselect_selects {s : State} (hok : PeersOk s.cfg.station s.cvu.peers) : SelectedAnew s (reselect s) := by
  have hclaim := evalClaim_claimed (chosen s)
  have honly := hclaim.only
  refine ⟨(chosen_selected hok).target ?_ ?_ (fun _ => honly.share) honly.steering, claimSettled_of_selects (chosen_selects s)⟩
  · rw [reselect_eq, honly]
  · rw [reselect_eq, honly]
    rfl

/-! ## Notices before and after a selection -/

/-- `s` and `t` give the same selection. -/
structure SelectsAlike (s t : State) : Prop where
  now : t.now = s.now
  cfg : t.cfg = s.cfg
  svp : t.svp = { s.svp with flags := t.svp.flags }
  cvu : t.cvu = { s.cvu with powerNom := t.cvu.powerNom, rudderNom := t.cvu.rudderNom }
  slotHelm : t.lif.slotHelm = s.lif.slotHelm
  helmLost : flagSet .helmLost t = flagSet .helmLost s

theorem Noticed.alike {s t : State} (h : Noticed s t) : SelectsAlike s t :=
  ⟨h.now, h.cfg, h.svp, by rw [h.cvu], by rw [h.line.1], h.helmLost⟩

theorem SelectsAlike.trans {s t u : State} (h : SelectsAlike s t) (k : SelectsAlike t u) : SelectsAlike s u where
  now := k.now.trans h.now
  cfg := k.cfg.trans h.cfg
  svp := by rw [k.svp, h.svp]
  cvu := by rw [k.cvu, h.cvu]
  slotHelm := k.slotHelm.trans h.slotHelm
  helmLost := k.helmLost.trans h.helmLost

theorem SelectedAnew.source {s t u : State} (h : SelectsAlike s t) (k : SelectedAnew t u) : SelectedAnew s u := by
  have hpeers : t.cvu.peers = s.cvu.peers := by rw [h.cvu]
  have hfollowed : t.cvu.followed = s.cvu.followed := by rw [h.cvu]
  have horder : t.cvu.ownOrder = s.cvu.ownOrder := by rw [h.cvu]
  have hD : t.cvu.effD = s.cvu.effD := by rw [h.cvu]
  have hdelta : t.cvu.effDelta = s.cvu.effDelta := by rw [h.cvu]
  have hstate : t.cvu.helmState = s.cvu.helmState := by rw [h.cvu]
  have hgrace : t.cvu.graceAt = s.cvu.graceAt := by rw [h.cvu]
  have hbaseline : t.cvu.baseline = s.cvu.baseline := by rw [h.cvu]
  have hclaim : t.cvu.claim = s.cvu.claim := by rw [h.cvu]
  have hlast : t.cvu.lastHelm = s.cvu.lastHelm := by rw [h.cvu]
  have hpanel : t.svp.panel = s.svp.panel := by rw [h.svp]
  have hpanelState : t.svp.panelState = s.svp.panelState := by rw [h.svp]
  have hmode : t.svp.mode = s.svp.mode := by rw [h.svp]
  simpa only [SelectedAnew, HelmSelected, ClaimSettled, Preferred, HelmCandidate, Eligible, HelmBytes, peerOf, hpeers,
    hfollowed, horder, hD, hdelta, hstate, hgrace, hbaseline, hclaim, hlast, hpanel, hpanelState, hmode, h.now, h.cfg,
    h.slotHelm, h.helmLost] using k

theorem SelectedAnew.target {s w u : State} (hm : w.svp.mode = s.svp.mode) (h : SelectedAnew s w) (k : Noticed w u) :
    SelectedAnew s u := by
  obtain ⟨hselected, hsettled⟩ := h
  refine ⟨hselected.target (by rw [k.cvu]) k.helmLost (fun hs => k.share (hm ▸ hs)) k.steering, ?_⟩
  have hslot : u.lif.slotHelm = w.lif.slotHelm := k.alike.slotHelm
  simpa only [ClaimSettled, k.cvu, hslot] using hsettled

end Sys2Proof.Machine
end

section
/-!
PROOFS. The ageing of entries, the helm age, the grace time and the mute (O34, O35).
-/

namespace Sys2Proof.Machine

/-! ## The view noticed (R3, R5, R6, R8) -/

theorem noticePeers_eq (s : State) : noticePeers s = fuelTotals (settle false (stcNotice (recompute s))) := rfl

theorem fuelTotals_share {s : State} (h : ShareInForce s) : ShareInForce (fuelTotals s) :=
  h.congr rfl rfl rfl rfl rfl rfl rfl rfl

theorem fuelTotals_steering {s : State} (h : SteeringInForce s) : SteeringInForce (fuelTotals s) :=
  h.congr rfl rfl rfl rfl rfl rfl rfl

theorem fuelTotals_coupling {s : State} (h : CouplingNow s) : CouplingNow (fuelTotals s) := h.congr rfl rfl rfl

/-- A change of the view leaves the share, the steering figures, the summary and f_cpl in force. -/
theorem noticePeers_inForce {s : State} (hm : s.svp.mode ≠ .configuring) :
    ShareInForce (noticePeers s) ∧ SteeringInForce (noticePeers s) ∧ CouplingNow (noticePeers s) := by
  have hmode : (stcNotice (recompute s)).svp.mode ≠ .configuring := by
    rwa [(stcNotice_told _).mode, (recompute_recomputes.told s).mode]
  have hshare := (settle_noticed false _).share hmode (stcNotice_share (recompute_recomputes.share hm))
  have hsteering := (settle_noticed false _).steering (stcNotice_inForce (recompute s))
  exact ⟨fuelTotals_share hshare, fuelTotals_steering hsteering,
    fuelTotals_coupling (settleWith_coupling recompute_recomputes false)⟩

theorem settle_alert {s : State} (h : (settle false s).cpc.summary ≠ s.cpc.summary) : Alerted (settle false s) :=
  settleWith_alerts recompute_recomputes false (.inr (.inl h))

theorem fuelTotals_alert {s u : State} (h : SummaryAlert s u) : SummaryAlert s (fuelTotals u) := h

theorem settle_summaryAlert (s : State) : SummaryAlert s (settle false s) := fun hchange => settle_alert hchange

/-- A change of summary is one from any state with the same summary. -/
theorem SummaryAlert.since {s w u : State} (h : SummaryAlert w u) (hsame : w.cpc.summary = s.cpc.summary) :
    SummaryAlert s u := fun hchange => h (hsame ▸ hchange)

/-- With no pull-off a change of summary has placed an ALERT (R96). -/
theorem noticePeers_alert {s : State} (hp : s.cpc.pullOff = none) : SummaryAlert s (noticePeers s) := by
  obtain ⟨hcpc, -⟩ := recompute_recomputes.withoutPullOff hp
  have hmid : (stcNotice (recompute s)).cpc.summary = s.cpc.summary := by rw [stcNotice_eq, hcpc]
  exact fuelTotals_alert ((settle_summaryAlert _).since hmid)

/-- No notice begins a pull-off. -/
theorem noticePeers_pullOff {s : State} (hp : s.cpc.pullOff = none) : (noticePeers s).cpc.pullOff = none := by
  obtain ⟨hcpc, -⟩ := recompute_recomputes.withoutPullOff hp
  have hmid : (stcNotice (recompute s)).cpc.pullOff = none := by
    rw [stcNotice_eq, hcpc, hp]
  have hsettled : (settle false (stcNotice (recompute s))).cpc.pullOff = none := by
    rw [settle, settleWith_withoutPullOff recompute_recomputes false hmid]
    exact hmid
  exact hsettled

/-! ## A selection without a pull-off -/

theorem reselect_reacts_mode (s : State) : (reselect s).svp.mode = s.svp.mode := (reselect_reacts s).mode

/-- Without a pull-off a selection leaves the couplings and the ALERT slot. -/
theorem reselect_quiet {s : State} (hp : s.cpc.pullOff = none) :
    (reselect s).cpc = s.cpc ∧ (reselect s).lif.slotAlert = s.lif.slotAlert := by
  have hchosen : (chosen s).cpc = s.cpc ∧ (chosen s).lif = s.lif := by
    obtain ⟨heq, -⟩ | ⟨n, h, -, -, -, heq⟩ | ⟨-, -, heq⟩ := chosen_cases s
    · rw [heq]
      exact ⟨rfl, rfl⟩
    · obtain ⟨hcpc, -, hlif⟩ := recompute_recomputes.withoutPullOff (s := followed n h s) hp
      rw [heq]
      exact ⟨hcpc, hlif⟩
    · rw [heq]
      exact ⟨rfl, rfl⟩
  obtain ⟨hcpc, hlif⟩ := hchosen
  rw [reselect_eq, (evalClaim_claimed (chosen s)).only]
  exact ⟨hcpc, by rw [hlif]⟩

/-- A selection keeps what is in force, or makes it anew. -/
theorem reselect_keeps (s : State) : (s.svp.mode ≠ .configuring → ShareInForce s → ShareInForce (reselect s)) ∧
    (SteeringInForce s → SteeringInForce (reselect s)) ∧ (CouplingNow s → CouplingNow (reselect s)) := by
  have hchosen : (s.svp.mode ≠ .configuring → ShareInForce s → ShareInForce (chosen s)) ∧
      (SteeringInForce s → SteeringInForce (chosen s)) ∧ (CouplingNow s → CouplingNow (chosen s)) := by
    obtain ⟨heq, -⟩ | ⟨n, h, -, -, -, heq⟩ | ⟨-, -, heq⟩ := chosen_cases s
    · rw [heq]
      exact ⟨fun _ h => h, fun h => h, fun h => h⟩
    · obtain ⟨hshare, hsteering⟩ := noticeOrder_inForce (followed n h s)
      rw [heq]
      exact ⟨fun hm _ => hshare hm, fun _ => hsteering, fun hc =>
        stcNotice_coupling (recompute_recomputes.coupling (s := followed n h s) hc)⟩
    · rw [heq]
      exact ⟨fun _ h => h, fun h => h, fun h => h⟩
  obtain ⟨hshare, hsteering, hcoupling⟩ := hchosen
  have honly := (evalClaim_claimed (chosen s)).only
  refine ⟨fun hm h => honly.share (hshare hm h), fun h => honly.steering (hsteering h), fun h => ?_⟩
  rw [reselect_eq, honly]
  exact hcoupling h

theorem ClaimOnly.payload {w u : State} (h : ClaimOnly w u) : statusPayload u = statusPayload w := by
  rw [h]
  rfl

/-- A selection that leaves the followed claimant changes nothing that a STATUS says. -/
theorem reselect_payload {s : State} (h : (reselect s).cvu.followed = s.cvu.followed) :
    statusPayload (reselect s) = statusPayload s := by
  have honly := (evalClaim_claimed (chosen s)).only
  have hfollowed : (reselect s).cvu.followed = (chosen s).cvu.followed := by rw [reselect_eq, honly]
  have hsame : chosen s = s := by
    rw [hfollowed] at h
    obtain ⟨heq, -⟩ | ⟨n, o, -, hnew, -, heq⟩ | ⟨-, hold, heq⟩ := chosen_cases s
    · exact heq
    · rw [heq, (noticeOrder_noticed _).cvu] at h
      exact absurd h.symm hnew
    · rw [heq] at h
      exact absurd h.symm hold
  rw [reselect_eq, honly.payload, hsame]

/-! ## The ageing of an entry (R5, R6, R8) -/

theorem exec_staleExpiry {t n : Nat} {s : State} {p : Peer} (hp : peerOf n s = some p) : exec (.staleExpiry t n) s =
    if p.state = .live ∧ staleAt p ≤ (setClock t s).now then .next (markStale n (setClock t s)) else .next (setClock t s) := by
  have hp' : peerOf n (setClock t s) = some p := by rwa [peerOf_setClock]
  show execStaleExpiry t n s = _
  simp only [execStaleExpiry, hp']

theorem exec_lostExpiry {t n : Nat} {s : State} {p : Peer} (hp : peerOf n s = some p) : exec (.lostExpiry t n) s =
    if counted p = true ∧ lostAt p ≤ (setClock t s).now then
      .next (if announcedDeparture p then removePeer n (setClock t s) else markLost n (setClock t s))
    else .next (setClock t s) := by
  have hp' : peerOf n (setClock t s) = some p := by rwa [peerOf_setClock]
  show execLostExpiry t n s = _
  simp only [execLostExpiry, hp']

theorem setClock_now (t : Nat) (s : State) : (setClock t s).now = max s.clock t / 1000 := rfl

theorem peerOf_modPeer_ne {n m : Nat} (h : m ≠ n) {f : Peer → Peer} (hf : ∀ p, (f p).number = p.number) (s : State) :
    peerOf m (modPeer n f s) = peerOf m s := by
  simp only [peerOf, modPeer]
  induction s.cvu.peers with
  | nil => rfl
  | cons q qs ih =>
    by_cases hq : q.number = n
    · simp [hq, hf, Ne.symm h, ih]
    · by_cases hm : q.number = m <;> simp [hq, hm, ih, h]

/-- The entry of a station whose state alone changes. -/
theorem peerOf_modState (n : Nat) (st : PeerState) (s : State) :
    peerOf n (modPeer n (fun p => { p with state := st }) s) = (peerOf n s).map fun p => { p with state := st } :=
  peerOf_modPeer n (f := fun p => { p with state := st }) (fun _ => rfl) s

theorem peerOf_modState_ne {n m : Nat} (h : m ≠ n) (st : PeerState) (s : State) :
    peerOf m (modPeer n (fun p => { p with state := st }) s) = peerOf m s :=
  peerOf_modPeer_ne h (f := fun p => { p with state := st }) (fun _ => rfl) s

/-- The STALE expiry (R5). -/
theorem markStale_ages {n : Nat} {s : State} {p : Peer} (hp : peerOf n s = some p) :
    peerOf n (markStale n s) = some { p with state := .stale } ∧
      (∀ m, m ≠ n → peerOf m (markStale n s) = peerOf m s) ∧ (s.cpc.pullOff = none → SummaryAlert s (markStale n s)) ∧
      (s.svp.mode ≠ .configuring →
        ShareInForce (markStale n s) ∧ SteeringInForce (markStale n s) ∧ CouplingNow (markStale n s)) := by
  have hpeers := fun m => (markStale_reacts n s).peerOf_eq m
  refine ⟨?_, fun m hm => ?_, fun hpull => noticePeers_alert (s := modPeer n _ s) hpull,
    fun hm => noticePeers_inForce (s := modPeer n _ s) hm⟩
  · rw [hpeers, peerOf_modState, hp]
    rfl
  · rw [hpeers, peerOf_modState_ne hm]

theorem keepSums_alike (s : State) : SelectsAlike s (keepSums s) := ⟨rfl, rfl, rfl, rfl, rfl, rfl⟩

theorem peerRated_eq : ratedOf = peerRated := by
  funext p
  unfold ratedOf peerRated
  cases p.statusPart <;> rfl

theorem peerNominal_eq : nominalOf = peerNominal := by
  funext p
  unfold nominalOf peerNominal
  cases p.statusPart <;> rfl

/-- The sums of a view are those of its entries (R9). -/
def SumsKept (u : State) : Prop :=
  u.cvu.powerNom = (u.cfg.shafts.map (·.rated)).sum + (u.cvu.peers.map ratedOf).sum ∧
    u.cvu.rudderNom = (u.cfg.shafts.map (·.gRud)).sum + (u.cvu.peers.map nominalOf).sum

theorem keepSums_kept (s : State) : SumsKept (keepSums s) := by
  rw [SumsKept, peerRated_eq, peerNominal_eq]
  exact ⟨rfl, rfl⟩

theorem SumsKept.noticed {s u : State} (h : SumsKept s) (k : Noticed s u) : SumsKept u := by
  rw [SumsKept, k.cvu, k.cfg]
  exact h

theorem reselect_cvu (s : State) : (reselect s).cvu.peers = s.cvu.peers ∧ (reselect s).cvu.powerNom = s.cvu.powerNom ∧
    (reselect s).cvu.rudderNom = s.cvu.rudderNom ∧ (reselect s).cvu.ownOrder = s.cvu.ownOrder ∧
    (reselect s).cvu.lastActed = s.cvu.lastActed := by
  rw [reselect_eq, (evalClaim_claimed (chosen s)).only, (chosen_selects s).cvu]
  exact ⟨rfl, rfl, rfl, rfl, rfl⟩

theorem reselect_cfg (s : State) : (reselect s).cfg = s.cfg := (reselect_reacts s).cfg

theorem SumsKept.reselect {s : State} (h : SumsKept s) : SumsKept (reselect s) := by
  obtain ⟨hpeers, hpower, hrudder, -⟩ := reselect_cvu s
  rw [SumsKept, hpeers, hpower, hrudder, reselect_cfg]
  exact h

theorem removePeer_eq (n : Nat) (s : State) : removePeer n s = noticePeers (Machine.reselect (keepSums (withoutPeer n s))) :=
  rfl

/-- The removal of an entry (R8). -/
theorem removePeer_ages {n : Nat} {s : State} : peerOf n (removePeer n s) = none ∧
      (∀ m, m ≠ n → peerOf m (removePeer n s) = peerOf m s) ∧
      (s.svp.mode ≠ .configuring →
        ShareInForce (removePeer n s) ∧ SteeringInForce (removePeer n s) ∧ CouplingNow (removePeer n s)) ∧
      SumsKept (removePeer n s) ∧ (s.cpc.pullOff = none → SummaryAlert s (removePeer n s)) ∧
      (PeersOk s.cfg.station s.cvu.peers → SelectedAnew (withoutPeer n s) (removePeer n s)) := by
  have hmode : (Machine.reselect (keepSums (withoutPeer n s))).svp.mode = s.svp.mode := reselect_reacts_mode _
  refine ⟨peerOf_removePeer_self n s, fun m hm => peerOf_removePeer_ne hm s, fun hm => ?_, ?_, fun hp => ?_, fun hok => ?_⟩
  · exact noticePeers_inForce fun h => hm (hmode.symm.trans h)
  · exact ((keepSums_kept (withoutPeer n s)).reselect).noticed (noticePeers_noticed _)
  · obtain ⟨hcpc, -⟩ := reselect_quiet (s := keepSums (withoutPeer n s)) hp
    exact (noticePeers_alert ((congrArg (·.pullOff) hcpc).trans hp)).since (congrArg (·.summary) hcpc)
  · have hok' : PeersOk s.cfg.station (s.cvu.peers.filter fun q => decide (q.number ≠ n)) := peersOk_filter hok _
    have hsel : SelectedAnew (withoutPeer n s) (Machine.reselect (keepSums (withoutPeer n s))) :=
      (reselect_selects (s := keepSums (withoutPeer n s)) hok').source (keepSums_alike _)
    exact hsel.target hmode (noticePeers_noticed _)

theorem noticePeers_flags (s : State) : ShortfallOnly s (noticePeers s) :=
  ((recompute_recomputes.flags s).trans (.same rfl)).trans
    ((settleWith_flags recompute_recomputes false (s := stcNotice (recompute s))).trans (.same rfl))

/-- A selection raises no flag but SHORTFALL and HELM_LOST. -/
theorem reselect_flag {f : Flag} (h1 : f ≠ .shortfall) (h2 : f ≠ .helmLost) (s : State) :
    flagSet f (Machine.reselect s) = flagSet f s := by
  have hchosen : flagSet f (chosen s) = flagSet f s := by
    obtain ⟨heq, -⟩ | ⟨n, h, -, -, -, heq⟩ | ⟨-, -, heq⟩ := chosen_cases s
    · rw [heq]
    · rw [heq]
      exact recompute_recomputes.flags (followed n h s) f h1
    · rw [heq, loseHelm, flagSet_raiseFlag]
      simp [h2, flagSet]
  rw [reselect_eq, (evalClaim_claimed (chosen s)).only]
  exact hchosen

theorem removePeer_flag (n : Nat) {f : Flag} (h1 : f ≠ .shortfall) (h2 : f ≠ .helmLost) (s : State) :
    flagSet f (removePeer n s) = flagSet f s := by
  rw [removePeer_eq, noticePeers_flags _ f h1, reselect_flag h1 h2]
  rfl

theorem markLost_eq (n : Nat) (s : State) : markLost n s =
    Machine.reselect (noticePeers (raiseFlag .peerLost (modPeer n (fun q => { q with state := .lost }) s))) := rfl

/-- The LOST expiry (R6). -/
theorem markLost_ages {n : Nat} {s : State} {p : Peer} (hp : peerOf n s = some p) :
    (∀ m, m ≠ n → peerOf m (markLost n s) = peerOf m s) ∧
      (s.svp.mode ≠ .configuring →
        ShareInForce (markLost n s) ∧ SteeringInForce (markLost n s) ∧ CouplingNow (markLost n s)) ∧
      peerOf n (markLost n s) = some { p with state := .lost } ∧ flagSet .peerLost (markLost n s) = true ∧
      (markLost n s).cvu.powerNom = s.cvu.powerNom ∧ (markLost n s).cvu.rudderNom = s.cvu.rudderNom := by
  have hpeers := fun m => (markLost_reacts n s).peerOf_eq m
  let lost := modPeer n (fun q => { q with state := .lost }) s
  have hnotice := noticePeers_noticed (raiseFlag .peerLost lost)
  obtain ⟨-, hpower, hrudder, -⟩ := Machine.reselect_cvu (noticePeers (raiseFlag .peerLost lost))
  refine ⟨fun m hm => ?_, fun hm => ?_, ?_, ?_, ?_, ?_⟩
  · rw [hpeers, peerOf_modState_ne hm]
  · have hmode : (noticePeers (raiseFlag .peerLost lost)).svp.mode ≠ .configuring := fun h => hm (hnotice.mode.symm.trans h)
    obtain ⟨hshare, hsteering, hcoupling⟩ := noticePeers_inForce (s := raiseFlag .peerLost lost) hm
    obtain ⟨kshare, ksteering, kcoupling⟩ := reselect_keeps (noticePeers (raiseFlag .peerLost lost))
    exact ⟨kshare hmode hshare, ksteering hsteering, kcoupling hcoupling⟩
  · rw [hpeers, peerOf_modState, hp]
    rfl
  · have hraised : flagSet .peerLost (raiseFlag .peerLost lost) = true := by simp [flagSet_raiseFlag]
    rw [markLost_eq]
    exact ((noticePeers_reacts (raiseFlag .peerLost lost)).trans (Machine.reselect_reacts _)).flags _ hraised
  · rw [markLost_eq, hpower, hnotice.cvu]
    rfl
  · rw [markLost_eq, hrudder, hnotice.cvu]
    rfl

/-- A selection made in a state that selects alike. -/
theorem SelectsAlike.selectedAnew {s t : State} (h : SelectsAlike s t) (hok : PeersOk s.cfg.station s.cvu.peers) :
    SelectedAnew s (Machine.reselect t) := by
  have hpeers : t.cvu.peers = s.cvu.peers := by rw [h.cvu]
  exact (reselect_selects (by rw [hpeers, h.cfg]; exact hok)).source h

/-- Without a pull-off an ALERT placed before a selection is left by it, and still carries what is in force where the followed
claimant is left. -/
theorem SummaryAlert.reselect {s t : State} (h : SummaryAlert s t) (hp : t.cpc.pullOff = none) :
    ((Machine.reselect t).cvu.followed = t.cvu.followed → SummaryAlert s (Machine.reselect t)) ∧
      (Machine.reselect t).cpc.summary = t.cpc.summary ∧ (Machine.reselect t).lif.slotAlert = t.lif.slotAlert := by
  obtain ⟨hcpc, hslot⟩ := reselect_quiet hp
  have hsummary : (Machine.reselect t).cpc.summary = t.cpc.summary := by rw [hcpc]
  refine ⟨fun hsame hchange hon => ?_, hsummary, hslot⟩
  rw [hslot, reselect_payload hsame]
  exact h (hsummary ▸ hchange) (reselect_reacts_mode t ▸ hon)

/-- The selection at a lost expiry, and the ALERT placed before it (R6, R14, R18, R96). -/
theorem markLost_selects {n : Nat} {s lost : State} (hlost : lost = modPeer n (fun q => { q with state := .lost }) s) :
    (s.cpc.pullOff = none →
      ((markLost n s).cvu.followed = s.cvu.followed → SummaryAlert s (markLost n s)) ∧
      SummaryAlert s (noticePeers (raiseFlag .peerLost lost)) ∧
      (markLost n s).cpc.summary = (noticePeers (raiseFlag .peerLost lost)).cpc.summary ∧
      (markLost n s).lif.slotAlert = (noticePeers (raiseFlag .peerLost lost)).lif.slotAlert) ∧
    (PeersOk s.cfg.station s.cvu.peers → SelectedAnew lost (markLost n s)) := by
  have hcpc : lost.cpc = s.cpc := by rw [hlost]; rfl
  have hchosen : lost.cvu.followed = s.cvu.followed := by rw [hlost]; rfl
  have hok (h : PeersOk s.cfg.station s.cvu.peers) : PeersOk lost.cfg.station lost.cvu.peers := by
    rw [hlost]
    exact peersOk_mod h (f := fun q => { q with state := .lost }) (fun _ => rfl) n
  rw [markLost_eq, ← hlost]
  clear hlost
  have hnotice : Noticed lost (noticePeers (raiseFlag .peerLost lost)) :=
    (raiseFlag_noticed (by simp) lost).trans (noticePeers_noticed _)
  have halert (hp : s.cpc.pullOff = none) : SummaryAlert s (noticePeers (raiseFlag .peerLost lost)) :=
    (noticePeers_alert (s := raiseFlag .peerLost lost) (hcpc ▸ hp)).since (congrArg (·.summary) hcpc)
  have hpull (hp : s.cpc.pullOff = none) : (noticePeers (raiseFlag .peerLost lost)).cpc.pullOff = none :=
    noticePeers_pullOff (s := raiseFlag .peerLost lost) (hcpc ▸ hp)
  generalize noticePeers (raiseFlag .peerLost lost) = told at hnotice halert hpull ⊢
  have hfollowed : told.cvu.followed = s.cvu.followed := by rw [hnotice.cvu, hchosen]
  refine ⟨fun hp => ?_, fun h => hnotice.alike.selectedAnew (hok h)⟩
  obtain ⟨hkept, hsummary, hslot⟩ := (halert hp).reselect (hpull hp)
  exact ⟨fun hsame => hkept (hsame.trans hfollowed.symm), halert hp, hsummary, hslot⟩

/-- Settles O34: what the entry becomes, what the readers of the view are told, and the selection. -/
theorem peerAges : Obligations.PeerAges := by
  intro t n s p hp
  have hp' : peerOf n (setClock t s) = some p := by rwa [peerOf_setClock]
  have hstale := exec_staleExpiry (t := t) hp
  have hlost := exec_lostExpiry (t := t) hp
  refine ⟨fun hlive hdue => ?_, fun hnot => ?_, fun hcounted hdue => ?_, fun hnot => ?_⟩
  · obtain ⟨hentry, hothers, halert, hforce⟩ := markStale_ages hp'
    rw [if_pos ⟨hlive, hdue⟩] at hstale
    refine ⟨_, hstale, hentry, fun m hm => (hothers m hm).trans (peerOf_setClock m t s), halert, fun hm => ?_⟩
    obtain ⟨hshare, hsteering, hcoupling⟩ := hforce hm
    exact ⟨hshare, hsteering, hcoupling.inForce⟩
  · refine hstale.trans (if_neg ?_)
    rintro ⟨hlive, hdue⟩
    exact hnot.elim (fun h => h hlive) fun h => absurd hdue (Nat.not_le.2 h)
  · rw [if_pos ⟨counted_iff.2 hcounted, hdue⟩] at hlost
    cases hd : announcedDeparture p with
    | true =>
      obtain ⟨hself, hothers, hforce, ⟨hpower, hrudder⟩, halert, hselected⟩ := removePeer_ages (n := n) (s := setClock t s)
      refine ⟨removePeer n (setClock t s), by rw [hlost, hd]; rfl, fun m hm => (hothers m hm).trans (peerOf_setClock m t s),
        fun hm => ?_, fun _ => ⟨hself, ?_, ?_, ?_, halert, hselected⟩, nofun⟩
      · obtain ⟨hshare, hsteering, hcoupling⟩ := hforce hm
        exact ⟨hshare, hsteering, hcoupling.inForce⟩
      · exact removePeer_flag n (by simp) (by simp) (setClock t s)
      · rw [hpower, removePeer_cfg]; rfl
      · rw [hrudder, removePeer_cfg]; rfl
    | false =>
      obtain ⟨hothers, hforce, hself, hflag, hpower, hrudder⟩ := markLost_ages hp'
      obtain ⟨halert, hselected⟩ := markLost_selects (n := n) (s := setClock t s) rfl
      refine ⟨markLost n (setClock t s), by rw [hlost, hd]; rfl, fun m hm => (hothers m hm).trans (peerOf_setClock m t s),
        fun hm => ?_, nofun, fun _ => ⟨hself, hflag, hpower, hrudder, halert, hselected⟩⟩
      obtain ⟨hshare, hsteering, hcoupling⟩ := hforce hm
      exact ⟨hshare, hsteering, hcoupling.inForce⟩
  · refine hlost.trans (if_neg ?_)
    rintro ⟨hcounted, hdue⟩
    exact hnot.elim (fun h => counted_iff.1 hcounted h) fun h => absurd hdue (Nat.not_le.2 h)

end Sys2Proof.Machine
end

section
/-!
PROOFS. The timers of the helm and of the mute (O35).
-/

namespace Sys2Proof.Machine

theorem exec_helmAgeExpiry {t n : Nat} {s : State} {p : Peer} {h : HelmPart} (hp : peerOf n s = some p)
    (hh : p.helmPart = some h) : exec (.helmAgeExpiry t n) s =
    if h.expired = false ∧ helmAgeAt h ≤ (setClock t s).now then .next (reselect (modPeer n expireHelm (setClock t s)))
    else .next (setClock t s) := by
  have hp' : helmPartOf n (setClock t s) = some h := by simp [helmPartOf, hp, hh]
  show execHelmAgeExpiry t n s = _
  simp only [execHelmAgeExpiry, hp']

theorem expireHelm_number (p : Peer) : (expireHelm p).number = p.number := rfl

/-- The end of the helm age (R15). -/
theorem helmAge_ends {n : Nat} {s : State} {p : Peer} {h : HelmPart} (hp : peerOf n s = some p) (hh : p.helmPart = some h) :
    peerOf n (reselect (modPeer n expireHelm s)) = some { p with helmPart := some { h with expired := true } } ∧
      (∀ m, m ≠ n → peerOf m (reselect (modPeer n expireHelm s)) = peerOf m s) ∧
      (PeersOk s.cfg.station s.cvu.peers →
        SelectedAnew (modPeer n expireHelm s) (reselect (modPeer n expireHelm s))) := by
  have hpeers := fun m => (reselect_reacts (modPeer n expireHelm s)).peerOf_eq m
  refine ⟨?_, fun m hm => ?_, fun hok => reselect_selects (s := modPeer n expireHelm s) (peersOk_mod hok expireHelm_number n)⟩
  · rw [hpeers, peerOf_modPeer n expireHelm_number, hp]
    simp [expireHelm, hh]
  · rw [hpeers, peerOf_modPeer_ne hm expireHelm_number]

/-- The end of the grace time (R18). -/
theorem endGrace_ends (s : State) : (endGrace s).cvu.helmState = .noHelm ∧ (endGrace s).cvu.effD = 0 ∧
    (endGrace s).cvu.effDelta = 0 ∧ (endGrace s).cvu.graceAt = none ∧ (endGrace s).cvu.followed = s.cvu.followed ∧
    SteeringInForce (endGrace s) ∧ (s.svp.mode ≠ .configuring → ShareInForce (endGrace s)) := by
  let ended : State := { s with cvu := { s.cvu with helmState := .noHelm, graceAt := none, effD := 0, effDelta := 0 } }
  have hcvu : (endGrace s).cvu = ended.cvu := (noticeOrder_noticed ended).cvu
  obtain ⟨hshare, hsteering⟩ := noticeOrder_inForce ended
  rw [hcvu]
  exact ⟨rfl, rfl, rfl, rfl, rfl, hsteering, hshare⟩

/-- The mute, as it is told to the SHU. -/
theorem mute_eq (s : State) : mute s = shuNotice false { s with shu := { s.shu with muted := true } } := rfl

theorem mute_muted (s : State) : (mute s).shu.muted = true := by
  obtain ⟨hmuted, -⟩ := shuNoticeWith_kept (force := false) (s := { s with shu := { s.shu with muted := true } })
    recompute_recomputes
  exact hmuted

theorem mute_contributing (s : State) : (mute s).shu.contributing = false := by
  have hcontributes : (mute s).shu.contributing = contributingNow (mute s) := shuNotice_contributes false _
  rw [hcontributes]
  simp [contributingNow, contributingConditions, mute_muted]

/-- A station that the mute takes out of contribution has its share, its rudders and its authority afresh (R26, R28, R66). -/
theorem mute_ends {s : State} (hc : s.shu.contributing = true) (hm : s.svp.mode ≠ .configuring) :
    ShareInForce (mute s) ∧ SteeringInForce (mute s) ∧
      (s.svp.panel.localMode = false → ∀ n r, getN s.stc.rudders n = some r → r.state = .following →
        ∃ q, getN (mute s).stc.rudders n = some q ∧ q.state = .parked ∧ q.setPoint = 0) := by
  let muted : State := { s with shu := { s.shu with muted := true } }
  have hnow : contributingNow muted ≠ muted.shu.contributing := by
    have hfalse : contributingNow muted = false := by simp [muted, contributingNow, contributingConditions]
    rw [hfalse]
    exact fun h => by simp [muted, hc] at h
  have hsteering : SteeringInForce (mute s) :=
    shuNoticeWith_steering (force := false) (s := muted) recompute_recomputes (.inl hnow)
  refine ⟨shuNoticeWith_share (force := false) (s := muted) recompute_recomputes hm (.inr (.inl hnow)), hsteering,
    fun hlocal n r hr hf => ?_⟩
  obtain ⟨q, hq, -, -, hserve, hpark⟩ :=
    shuNoticeWith_rudders (force := false) (s := muted) recompute_recomputes n r hr
  have hpanel : (mute s).svp.panel = s.svp.panel := (shuNotice_told false muted).panel
  obtain ⟨-, -, -, hrudders⟩ := hsteering
  obtain ⟨horder, -⟩ := hrudders n q hq
  have hparked : q.state = .parked := (hserve (.inl hf)).resolve_left fun h => by
    have hno := horder h
    rw [mute_contributing, hpanel, hlocal] at hno
    simp at hno
  refine ⟨q, hq, hparked, (hpark hparked).resolve_left ?_⟩
  rintro ⟨hwas, -⟩
  rw [hf] at hwas
  cases hwas

/-- Settles O35: each timer on its own, acting at its moment and not before. -/
theorem helmAndMuteTimers : Obligations.HelmAndMuteTimers := by
  intro t s
  refine ⟨fun n p h hp hh hex => ⟨fun hdue => ?_, fun hearly => ?_⟩, fun hdue => ?_, fun hearly => ?_,
    fun e hmuted hsent => ⟨fun hdue => ?_, fun hearly => ?_⟩⟩
  · have hp' : peerOf n (setClock t s) = some p := by rwa [peerOf_setClock]
    obtain ⟨hself, hothers, hselected⟩ := helmAge_ends hp' hh
    exact ⟨_, (exec_helmAgeExpiry hp hh).trans (if_pos ⟨hex, hdue⟩), hself,
      fun m hm => (hothers m hm).trans (peerOf_setClock m t s), hselected⟩
  · exact (exec_helmAgeExpiry hp hh).trans (if_neg fun hboth => absurd hboth.2 (Nat.not_le.2 hearly))
  · exact ⟨endGrace (setClock t s), if_pos hdue, endGrace_ends (setClock t s)⟩
  · exact if_neg (by rw [Bool.not_eq_true]; exact hearly)
  · have hat : due (max s.clock t / 1000) (muteAt (setClock t s)) = true := by
      simpa [muteAt, hsent, due, Cfg.lostTime] using hdue
    refine ⟨mute (setClock t s), if_pos ⟨hmuted, hat⟩, mute_muted _, mute_contributing _, fun hc hm => ?_⟩
    exact mute_ends (s := setClock t s) hc hm
  · have hat : due (max s.clock t / 1000) (muteAt (setClock t s)) = false := by
      simpa [muteAt, hsent, due, Cfg.lostTime] using hearly
    refine if_neg ?_
    rintro ⟨-, hyes⟩
    exact absurd (hat.symm.trans hyes) (by simp)

end Sys2Proof.Machine
end

section
/-!
SUPPORT. What the coupling controller does on request reaches the share and the steering through its notices alone
(R87, R92, R98 to R105).
-/

namespace Sys2Proof.Machine

theorem WinchesOnly.noticed {s t : State} (h : WinchesOnly s t) (hf : flagSet .helmLost t = flagSet .helmLost s) :
    Noticed s t := by
  have htold := h.told
  obtain ⟨heq, -⟩ := h
  refine .ofSame htold ?_ hf ?_ ?_ ?_ ?_ <;> rw [heq]

theorem changeWinch_noticed (n : Nat) (f : Winch → Winch) (s : State) : Noticed s (changeWinch n f s) :=
  (changeWinch_only_winches n f s).noticed (by simp only [flagSet, changeWinch_svp])

theorem fold_noticed {α : Type} {f : State → α → State} (h : ∀ s x, Noticed s (f s x)) (l : List α) (s : State) :
    Noticed s (l.foldl f s) := foldl_keeps (R := Noticed) .refl .trans h l s

theorem changeWinches_noticed (f : Winch → Winch) (s : State) : Noticed s (changeWinches f s) :=
  fold_noticed (fun t n => changeWinch_noticed n f t) _ s

theorem setOutcome_noticed (o : CouplingOutcome) (s : State) : Noticed s (setOutcome o s) :=
  .ofSame (cpc_told _ s) rfl rfl rfl rfl rfl rfl

theorem endPullOff_noticed (o : CouplingOutcome) (s : State) : Noticed s (endPullOff o s) := by
  unfold endPullOff
  split
  · exact .ofSame (cpc_told _ s) rfl rfl rfl rfl rfl rfl
  · exact .refl s

theorem finishPullOff_noticed (s : State) : Noticed s (finishPullOff s) :=
  .ofTold (finishPullOff_told s) (finishPullOff_line s) (finishPullOff_flags s _ (by simp)) finishPullOff_share
    fun h => settleWith_steering recomputeShare_recomputes false (released_steering h)

theorem completePullOff_noticed (s : State) : Noticed s (completePullOff s) := by
  unfold completePullOff
  split
  · exact finishPullOff_noticed s
  · exact .refl s

theorem beginPullOff_noticed (o : Origin) (s : State) : Noticed s (beginPullOff o s) := by
  have hset : Noticed s { s with cpc := { s.cpc with pullOff := some { origin := o, expiry := s.now + pullOffWait s } } } :=
    .ofSame (cpc_told _ s) rfl rfl rfl rfl rfl rfl
  exact ((hset.trans (changeWinches_noticed haltHaul _)).trans (shuNotice_noticed false _)).trans (completePullOff_noticed _)

theorem releaseRequest_noticed (o : Origin) (s : State) : Noticed s (releaseRequest o s) := by
  unfold releaseRequest
  split
  · exact setOutcome_noticed _ s
  · split
    · exact setOutcome_noticed _ s
    · exact beginPullOff_noticed o s

theorem withdrawRelease_noticed (o : Origin) (s : State) : Noticed s (withdrawRelease o s) := by
  unfold withdrawRelease
  split
  · split
    · exact (endPullOff_noticed _ s).trans (shuNotice_noticed false _)
    · exact .refl s
  · exact .refl s

theorem haulRequest_noticed (n : Nat) (s : State) : Noticed s (haulRequest n s) := by
  unfold haulRequest
  split
  · split
    · split
      · exact raiseFlag_noticed (by simp) s
      · exact changeWinch_noticed _ _ s
    · exact .refl s
  · exact .refl s

theorem haulAll_noticed (ns : List Nat) (s : State) : Noticed s (haulAll ns s) :=
  (fold_noticed (fun t n => haulRequest_noticed n t) ns s).trans (setOutcome_noticed _ _)

theorem remakeOrder_noticed (s : State) : Noticed s (remakeOrder s) := by
  unfold remakeOrder
  split
  · exact setOutcome_noticed _ s
  · split
    · exact setOutcome_noticed _ s
    next r rest _ =>
      have hpop : Noticed s { s with cpc := { s.cpc with stack := rest } } :=
        .ofSame (cpc_told _ s) rfl rfl rfl rfl rfl rfl
      exact (hpop.trans (haulAll_noticed _ _)).trans (settle_noticed false _)

theorem remakeOwn_noticed (s : State) : Noticed s (remakeOwn s) := by
  unfold remakeOwn
  split
  · exact setOutcome_noticed _ s
  · exact (haulAll_noticed _ s).trans (settle_noticed false _)

theorem acknowledge_noticed (s : State) : Noticed s (acknowledge s) := by
  have hclear (t : State) : Noticed t { t with cpc := { t.cpc with parted := false } } :=
    .ofSame (cpc_told _ t) rfl rfl rfl rfl rfl rfl
  exact ((changeWinches_noticed unpart s).trans (hclear _)).trans (settle_noticed false _)

theorem panelAcknowledge_noticed (s : State) : Noticed s (panelAcknowledge s) := by
  unfold panelAcknowledge
  split
  · exact acknowledge_noticed s
  · exact .refl s

theorem passOrders_noticed (own n : Nat) (b c : Baseline) (s : State) : Noticed s (passOrders own n b c s) := by
  have hafter (t : State) : Noticed t (if newlyIn own b.releaseSet c.releaseSet then releaseRequest (.helm n) t
      else if newlyIn own b.remakeSet c.remakeSet then remakeOrder t else t) := by
    split
    · exact releaseRequest_noticed _ t
    · exact .ite _ (remakeOrder_noticed t)
  exact (Noticed.ite _ (withdrawRelease_noticed _ s)).trans (hafter _)

theorem handOnRelease_noticed (p q : Panel) (s : State) : Noticed s (handOnRelease p q s) := by
  unfold handOnRelease
  split
  · exact .refl s
  · split
    · exact releaseRequest_noticed _ s
    · exact withdrawRelease_noticed _ s

theorem handOnCouplings_noticed (p q : Panel) (s : State) : Noticed s (handOnCouplings p q s) := by
  have hack : Noticed s (if !p.partedAck && q.partedAck then panelAcknowledge s else s) :=
    .ite _ (panelAcknowledge_noticed s)
  have hmake (t : State) : Noticed t (if !p.remakeOwn && q.remakeOwn then remakeOwn t else t) :=
    .ite _ (remakeOwn_noticed t)
  exact (hack.trans (handOnRelease_noticed p q _)).trans (hmake _)

end Sys2Proof.Machine
end

section
/-!
PROOFS. What a frame of another station leaves in its entry and in the view (O30, O31, O32).
-/

namespace Sys2Proof.Machine

/-! ## The entry of the sender and the other entries (R2 to R4) -/

theorem find?_insertPeer_ne {p : Peer} {m : Nat} (h : p.number ≠ m) (l : List Peer) :
    (insertPeer p l).find? (fun q => decide (q.number = m)) = l.find? fun q => decide (q.number = m) := by
  induction l with
  | nil => simp [insertPeer, h]
  | cons x xs ih =>
    unfold insertPeer
    split
    · simp [h]
    · by_cases hx : x.number = m <;> simp [hx, ih]

theorem peerOf_admitPeer_ne {n m : Nat} (h : m ≠ n) (s : State) : peerOf m (admitPeer n s) = peerOf m s := by
  unfold admitPeer
  split
  · rfl
  · exact find?_insertPeer_ne (p := newPeer s.cfg n) (Ne.symm h) _

theorem storedParts_number (k : FrameKind) (f : RxFrame) (now : Nat) (p : Peer) :
    (storeParts k f now (refreshPeer now p)).number = p.number := by
  rw [storeParts_number]
  rfl

theorem peerOf_storeFrame_ne {m : Nat} {k : FrameKind} {f : RxFrame} (h : m ≠ RxFrame.sender f) (s : State) :
    peerOf m (storeFrame k f s) = peerOf m s := by
  rw [storeFrame, peerOf_modPeer_ne h (storedParts_number k f s.now), peerOf_admitPeer_ne h]

/-- The state in which a frame is delivered to the CVU: seen on the line and counted (R176, R179, R181). -/
def counting (t : Nat) (s : State) : State := countReceived (frameSeen (setClock t s))

theorem counting_frame (t : Nat) (s : State) : counting t s = { setClock t s with lif := (counting t s).lif } := rfl

theorem exec_deliver {k : FrameKind} {f : RxFrame} {s : State} (t : Nat) (hw : wfFrame k f = true)
    (hm : s.svp.mode ≠ .configuring) (hi : s.lif.awaitIdle = false) (ho : RxFrame.sender f ≠ s.cfg.station) :
    exec (frameCommand k t f) s = .next (deliverFrame k f (counting t s)) := by
  have ha : assembling (setClock t s) = true := (assembling_iff _).2 ⟨hm, hi⟩
  rw [exec_frameCommand, receiveFrame_intact hw ha ho, counting]

/-- What a delivered frame leaves in the table: the sender's entry, refreshed and with the contents, and every other entry. -/
theorem deliverFrame_entries (k : FrameKind) (f : RxFrame) (s : State) :
    peerOf (RxFrame.sender f) (deliverFrame k f s) = some (storeParts k f s.now (refreshPeer s.now
        ((peerOf (RxFrame.sender f) s).getD (newPeer s.cfg (RxFrame.sender f))))) ∧
      (∀ m, m ≠ RxFrame.sender f → peerOf m (deliverFrame k f s) = peerOf m s) ∧
      (deliverFrame k f s).now = s.now ∧ (deliverFrame k f s).cfg = s.cfg ∧
      (deliverFrame k f s).svp.mode = s.svp.mode := by
  have hreacts := deliverFrame_reacts k f s
  refine ⟨?_, fun m hm => ?_, ?_, ?_, deliverFrame_mode k f s⟩
  · rw [hreacts.peerOf_eq, peerOf_storeFrame]
  · rw [hreacts.peerOf_eq, peerOf_storeFrame_ne hm]
  · rw [hreacts.now, storeFrame_eq]
    rfl
  · rw [hreacts.cfg, storeFrame_eq]

/-! ## A STATUS or an ALERT (R3, R9, R180) -/

theorem deliverFrame_status {k : FrameKind} (hk : k = .status ∨ k = .alert) (f : RxFrame) (s : State) :
    deliverFrame k f s = if wasLost (peerOf (RxFrame.sender f) s) then
        reselect (noticePeers (keepSums (storeFrame k f s)))
      else noticePeers (keepSums (storeFrame k f s)) := by
  obtain rfl | rfl := hk <;> simp [deliverFrame, tellArrival, carriesStatus]

/-- What the readers of the view are told after a STATUS or an ALERT. -/
theorem status_told {k : FrameKind} (hk : k = .status ∨ k = .alert) (f : RxFrame) {s : State}
    (hm : s.svp.mode ≠ .configuring) :
    SumsKept (deliverFrame k f s) ∧ ShareInForce (deliverFrame k f s) ∧ SteeringInForce (deliverFrame k f s) ∧
      CouplingNow (deliverFrame k f s) ∧ (deliverFrame k f s).lif.receivedOk = s.lif.receivedOk ∧
      ((∀ o, peerOf (RxFrame.sender f) s = some o → o.state ≠ .lost) → s.cpc.pullOff = none →
        SummaryAlert s (deliverFrame k f s)) := by
  have hstored : storeFrame k f s = { s with cvu := (storeFrame k f s).cvu } := storeFrame_eq k f s
  have hmode : (keepSums (storeFrame k f s)).svp.mode ≠ .configuring := by
    rw [hstored]
    exact hm
  have hlif : (keepSums (storeFrame k f s)).lif = s.lif := by
    rw [hstored]
    rfl
  have hcpc : (keepSums (storeFrame k f s)).cpc = s.cpc := by
    rw [hstored]
    rfl
  have hnoticed := noticePeers_noticed (keepSums (storeFrame k f s))
  have hsums : SumsKept (noticePeers (keepSums (storeFrame k f s))) := (keepSums_kept _).noticed hnoticed
  obtain ⟨hshare, hsteering, hcoupling⟩ := noticePeers_inForce hmode
  have hreceived : (noticePeers (keepSums (storeFrame k f s))).lif.receivedOk = s.lif.receivedOk := by
    obtain ⟨heq, -⟩ := hnoticed.line
    rw [heq, hlif]
  rw [deliverFrame_status hk]
  split
  next hlost =>
    obtain ⟨kshare, ksteering, kcoupling⟩ := reselect_keeps (noticePeers (keepSums (storeFrame k f s)))
    refine ⟨hsums.reselect, kshare (hnoticed.mode ▸ hmode) hshare, ksteering hsteering, kcoupling hcoupling, ?_,
      fun hnot => ?_⟩
    · rw [← hreceived, reselect_eq, (evalClaim_claimed _).only]
      obtain ⟨heq, -⟩ := (chosen_selects (noticePeers (keepSums (storeFrame k f s)))).line
      rw [heq]
    · cases hp : peerOf (RxFrame.sender f) s with
      | none => simp [hp, wasLost] at hlost
      | some o =>
        rw [hp] at hlost
        exact absurd (by simpa [wasLost] using hlost) (hnot o hp)
  next =>
    exact ⟨hsums, hshare, hsteering, hcoupling, hreceived, fun _ hp =>
      (noticePeers_alert (hcpc ▸ hp)).since (congrArg (·.summary) hcpc)⟩

/-- What a STATUS or an ALERT leaves in a refreshed entry, field by field. -/
theorem storeParts_status {k : FrameKind} (hk : k = .status ∨ k = .alert) (f : RxFrame) (now : Nat) (p : Peer) :
    storeParts k f now p = { p with
      statusPart := some (decodeStatus f.payload), statusPeriod := carriedPeriod f.payload
      lostCount := carriedLost f.payload
      lastSeq := if k = .status then some f.seq.toNat else p.lastSeq
      gapCount := if k = .status then
          match p.lastSeq with
          | none => p.gapCount
          | some l => sat16 (p.gapCount + seqGap l f.seq.toNat)
        else p.gapCount } := by
  obtain rfl | rfl := hk
  · simp only [storeParts, keepSequence, storeStatus, if_true]
    cases p.lastSeq <;> rfl
  · rfl

/-- Settles O30: the stored contents, then what the readers of the view make of them. -/
theorem statusContentsStored : Obligations.StatusContentsStored := by
  intro t k f s hk hw hm hi ho
  obtain ⟨hentry, hothers, hnow, hcfg, -⟩ := deliverFrame_entries k f (counting t s)
  obtain ⟨⟨hpower, hrudder⟩, hshare, hsteering, hcoupling, hreceived, halert⟩ :=
    status_told hk f (s := counting t s) hm
  rw [peerRated_eq] at hpower
  rw [peerNominal_eq] at hrudder
  rw [storeParts_status hk] at hentry
  refine ⟨deliverFrame k f (counting t s), _, decodeStatus f.payload, exec_deliver t hw hm hi ho, hentry, rfl, rfl, rfl,
    hnow.symm, rfl, rfl, rfl, rfl, rfl, rfl, rfl, rfl, rfl, rfl, rfl, ?_, hothers, hcfg ▸ hpower, hcfg ▸ hrudder, hreceived,
    hshare, hsteering, hcoupling.inForce, halert⟩
  have hold : peerOf (RxFrame.sender f) (counting t s) = peerOf (RxFrame.sender f) s := peerOf_congr rfl _
  rw [hold]
  cases peerOf (RxFrame.sender f) s with
  | none =>
    obtain rfl | rfl := hk <;> exact ⟨rfl, rfl, rfl, rfl, rfl⟩
  | some o =>
    refine ⟨rfl, rfl, rfl, ?_⟩
    obtain rfl | rfl := hk
    · refine ⟨rfl, ?_⟩
      cases hlast : o.lastSeq <;> simp [refreshPeer, hlast, sat16, seqGap]
    · exact ⟨rfl, rfl⟩

/-! ## A HELM and a FUEL (R4, R134) -/

theorem getD_part {α : Type} (part : Peer → Option α) {cfg : Cfg} {n : Nat} (hnew : part (newPeer cfg n) = none)
    (old : Option Peer) : part (old.getD (newPeer cfg n)) = old.bind part := by
  cases old with
  | none => exact hnew
  | some p => rfl

/-- Settles O31: the entry as the delivery leaves it, by whether the HELM is a helm event. -/
theorem helmContentsStored : Obligations.HelmContentsStored := by
  intro t f s hw hm hi ho
  obtain ⟨hentry, hothers, hnow, -, -⟩ := deliverFrame_entries .helm f (counting t s)
  have hold : peerOf (RxFrame.sender f) (counting t s) = peerOf (RxFrame.sender f) s := peerOf_congr rfl _
  rw [hold] at hentry
  have hstatus := getD_part (·.statusPart) (cfg := s.cfg) (n := RxFrame.sender f) rfl (peerOf (RxFrame.sender f) s)
  have hfuel := getD_part (·.fuelPart) (cfg := s.cfg) (n := RxFrame.sender f) rfl (peerOf (RxFrame.sender f) s)
  have hhelm := getD_part (·.helmPart) (cfg := s.cfg) (n := RxFrame.sender f) rfl (peerOf (RxFrame.sender f) s)
  have hseq := getD_part (·.lastSeq) (cfg := s.cfg) (n := RxFrame.sender f) rfl (peerOf (RxFrame.sender f) s)
  by_cases hevent : 1 ≤ u8 f.payload 0 ∧ u8 f.payload 0 ≤ 6 ∧ 5 ≤ u8 f.payload 1 ∧ u8 f.payload 1 ≤ 50
  · have hyes : helmEvent f.payload = true := decide_eq_true hevent
    simp only [storeParts, hyes, if_true] at hentry
    refine ⟨_, _, exec_deliver (k := .helm) t hw hm hi ho, hentry, rfl, hnow.symm, fun _ => ?_, fun h => absurd hevent h,
      hstatus, hfuel, hseq, hothers⟩
    rw [hnow]
    rfl
  · have hno : helmEvent f.payload = false := decide_eq_false hevent
    simp only [storeParts, hno] at hentry
    exact ⟨_, _, exec_deliver (k := .helm) t hw hm hi ho, hentry, rfl, hnow.symm, fun h => absurd h hevent, fun _ => hhelm,
      hstatus, hfuel, hseq, hothers⟩

theorem reselect_fau (s : State) : (reselect s).fau = s.fau := by
  have hchosen : (chosen s).fau = s.fau := by
    obtain ⟨heq, -⟩ | ⟨n, h, -, -, -, heq⟩ | ⟨-, -, heq⟩ := chosen_cases s
    · rw [heq]
    · rw [heq]
      exact (recompute_recomputes.told (followed n h s)).fau
    · rw [heq]
      rfl
  rw [reselect_eq, (evalClaim_claimed (chosen s)).only]
  exact hchosen

/-- The convoy totals are the own figures with every fuel part held. -/
def TotalsKept (u : State) : Prop :=
  u.fau.convoyAboard = u.fau.aboard + ((fuelParts u).map fun x => x.1.aboard).sum ∧
    u.fau.convoyBurn = u.fau.burn + ((fuelParts u).map fun x => x.1.burn).sum

theorem fuelTotals_kept (s : State) : TotalsKept (fuelTotals s) := ⟨rfl, rfl⟩

theorem TotalsKept.congr {s u : State} (h : TotalsKept s) (hfau : u.fau = s.fau) (hpeers : u.cvu.peers = s.cvu.peers) :
    TotalsKept u := by
  simpa only [TotalsKept, fuelParts, hfau, hpeers] using h

theorem deliverFrame_fuel (f : RxFrame) (s : State) : TotalsKept (deliverFrame .fuel f s) := by
  have htold (w : Bool) (x : State) : TotalsKept (tellArrival .fuel w x) := fuelTotals_kept _
  simp only [deliverFrame, reduceCtorEq, decide_false, Bool.false_and, Bool.false_or, Bool.false_eq_true, if_false]
  split
  · obtain ⟨hpeers, -⟩ := reselect_cvu (tellArrival .fuel (wakes (peerOf (RxFrame.sender f) s)) (storeFrame .fuel f s))
    exact (htold _ _).congr (reselect_fau _) hpeers
  · exact htold _ _

/-- Settles O32: the entry as the delivery leaves it, and the totals that follow it. -/
theorem fuelContentsStored : Obligations.FuelContentsStored := by
  intro t f s hw hm hi ho
  obtain ⟨hentry, hothers, hnow, -, -⟩ := deliverFrame_entries .fuel f (counting t s)
  obtain ⟨haboard, hburn⟩ := deliverFrame_fuel f (counting t s)
  have hold : peerOf (RxFrame.sender f) (counting t s) = peerOf (RxFrame.sender f) s := peerOf_congr rfl _
  rw [hold] at hentry
  refine ⟨_, _, exec_deliver (k := .fuel) t hw hm hi ho, hentry, rfl, hnow.symm, ?_,
    getD_part (·.statusPart) (cfg := s.cfg) rfl _, getD_part (·.helmPart) (cfg := s.cfg) rfl _, hothers, haboard, hburn⟩
  rw [hnow]
  rfl

end Sys2Proof.Machine
end

section
/-!
PROOFS. A helm event: the selection, the effective order, and the orders examined (O33).
-/

namespace Sys2Proof.Machine

/-! ## The station selected -/

theorem reselect_followed {s : State} (hok : PeersOk s.cfg.station s.cvu.peers) :
    (reselect s).cvu.followed = selected s := by
  obtain ⟨⟨hpreferred, hlost, -⟩, -⟩ := reselect_selects hok
  cases hsel : selected s with
  | none => exact (hlost ((selected_none_iff s).1 hsel)).1
  | some n => exact (hpreferred n ((selected_iff s n).1 hsel)).1

theorem candidates_congr {s u : State} (hcfg : u.cfg = s.cfg) (hsvp : u.svp = { s.svp with flags := u.svp.flags })
    (hpeers : u.cvu.peers = s.cvu.peers) : candidates u = candidates s := by
  have hpanel : u.svp.panel = s.svp.panel := by rw [hsvp]
  have hstate : u.svp.panelState = s.svp.panelState := by rw [hsvp]
  have hmode : u.svp.mode = s.svp.mode := by rw [hsvp]
  have heligible : claimEligible u = claimEligible s := by simp only [claimEligible, hcfg, hpanel, hstate, hmode]
  rw [candidates, heligible, hcfg, hpeers, candidates]

/-! ## The orders of the followed claimant (R17, R19, R20) -/

/-- From `v` to `u` nothing of the view has changed but D, δ, the baseline and the last order number acted on. -/
structure OrdersTaken (v u : State) : Prop where
  cfg : u.cfg = v.cfg
  svp : u.svp = { v.svp with flags := u.svp.flags }
  cvu : u.cvu = { v.cvu with
    effD := u.cvu.effD, effDelta := u.cvu.effDelta, baseline := u.cvu.baseline, lastActed := u.cvu.lastActed }

theorem OrdersTaken.refl (v : State) : OrdersTaken v v := ⟨rfl, rfl, rfl⟩

theorem OrdersTaken.trans {v w u : State} (h : OrdersTaken v w) (k : OrdersTaken w u) : OrdersTaken v u where
  cfg := k.cfg.trans h.cfg
  svp := by rw [k.svp, h.svp]
  cvu := by rw [k.cvu, h.cvu]

theorem Noticed.ordersTaken {v u : State} (h : Noticed v u) : OrdersTaken v u := ⟨h.cfg, h.svp, by rw [h.cvu]⟩

/-- The effective order taken: as it is, or noticed anew (R17). -/
theorem takeEffective_cases (d delta : Int) (v : State) :
    (v.cvu.effD = d ∧ v.cvu.effDelta = delta ∧ takeEffective d delta v = v) ∨
    (¬(v.cvu.effD = d ∧ v.cvu.effDelta = delta) ∧
      takeEffective d delta v = noticeOrder { v with cvu := { v.cvu with effD := d, effDelta := delta } }) := by
  unfold takeEffective
  by_cases h : v.cvu.effD = d ∧ v.cvu.effDelta = delta
  · exact .inl ⟨h.1, h.2, if_pos h⟩
  · exact .inr ⟨h, if_neg h⟩

theorem takeEffective_cvu (d delta : Int) (v : State) :
    (takeEffective d delta v).cvu = { v.cvu with effD := d, effDelta := delta } := by
  obtain ⟨rfl, rfl, heq⟩ | ⟨-, heq⟩ := takeEffective_cases d delta v
  · rw [heq]
  · rw [heq, (noticeOrder_noticed _).cvu]

theorem takeEffective_taken (d delta : Int) (v : State) : OrdersTaken v (takeEffective d delta v) := by
  obtain ⟨-, -, heq⟩ | ⟨-, heq⟩ := takeEffective_cases d delta v
  · rw [heq]
    exact .refl v
  · rw [heq]
    exact OrdersTaken.trans (w := { v with cvu := { v.cvu with effD := d, effDelta := delta } }) ⟨rfl, rfl, rfl⟩
      (noticeOrder_noticed _).ordersTaken

theorem takeEffective_peers (d delta : Int) (v : State) (n : Nat) : peerOf n (takeEffective d delta v) = peerOf n v :=
  (takeEffective_reacts d delta v).peerOf_eq n

/-- The state in which orders that have advanced are passed on (R19). -/
def ordersNoted (n : Nat) (h : HelmContents) (w : State) : State :=
  { w with cvu := { w.cvu with baseline := some (baselineOf n h), lastActed := some h.order } }

theorem examineOrders_same {n : Nat} {w : State} {b : Baseline} {h : HelmContents} (hb : w.cvu.baseline = some b)
    (ho : ordersOf n w = some h) (heq : h.order = b.order) : examineOrders n w = w := by
  simp [examineOrders, hb, ho, heq]

theorem examineOrders_new {n : Nat} {w : State} {b : Baseline} {h : HelmContents} (hb : w.cvu.baseline = some b)
    (ho : ordersOf n w = some h) (hne : h.order ≠ b.order) :
    examineOrders n w = passOrders w.cfg.station n b (baselineOf n h) (ordersNoted n h w) := by
  simp [examineOrders, hb, ho, hne, ordersNoted]

theorem examineOrders_taken (n : Nat) (w : State) : OrdersTaken w (examineOrders n w) := by
  unfold examineOrders
  split
  · split
    · exact .refl w
    next b h _ _ _ =>
      exact OrdersTaken.trans (w := ordersNoted n h w) ⟨rfl, rfl, rfl⟩ (passOrders_noticed _ _ _ _ _).ordersTaken
  · exact .refl w

theorem newlyIn_iff (own : Nat) (before after : List Nat) : newlyIn own before after = true ↔ own ∉ before ∧ own ∈ after := by
  simp [newlyIn]

/-- The requests that an order passes on, by the own number's passage through the sets (R19). -/
theorem passOrders_cases (own n : Nat) (b new : Baseline) (w : State) :
    (own ∉ b.releaseSet → own ∈ new.releaseSet → passOrders own n b new w = releaseRequest (.helm n) w) ∧
    (own ∈ b.releaseSet → own ∉ new.releaseSet → (own ∈ b.remakeSet ∨ own ∉ new.remakeSet) →
      passOrders own n b new w = withdrawRelease (.helm n) w) ∧
    (own ∈ b.releaseSet → own ∉ new.releaseSet → own ∉ b.remakeSet → own ∈ new.remakeSet →
      passOrders own n b new w = remakeOrder (withdrawRelease (.helm n) w)) ∧
    ((own ∈ b.releaseSet ↔ own ∈ new.releaseSet) → own ∉ b.remakeSet → own ∈ new.remakeSet →
      passOrders own n b new w = remakeOrder w) ∧
    ((own ∈ b.releaseSet ↔ own ∈ new.releaseSet) → (own ∈ b.remakeSet ∨ own ∉ new.remakeSet) →
      passOrders own n b new w = w) := by
  unfold passOrders
  simp only [newlyIn_iff]
  by_cases h1 : own ∈ b.releaseSet <;> by_cases h2 : own ∈ new.releaseSet <;> by_cases h3 : own ∈ b.remakeSet <;>
    by_cases h4 : own ∈ new.remakeSet <;> simp [h1, h2, h3, h4]

/-! ## A helm event delivered -/

theorem storeFrame_cvu (k : FrameKind) (f : RxFrame) (s : State) :
    (storeFrame k f s).cvu = { s.cvu with peers := (storeFrame k f s).cvu.peers } := by
  unfold storeFrame admitPeer modPeer
  split <;> rfl

theorem deliverFrame_helmEvent {f : RxFrame} (h : helmEvent f.payload = true) (s : State) : deliverFrame .helm f s =
    takeHelm (RxFrame.sender f) (reselect
      (tellArrival .helm (wakes (peerOf (RxFrame.sender f) s)) (storeFrame .helm f s))) := by
  simp [deliverFrame, h]

theorem tellHelm_alike (w : Bool) (s : State) : SelectsAlike s (tellArrival .helm w s) := by
  cases w
  · simpa [tellArrival, carriesStatus] using (Noticed.refl s).alike
  · simpa [tellArrival, carriesStatus] using (keepSums_alike s).trans (noticePeers_noticed (keepSums s)).alike

theorem wfFrame_sender {k : FrameKind} {f : RxFrame} (h : wfFrame k f = true) :
    1 ≤ RxFrame.sender f ∧ RxFrame.sender f ≤ 6 := by
  have hk : kindOfByte (FrameKind.code k) = some k := by cases k <;> rfl
  simp only [wfFrame, headerOk, hk, Bool.and_eq_true, bne_iff_ne, decide_eq_true_eq] at h
  have hlt : RxFrame.sender f < 8 := Nat.mod_lt _ (by decide)
  omega

/-- What a helm event of another station brings about: `st` is the view with the HELM stored, `told` its readers told, `v` the
selection made. -/
structure HelmTaken (n : Nat) (h : HelmPart) (st told v u : State) : Prop where
  other : n ≠ told.cfg.station
  sorted : PeersOk told.cfg.station told.cvu.peers
  stored : ∃ p, peerOf n told = some p ∧ p.helmPart = some h
  alike : SelectsAlike st told
  chosen : v = reselect told
  taken : u = takeHelm n v

namespace HelmTaken

variable {n : Nat} {h : HelmPart} {st told v u : State}

theorem contents (k : HelmTaken n h st told v u) {w : State} (hcfg : w.cfg = told.cfg) (hpeer : peerOf n w = peerOf n told) :
    helmPartOf n w = some h ∧ ordersOf n w = some (helmPartContents h) := by
  obtain ⟨p, hp, hh⟩ := k.stored
  have hw : peerOf n w = some p := hpeer.trans hp
  exact ⟨by simp [helmPartOf, hw, hh], ordersOf_peer (hcfg ▸ k.other) hw hh⟩

theorem selection (k : HelmTaken n h st told v u) : v.cvu.followed = selected told ∧ v.cfg = told.cfg ∧
    peerOf n v = peerOf n told ∧ v.svp = { told.svp with flags := v.svp.flags } ∧ v.cvu.peers = told.cvu.peers := by
  have hreacts := reselect_reacts told
  rw [← k.chosen] at hreacts
  exact ⟨by rw [k.chosen, reselect_followed k.sorted], hreacts.cfg, hreacts.peerOf_eq n, hreacts.svp, hreacts.peers⟩

/-- The orders of the followed sender are examined after its effective order is taken; of another sender none is. -/
theorem result (k : HelmTaken n h st told v u) : u =
    if v.cvu.followed = some n then examineOrders n (takeEffective h.d h.delta v) else v := by
  obtain ⟨-, hcfg, hpeer, -⟩ := k.selection
  obtain ⟨hpart, -⟩ := k.contents hcfg hpeer
  rw [k.taken, takeHelm, hpart]

theorem ordersTaken (k : HelmTaken n h st told v u) : OrdersTaken v u := by
  rw [k.result]
  split
  · exact (takeEffective_taken _ _ v).trans (examineOrders_taken _ _)
  · exact .refl v

theorem followed (k : HelmTaken n h st told v u) : u.cvu.followed = selected told ∧ u.cvu.followed = v.cvu.followed := by
  obtain ⟨hsel, -⟩ := k.selection
  have hsame : u.cvu.followed = v.cvu.followed := by rw [k.ordersTaken.cvu]
  exact ⟨hsame.trans hsel, hsame⟩

/-- The station followed is the preferred candidate (R14). -/
theorem preferred (k : HelmTaken n h st told v u) : match u.cvu.followed with
    | none => candidates u = []
    | some n => ∃ c ∈ candidates u, c.number = n ∧
        ∀ d ∈ candidates u, d = c ∨ c.rank < d.rank ∨ (c.rank = d.rank ∧ c.number < d.number) := by
  obtain ⟨-, hcfg, -, hsvp, hpeers⟩ := k.selection
  have ht := k.ordersTaken
  have hcandidates : candidates u = candidates told :=
    (candidates_congr ht.cfg ht.svp (by rw [ht.cvu])).trans (candidates_congr hcfg hsvp hpeers)
  rw [k.followed.1, hcandidates]
  cases hsel : selected told with
  | none => exact (no_candidate_iff told).1 ((selected_none_iff told).1 hsel)
  | some m => exact (preferred_iff told m).1 ((selected_iff told m).1 hsel)

/-- A sender newly followed gives D, δ and the baseline; its orders are not acted on (R16, R17, R20). -/
theorem newly (k : HelmTaken n h st told v u) (hu : u.cvu.followed = some n) (hold : told.cvu.followed ≠ some n) :
    u = v ∧ u.cvu.effD = h.d ∧ u.cvu.effDelta = h.delta ∧ u.cvu.helmState = .following ∧ u.cvu.graceAt = none ∧
      u.cvu.baseline = some (baselineOf n (helmPartContents h)) ∧ u.cvu.lastActed = told.cvu.lastActed := by
  obtain ⟨hsel, hcfg, hpeer, -⟩ := k.selection
  obtain ⟨-, horders⟩ := k.contents hcfg hpeer
  obtain ⟨hfollowed, hsame⟩ := k.followed
  obtain ⟨⟨hpreferred, -⟩, -⟩ := reselect_selects k.sorted
  obtain ⟨p, hp, hh⟩ := k.stored
  obtain ⟨-, -, hnew⟩ := hpreferred n ((selected_iff told n).1 (hfollowed.symm.trans hu))
  obtain ⟨hstate, hgrace, -, hpeerOrder, -⟩ := hnew hold
  obtain ⟨hD, hdelta, hbaseline⟩ := hpeerOrder p h hp hh
  obtain ⟨-, -, -, -, hacted⟩ := reselect_cvu told
  rw [← k.chosen] at hstate hgrace hD hdelta hbaseline hacted
  have huv : u = v := by
    have heffective : takeEffective h.d h.delta v = v := if_pos ⟨hD, hdelta⟩
    rw [k.result, if_pos (hsame.symm.trans hu), heffective]
    exact examineOrders_same hbaseline horders rfl
  rw [huv]
  exact ⟨rfl, hD, hdelta, hstate, hgrace, hbaseline, hacted⟩

/-- A sender followed before and still: its effective order first (R17). -/
theorem still (k : HelmTaken n h st told v u) {b : Baseline} (hu : u.cvu.followed = some n)
    (hold : told.cvu.followed = some n) (hb : told.cvu.baseline = some b) :
    v.cvu.effD = told.cvu.effD ∧ v.cvu.effDelta = told.cvu.effDelta ∧
      (takeEffective h.d h.delta v).cvu.baseline = some b ∧
      ordersOf n (takeEffective h.d h.delta v) = some (helmPartContents h) ∧
      (takeEffective h.d h.delta v).cfg = told.cfg ∧ u = examineOrders n (takeEffective h.d h.delta v) := by
  obtain ⟨hsel, hcfg, hpeer, -⟩ := k.selection
  obtain ⟨hfollowed, hsame⟩ := k.followed
  obtain ⟨⟨-, -, hkept⟩, -⟩ := reselect_selects k.sorted
  have hpref := (selected_iff told n).1 (hfollowed.symm.trans hu)
  obtain ⟨-, -, hD, hdelta, hbaseline⟩ := hkept (.inr ⟨n, hold, hpref⟩)
  rw [← k.chosen] at hD hdelta hbaseline
  have hcfg' : (takeEffective h.d h.delta v).cfg = told.cfg := (takeEffective_taken _ _ v).cfg.trans hcfg
  obtain ⟨-, horders⟩ := k.contents hcfg' ((takeEffective_peers _ _ v n).trans hpeer)
  refine ⟨hD, hdelta, ?_, horders, hcfg', ?_⟩
  · rw [takeEffective_cvu]
    exact hbaseline.trans hb
  · rw [k.result, if_pos (hsame.symm.trans hu)]

theorem selectedAnew (k : HelmTaken n h st told v u) : SelectedAnew st v := by
  rw [k.chosen]
  exact (reselect_selects k.sorted).source k.alike

theorem notFollowed (k : HelmTaken n h st told v u) (hu : u.cvu.followed ≠ some n) : u = v := by
  rw [k.result, if_neg fun hv => hu (k.followed.2.trans hv)]

/-- From a sender followed before and still, with the baseline `b`: its order number as before, or its orders passed on
(R17, R19, R20). -/
theorem orders (k : HelmTaken n h st told v u) {b : Baseline} (hu : u.cvu.followed = some n)
    (hold : st.cvu.followed = some n) (hb : st.cvu.baseline = some b) :
    u.cvu.effD = h.d ∧ u.cvu.effDelta = h.delta ∧
    (h.order = b.order → u = takeEffective h.d h.delta v ∧ u.cvu.baseline = some b ∧
      (st.cvu.effD ≠ h.d ∨ st.cvu.effDelta ≠ h.delta →
        (v.svp.mode ≠ .configuring → ShareInForce u) ∧ SteeringInForce u)) ∧
    (h.order ≠ b.order → u.cvu.baseline = some (baselineOf n (helmPartContents h)) ∧ u.cvu.lastActed = some h.order ∧
      u = passOrders st.cfg.station n b (baselineOf n (helmPartContents h))
        (ordersNoted n (helmPartContents h) (takeEffective h.d h.delta v))) := by
  have hfollowed : told.cvu.followed = st.cvu.followed := by rw [k.alike.cvu]
  have hbaseline : told.cvu.baseline = st.cvu.baseline := by rw [k.alike.cvu]
  have hD : told.cvu.effD = st.cvu.effD := by rw [k.alike.cvu]
  have hdelta : told.cvu.effDelta = st.cvu.effDelta := by rw [k.alike.cvu]
  obtain ⟨kD, kdelta, kbaseline, korders, kcfg, kresult⟩ := k.still hu (hfollowed.trans hold) (hbaseline.trans hb)
  have heffective := takeEffective_cvu h.d h.delta v
  by_cases hsame : h.order = b.order
  · have hu' : u = takeEffective h.d h.delta v := kresult.trans (examineOrders_same kbaseline korders hsame)
    refine ⟨by rw [hu', heffective], by rw [hu', heffective], fun _ => ⟨hu', hu' ▸ kbaseline, fun hchange => ?_⟩,
      fun hne => absurd hsame hne⟩
    obtain ⟨hd, he, -⟩ | ⟨-, heq⟩ := takeEffective_cases h.d h.delta v
    · rw [kD, hD] at hd
      rw [kdelta, hdelta] at he
      exact absurd hchange (by simp [hd, he])
    · rw [hu', heq]
      exact noticeOrder_inForce { v with cvu := { v.cvu with effD := h.d, effDelta := h.delta } }
  · have hu' := kresult.trans (examineOrders_new kbaseline korders hsame)
    have hcvu : u.cvu = (ordersNoted n (helmPartContents h) (takeEffective h.d h.delta v)).cvu := by
      rw [hu']
      exact (passOrders_noticed _ _ _ _ _).cvu
    rw [kcfg, k.alike.cfg] at hu'
    refine ⟨by rw [hcvu, ordersNoted, heffective], by rw [hcvu, ordersNoted, heffective], fun h => absurd h hsame,
      fun _ => ⟨by rw [hcvu]; rfl, by rw [hcvu]; rfl, hu'⟩⟩

end HelmTaken

/-- The frame of a helm event, taken. -/
theorem helmTaken {f : RxFrame} {s : State} (hw : wfFrame .helm f = true) (he : helmEvent f.payload = true)
    (ho : RxFrame.sender f ≠ s.cfg.station) (hok : PeersOk s.cfg.station s.cvu.peers) :
    HelmTaken (RxFrame.sender f) (decodeHelm s.now f.payload) (storeFrame .helm f s)
      (tellArrival .helm (wakes (peerOf (RxFrame.sender f) s)) (storeFrame .helm f s))
      (reselect (tellArrival .helm (wakes (peerOf (RxFrame.sender f) s)) (storeFrame .helm f s)))
      (deliverFrame .helm f s) := by
  have hcfg : (storeFrame .helm f s).cfg = s.cfg := by rw [storeFrame_eq]
  have halike := tellHelm_alike (wakes (peerOf (RxFrame.sender f) s)) (storeFrame .helm f s)
  have hpeers : (tellArrival .helm (wakes (peerOf (RxFrame.sender f) s)) (storeFrame .helm f s)).cvu.peers =
      (storeFrame .helm f s).cvu.peers := by rw [halike.cvu]
  obtain ⟨h1, h6⟩ := wfFrame_sender hw
  exact {
    other := by rwa [halike.cfg, hcfg]
    sorted := by
      rw [halike.cfg, hcfg, hpeers]
      exact storeFrame_peersOk hok h1 h6 ho
    stored := by
      refine ⟨_, (peerOf_congr hpeers _).trans (peerOf_storeFrame .helm f s), ?_⟩
      simp [storeParts, he]
    alike := halike
    chosen := rfl
    taken := deliverFrame_helmEvent he s }

/-- Settles O33: the selection, then what a sender newly followed gives, then what one followed before and still gives. -/
theorem followedIsPreferred : Obligations.FollowedIsPreferred := by
  intro t f s hw hm hi ho hok he
  have hk := helmTaken (s := counting t s) hw he ho hok
  have hold : peerOf (RxFrame.sender f) (counting t s) = peerOf (RxFrame.sender f) s := peerOf_congr rfl _
  rw [hold] at hk
  have hcvu := storeFrame_cvu .helm f (counting t s)
  have hfollowed : (storeFrame .helm f (counting t s)).cvu.followed = s.cvu.followed := by rw [hcvu]; rfl
  have hbaseline : (storeFrame .helm f (counting t s)).cvu.baseline = s.cvu.baseline := by rw [hcvu]; rfl
  have hacted : (storeFrame .helm f (counting t s)).cvu.lastActed = s.cvu.lastActed := by rw [hcvu]; rfl
  have hD : (storeFrame .helm f (counting t s)).cvu.effD = s.cvu.effD := by rw [hcvu]; rfl
  have hdelta : (storeFrame .helm f (counting t s)).cvu.effDelta = s.cvu.effDelta := by rw [hcvu]; rfl
  have hmode : (storeFrame .helm f (counting t s)).svp.mode = s.svp.mode := by rw [storeFrame_eq]; rfl
  have hcfg : (storeFrame .helm f (counting t s)).cfg = s.cfg := by rw [storeFrame_eq]; rfl
  have hexec := exec_deliver (k := .helm) t hw hm hi ho
  refine ⟨deliverFrame .helm f (counting t s), hexec, hk.preferred, ?_⟩
  intro n D delta order rel rem v
  show SelectedAnew (storeFrame .helm f (counting t s)) v ∧ _
  have hv : v = reselect (tellArrival .helm (wakes (peerOf n s)) (storeFrame .helm f (counting t s))) := rfl
  rw [← hv] at hk
  clear_value v
  generalize hst : storeFrame .helm f (counting t s) = st at *
  generalize htold : tellArrival .helm (wakes (peerOf n s)) st = told at *
  generalize hu : deliverFrame .helm f (counting t s) = u at *
  have hmodeV : v.svp.mode = s.svp.mode := by
    rw [hk.chosen, reselect_reacts_mode, hk.alike.svp]
    exact hmode
  refine ⟨hk.selectedAnew, hk.notFollowed, fun hnow hwas => ?_, fun b hnow hwas hb => ?_⟩
  · have hcvu' := hk.alike.cvu
    obtain ⟨huv, h1, h2, h3, h4, h5, h6⟩ := hk.newly hnow (by rw [hcvu']; exact hfollowed ▸ hwas)
    rw [hcvu'] at h6
    exact ⟨huv, h1, h2, h3, h4, h5, h6.trans hacted⟩
  · obtain ⟨kD, kdelta, ksame, knew⟩ := hk.orders hnow (hfollowed.trans hwas) (hbaseline.trans hb)
    refine ⟨kD, kdelta, fun hsame => ?_, fun hne => ?_⟩
    · obtain ⟨heq, hbase, hforce⟩ := ksame hsame
      refine ⟨heq, hbase, fun hchange => ?_⟩
      rw [← hD, ← hdelta] at hchange
      exact (hforce hchange).imp (fun h => h (hmodeV ▸ hm)) id
    · obtain ⟨hbase, hact, heq⟩ := knew hne
      rw [hcfg] at heq
      refine ⟨hbase, hact, ?_⟩
      intro own w
      obtain ⟨c1, c2, c3, c4, c5⟩ := passOrders_cases own n b (baselineOf n (helmPartContents
        (decodeHelm (counting t s).now f.payload))) w
      exact ⟨fun h1 h2 => heq.trans (c1 h1 h2), fun h1 h2 h3 => heq.trans (c2 h1 h2 h3),
        fun h1 h2 h3 h4 => heq.trans (c3 h1 h2 h3 h4), fun h1 h2 h3 => heq.trans (c4 h1 h2 h3),
        fun h1 h2 => heq.trans (c5 h1 h2)⟩

end Sys2Proof.Machine
end

section
/-!
PROOFS. The convoy line (chapter 9): the periodic frames, the start of a transmission, frames that fail a check (O41, O38, O36).
-/

namespace Sys2Proof.Machine

/-! ## The line's timers (R11, R133, R168, R175) -/

theorem due_some {now e : Nat} : due now (some e) = true ↔ e ≤ now := by simp [due]

theorem exec_statusTimerExpiry (t : Nat) (s : State) : exec (.statusTimerExpiry t) s =
    if due (max s.clock t / 1000) s.lif.statusAt then .next (statusExpired (setClock t s)) else .next (setClock t s) := rfl

theorem exec_suspensionExpiry (t : Nat) (s : State) : exec (.suspensionExpiry t) s =
    if due (max s.clock t / 1000) s.lif.suspendedAt then
      .next (tryStart { setClock t s with lif := { s.lif with suspendedAt := none } })
    else .next (setClock t s) := rfl

theorem exec_helmPeriodExpiry (t : Nat) (s : State) : exec (.helmPeriodExpiry t) s =
    if s.cvu.claim = .claiming ∧ due (max s.clock t / 1000) s.cvu.helmAt = true then
      .next (sendHelm { setClock t s with
        cvu := { s.cvu with helmAt := restartTimer s.cfg.helmPeriod s.cvu.helmAt } })
    else .next (setClock t s) := rfl

theorem exec_fuelPeriodExpiry (t : Nat) (s : State) : exec (.fuelPeriodExpiry t) s =
    if due (max s.clock t / 1000) s.fau.fuelAt then
      .next (placeFuel { setClock t s with
        fau := { s.fau with fuelAt := restartTimer (s.cfg.fuelPeriod * 1000) s.fau.fuelAt } })
    else .next (setClock t s) := rfl

theorem statusPayload_setClock (t : Nat) (s : State) : statusPayload (setClock t s) = statusPayload s := rfl

/-- What the expiry of the status timer leaves beside what is being sent. -/
theorem statusExpired_line (s : State) : (statusExpired s).lif.listening = false ∧
    (statusExpired s).lif.statusAt = restartTimer s.cfg.statusPeriod s.lif.statusAt ∧
    (statusExpired s).lif.slotStatus =
      if s.svp.mode = .joining ∨ s.svp.mode = .running then some (statusPayload s) else s.lif.slotStatus := by
  have hslot := placeFrame_slot .status (statusPayload s) s
  rw [statusExpired, tryStart_eq]
  exact ⟨rfl, rfl, hslot⟩

/-- Settles O41: each timer places its frame, whose payload carries the values in force. -/
theorem periodicFramesPlaced : Obligations.PeriodicFramesPlaced := by
  refine fun t s => ⟨fun e he hdue => ?_, fun e hclaim he hdue => ?_, fun e he hdue => ?_, fun e he hdue => ?_,
    fun h => ?_, fun h => ?_, fun h => ?_, fun h => ?_⟩
  · obtain ⟨hlistening, hat, hslot⟩ := statusExpired_line (setClock t s)
    refine ⟨statusExpired (setClock t s), ?_, hlistening, hat.trans (congrArg (restartTimer _) he), hslot,
      statusPayload_bytes s⟩
    rw [exec_statusTimerExpiry, he, if_pos (due_some.2 hdue)]
  · let w : State := { setClock t s with cvu := { s.cvu with helmAt := restartTimer s.cfg.helmPeriod s.cvu.helmAt } }
    refine ⟨sendHelm w, ?_, ?_, placeFrame_slot .helm _ _, helmPayload_carries _ _⟩
    · rw [exec_helmPeriodExpiry, if_pos ⟨hclaim, he ▸ due_some.2 hdue⟩]
    · rw [sendHelm_cvu]
      exact congrArg (restartTimer _) he
  · let w : State := { setClock t s with
      fau := { s.fau with fuelAt := restartTimer (s.cfg.fuelPeriod * 1000) s.fau.fuelAt } }
    refine ⟨placeFuel w, ?_, ?_, placeFrame_slot .fuel _ _, fun _ => fuelPayload_bytes s⟩
    · rw [exec_fuelPeriodExpiry, if_pos (he ▸ due_some.2 hdue)]
    · rw [placeFuel, placeFrame_eq]
      exact congrArg (restartTimer _) he
  · refine ⟨tryStart { setClock t s with lif := { s.lif with suspendedAt := none } }, ?_, ?_⟩
    · rw [exec_suspensionExpiry, if_pos (he ▸ due_some.2 hdue)]
    · rw [tryStart_eq]
  · rw [exec_statusTimerExpiry, h, if_neg Bool.false_ne_true]
  · rw [exec_helmPeriodExpiry, if_neg]
    rintro ⟨hclaim, hdue⟩
    obtain h | h := h
    · exact h hclaim
    · rw [h] at hdue
      cases hdue
  · rw [exec_fuelPeriodExpiry, h, if_neg Bool.false_ne_true]
  · rw [exec_suspensionExpiry, h, if_neg Bool.false_ne_true]

/-! ## The start of a transmission (R165, R169, R170) -/

/-- With nothing being sent a placement fills its slot and offers the line. -/
theorem placeFrame_free {k : FrameKind} {p : List Byte} {s : State} (hm : s.svp.mode = .joining ∨ s.svp.mode = .running)
    (hx : s.lif.tx = none) : placeFrame k p s = tryStart { s with lif := setSlot k (some p) s.lif } := by
  have htx : txAfterPlacement s.clock k (setSlot k (some p) s.lif) = none := by simp [txAfterPlacement, hx]
  have hl : { setSlot k (some p) s.lif with tx := none } = setSlot k (some p) s.lif := by
    cases k <;> simp [setSlot, hx]
  simp only [placeFrame, transmitterOn_iff.2 hm, if_true, htx, hl]

/-- A frame already begun keeps its copy on the line; one not begun has the choice made again. -/
theorem placeFrame_begun {k : FrameKind} {p : List Byte} {s : State} {x : Tx}
    (hm : s.svp.mode = .joining ∨ s.svp.mode = .running) (hx : s.lif.tx = some x)
    (hb : x.sealed.isSome = true ∨ x.startAt < s.clock) : placeFrame k p s = { s with
      lif := { setSlot k (some p) s.lif with tx := some { x with replaced := x.replaced || decide (x.kind = k) } } } := by
  have hbegun : unbegun s.clock x = false := by
    obtain h | h := hb
    · cases hs : x.sealed <;> simp_all [unbegun]
    · simp [unbegun, Nat.not_le.2 h]
  rw [placeFrame_tx k p (transmitterOn_iff.2 hm) hx]
  simp only [txAfterPlacement, setSlot_tx, hx, hbegun, Bool.false_eq_true, if_false]
  by_cases hk : x.kind = k
  · simp [hk]
  · simp [hk]

theorem placeFrame_unbegun {k j : FrameKind} {p q : List Byte} {s : State} {x : Tx}
    (hm : s.svp.mode = .joining ∨ s.svp.mode = .running) (hx : s.lif.tx = some x) (hsealed : x.sealed = none)
    (hstart : s.clock ≤ x.startAt) (hlow : LowestFrame j q (setSlot k (some p) s.lif)) : placeFrame k p s = { s with
      lif := { setSlot k (some p) s.lif with tx := some { kind := j, payload := q, startAt := x.startAt } } } := by
  rw [placeFrame_tx k p (transmitterOn_iff.2 hm) hx]
  simp [txAfterPlacement, hx, unbegun, hsealed, hstart, lowestSlot_eq hlow]

/-- An offer of the line made twice, with the status timer restarted between, is one offer. -/
theorem tryStart_twice (e : Option Nat) (w : State) :
    tryStart { tryStart w with lif := { (tryStart w).lif with statusAt := e } } =
      tryStart { w with lif := { w.lif with statusAt := e } } := by
  obtain ⟨hstarts, hwaits⟩ := tryStart_offers w
  by_cases hmay : mayStart w = true
  · cases hb : ownStart w with
    | none =>
      rw [hwaits (.inr (.inl fun b k => by simp [(ownStart_iff w b).2 k] at hb))]
    | some b =>
      cases hf : lowestSlot w.lif with
      | none =>
        have heq : tryStart w = w := by simp [tryStart, hb, hf]
        rw [heq]
      | some f =>
        have heq : tryStart w = { w with
            lif := { w.lif with tx := some { kind := f.1, payload := f.2, startAt := b }, lineIdle := none } } := by
          simp [tryStart, hmay, hb, hf]
        rw [heq]
        have hon : tryStart { w with lif := { w.lif with
            tx := some { kind := f.1, payload := f.2, startAt := b }, lineIdle := none, statusAt := e } } =
            { w with lif := { w.lif with
              tx := some { kind := f.1, payload := f.2, startAt := b }, lineIdle := none, statusAt := e } } :=
          tryStart_noIdle rfl
        rw [hon]
        have hmay' : mayStart { w with lif := { w.lif with statusAt := e } } = true := hmay
        have hb' : ownStart { w with lif := { w.lif with statusAt := e } } = some b := hb
        have hf' : lowestSlot { w.lif with statusAt := e } = some f := hf
        rw [tryStart, if_pos hmay', hb', hf']
  · rw [hwaits (.inl fun h => hmay ((mayStart_iff w).2 h))]

/-- The status timer offers the line with a STATUS in its slot and the listening period over. -/
theorem statusExpired_offers {s : State} (hm : s.svp.mode = .joining ∨ s.svp.mode = .running) (hx : s.lif.tx = none) :
    statusExpired s = tryStart { s with
      lif := { s.lif with
        slotStatus := some (statusPayload s), listening := false
        statusAt := restartTimer s.cfg.statusPeriod s.lif.statusAt } } := by
  rw [statusExpired, placeStatus, placeFrame_free hm hx]
  cases hl : s.lif.listening with
  | true =>
    have hwaits : tryStart { s with lif := setSlot .status (some (statusPayload s)) s.lif } =
        { s with lif := setSlot .status (some (statusPayload s)) s.lif } :=
      (tryStart_offers _).2 (.inl fun h => by simp [setSlot, hl] at h)
    rw [hwaits]
    rfl
  | false =>
    have hlif : { s.lif with
        slotStatus := some (statusPayload s), listening := false
        statusAt := restartTimer s.cfg.statusPeriod s.lif.statusAt } =
        { setSlot .status (some (statusPayload s)) s.lif with
          statusAt := restartTimer s.cfg.statusPeriod s.lif.statusAt } := by
      simp [setSlot, hl]
    rw [hlif]
    refine Eq.trans ?_ (tryStart_twice _ { s with lif := setSlot .status (some (statusPayload s)) s.lif })
    have hkept : (tryStart { s with lif := setSlot .status (some (statusPayload s)) s.lif }).lif.listening = false := by
      rw [tryStart_eq]
      exact hl
    generalize tryStart { s with lif := setSlot .status (some (statusPayload s)) s.lif } = v at hkept ⊢
    rw [← hkept]

theorem lineBecomesIdle_free {s : State} (hm : s.svp.mode ≠ .configuring) (hx : s.lif.tx = none) (b : Option Nat) :
    lineBecomesIdle b s = tryStart { s with lif := { s.lif with
      lineIdle := some { since := s.clock, otherStart := b }, awaitIdle := false, midFrame := false } } := by
  have hon : receiverOn s.svp.mode = true := by cases h : s.svp.mode <;> first | rfl | exact absurd h hm
  simp [lineBecomesIdle, hon, hx]

/-- The own start bit of a frame that begins as the line becomes idle. -/
theorem ownStartBit_now {w : State} {b : Option Nat}
    (hi : w.lif.lineIdle = some { since := w.clock, otherStart := b }) (c : Nat) :
    OwnStartBit c w ↔ c = w.clock ∧ ∀ o, b = some o → w.clock ≤ o := by
  constructor
  · rintro ⟨i, h, hc, hother⟩
    obtain rfl := Option.some.inj (hi.symm.trans h)
    have hnow : c = w.clock := by
      simp only at hc
      omega
    exact ⟨hnow, hnow ▸ hother⟩
  · rintro ⟨rfl, hother⟩
    exact ⟨_, hi, by simp, hother⟩

/-- Settles O38: every offer of the line is one `tryStart`. -/
theorem lineIdleStartsLowestSlot : Obligations.LineIdleStartsLowestSlot := by
  refine ⟨fun t b s hx hm => ?_, fun k p s => ⟨fun hon hx => ?_, fun x hon hx => ⟨?_, ?_⟩, fun hoff => ?_⟩,
    fun t e s hdue => ⟨fun he => ?_, fun he hon hx => ?_⟩⟩
  · have hexec : exec (.lineIdle ⟨t, b⟩) s = .next (tryStart { setClock t s with lif := { s.lif with
        lineIdle := some { since := max s.clock t, otherStart := b }, awaitIdle := false, midFrame := false } }) :=
      congrArg Host.Outcome.next (lineBecomesIdle_free (s := setClock t s) hm hx b)
    generalize hw : ({ setClock t s with lif := { s.lif with
        lineIdle := some { since := max s.clock t, otherStart := b }, awaitIdle := false, midFrame := false } } : State) = w
      at hexec
    have hidle : w.lif.lineIdle = some { since := w.clock, otherStart := b } := by subst hw; rfl
    obtain ⟨hstarts, hwaits⟩ := tryStart_offers w
    refine ⟨fun k p hon hl hs ho hlow => ?_, fun hno => ?_⟩
    · have hstart : OwnStartBit w.clock w := (ownStartBit_now hidle _).2 ⟨rfl, by subst hw; exact ho⟩
      have hfree : (w.svp.mode = .joining ∨ w.svp.mode = .running) ∧ w.lif.listening = false ∧
          w.lif.suspendedAt = none ∧ w.lif.tx = none := by subst hw; exact ⟨hon, hl, hs, hx⟩
      rw [hexec, hstarts w.clock k p hfree hstart (by subst hw; cases k <;> exact hlow)]
      subst hw
      rfl
    · have hnot : tryStart w = w := by
        refine hwaits ?_
        obtain h | h | h | ⟨o, hb, ho⟩ | h := hno
        · exact .inl fun k => by subst hw; simp [setClock, h] at k
        · exact .inl fun k => by subst hw; simp [h] at k
        · exact .inl fun k => by subst hw; simp [h] at k
        · refine .inr (.inl fun c hc => ?_)
          obtain ⟨-, hother⟩ := (ownStartBit_now hidle c).1 hc
          have hle := hother o hb
          subst hw
          exact absurd hle (Nat.not_le.2 ho)
        · exact .inr (.inr fun j => by subst hw; cases j <;> first | exact h .alert | exact h .helm | exact h .status | exact h .fuel)
      rw [hexec, hnot]
      subst hw
      rfl
  · rw [placeFrame_free hon hx]
    exact tryStart_offers _
  · exact placeFrame_begun hon hx
  · exact fun hs hstart j q hlow => placeFrame_unbegun hon hx hs hstart hlow
  · refine placeFrame_off ?_
    obtain h | h := hoff <;> rw [h] <;> rfl
  · refine ⟨_, ?_, tryStart_offers _⟩
    rw [exec_suspensionExpiry, if_pos (he ▸ due_some.2 hdue)]
    rfl
  · refine ⟨_, ?_, tryStart_offers _⟩
    rw [exec_statusTimerExpiry, if_pos (he ▸ due_some.2 hdue), statusExpired_offers (s := setClock t s) hon hx]
    exact congrArg (fun a => Host.Outcome.next (tryStart { setClock t s with lif := { s.lif with
      slotStatus := some (statusPayload s), listening := false, statusAt := a } })) (congrArg (restartTimer _) he)

/-! ## Frames that fail a check (R165, R176, R177, R181) -/

theorem exec_crcError (t : Nat) (x : RxFault) (s : State) :
    exec (.crcError t x) s = .next (discardFrame x (setClock t s)) := rfl

theorem exec_malformed (t : Nat) (k : Byte) (f : RxFrame) (s : State) :
    exec (.malformed t k f) s = .next (receiveFrame k.toNat f (setClock t s)) := rfl

theorem frameSeen_lif (s : State) : (frameSeen s).lif.awaitIdle = true ∧ (frameSeen s).lif.crcErrors = s.lif.crcErrors ∧
    (frameSeen s).lif.malformed = s.lif.malformed ∧ (frameSeen s).lif.receivedOk = s.lif.receivedOk ∧
    frameSeen s = { s with lif := (frameSeen s).lif } := ⟨rfl, rfl, rfl, rfl, rfl⟩

theorem receiveFrame_badCrc {kind : Nat} {f : RxFrame} {s : State} (ha : assembling s = true)
    (hc : f.crc ≠ frameCrc kind f) : receiveFrame kind f s = countCrcError (frameSeen s) := by
  rw [receiveFrame, if_pos ha, if_pos hc]

theorem receiveFrame_badHeader {kind : Nat} {f : RxFrame} {s : State} (ha : assembling s = true)
    (hc : f.crc = frameCrc kind f) (hh : headerOk kind f = false) :
    receiveFrame kind f s = countMalformed (frameSeen s) := by
  rw [receiveFrame, if_pos ha, if_neg (not_not_intro hc)]
  split
  · rw [hh, if_neg Bool.false_ne_true]
  · rfl

theorem discardFrame_assembling {x : RxFault} {s : State} (ha : assembling s = true) :
    discardFrame x s = countCrcError (frameSeen s) := if_pos ha

/-- A receiver that is not assembling takes no frame. -/
theorem exec_frame_waiting {c : Instr} {t : Nat} {s : State} (h : assembling s = false) (hc : isFrame c = true)
    (ht : timeOf c = some t) : exec c s = .next (setClock t s) := by
  have hw : assembling (setClock t s) = false := h
  cases c <;> simp only [isFrame, Bool.false_eq_true] at hc <;> simp only [timeOf, Option.some.injEq] at ht <;> subst ht <;>
    exact congrArg Host.Outcome.next (receiveFrame_waiting hw)

/-- Settles O36: each failed frame is counted once, and the receiver then waits for an idle line. -/
theorem discardedFramesCounted : Obligations.DiscardedFramesCounted := by
  intro t s
  have hon (hm : s.svp.mode ≠ .configuring) (hi : s.lif.awaitIdle = false) : assembling (setClock t s) = true :=
    (assembling_iff _).2 ⟨hm, hi⟩
  have hoff (h : s.svp.mode = .configuring ∨ s.lif.awaitIdle = true) : assembling (setClock t s) = false := by
    rw [Bool.eq_false_iff, ne_eq, assembling_iff]
    rintro ⟨hm, hi⟩
    obtain h | h := h
    · exact hm h
    · exact Bool.false_ne_true (hi.symm.trans h)
  refine ⟨fun x hm hi => ?_, fun k f hm hi hc hh => ?_, fun k f hm hi hc => ?_, fun x hm hi hmid => ?_, fun x h => ?_,
    fun h c hc ht => exec_frame_waiting (hoff h) hc ht⟩
  · refine ⟨countCrcError (frameSeen (setClock t s)), ?_, rfl, rfl, rfl, rfl, rfl⟩
    rw [exec_crcError, discardFrame_assembling (hon hm hi)]
  · refine ⟨countMalformed (frameSeen (setClock t s)), ?_, rfl, rfl, rfl, rfl, rfl⟩
    rw [exec_malformed, receiveFrame_badHeader (hon hm hi) hc hh]
  · refine ⟨countCrcError (frameSeen (setClock t s)), ?_, rfl, rfl, rfl⟩
    rw [exec_frameCommand, receiveFrame_badCrc (hon hm hi) hc]
  · have hrec : receiverOn s.svp.mode = true := by cases h : s.svp.mode <;> first | rfl | exact absurd h hm
    rw [exec_crcError, discardFrame_waiting (hoff (.inr hi)), setClock_svp, hrec]
    simp only [Bool.true_and, setClock_lif, hmid, if_true]
    rfl
  · have hw : assembling (setClock t s) = false := hoff (h.imp_right And.left)
    have hnone : (receiverOn s.svp.mode && s.lif.midFrame) = false := by
      obtain h | ⟨-, h⟩ := h <;> simp [h, receiverOn]
    rw [exec_crcError, discardFrame_waiting hw, setClock_svp, setClock_lif, hnone]
    rfl

end Sys2Proof.Machine
end

section
/-!
PROOFS. The end of an own transmission and a frame with the own number (O40, O37).
-/

namespace Sys2Proof.Machine

/-! ## The end of a transmission (R169, R171, R173 to R175) -/

theorem recompute_contributing (w : State) : (recompute w).shu.contributing = w.shu.contributing ∨
    (w.cpc.pullOff ≠ none ∧ (recompute w).shu.contributing = false) := by
  obtain ⟨heq, -⟩ | ⟨hp, -, heq⟩ := recompute_cases w
  · obtain ⟨h, -⟩ := recomputeShare_told_shu w
    exact .inl (heq ▸ h)
  · exact .inr ⟨by rintro h; simp [h] at hp, by rw [heq, finishPullOff_contributing]⟩

/-- A notice that leaves the contributing state leaves everything, unless it forces a recompute. -/
theorem shuNotice_same {s : State} (h : (shuNotice false s).shu.contributing = s.shu.contributing) :
    shuNotice false s = s := by
  revert h
  refine shuNoticeWith_cases (rc := recompute) (fun u => u.shu.contributing = s.shu.contributing → u = s)
    (fun _ _ _ => rfl) (fun _ hf => absurd hf Bool.false_ne_true) fun hc h => ?_
  have hcontributing : (recompute (withContributing s)).shu.contributing = s.shu.contributing := by
    rwa [placeAlert_eq] at h
  obtain hsame | ⟨hp, hfalse⟩ := recompute_contributing (withContributing s)
  · exact absurd (hsame.symm.trans hcontributing) hc
  · have hnow : contributingNow s = false := by
      have hp : s.cpc.pullOff ≠ none := hp
      simp [contributingNow, contributingConditions, hp]
    exact absurd (hnow.trans (hfalse.symm.trans hcontributing)) hc

theorem exec_sentSuccessfully {t : Nat} {s : State} {x : Tx} (hx : s.lif.tx = some x) (hs : x.sealed.isSome = true) :
    exec (.sentSuccessfully t) s = .next (finishSend x (setClock t s)) := by
  simp [exec, execSentSuccessfully, hx, hs]

theorem exec_transmitError {t : Nat} {s : State} {x : Tx} (hx : s.lif.tx = some x) :
    exec (.transmitError t) s = .next (abandonFrame x (setClock t s)) := by
  simp [exec, execTransmitError, hx]

/-- A frame off the line empties its slot unless a newer one is in it, and changes nothing else of the line. -/
theorem leaveLine_eq (x : Tx) (l : Lif) :
    leaveLine x l = { setSlot x.kind (if x.replaced then slotOf x.kind l else none) l with tx := none } := by
  cases hr : x.replaced <;> cases hk : x.kind <;> simp [leaveLine, hr, hk, setSlot, slotOf]

/-- The state in which a frame sent has left the line (R173). -/
def sentOff (x : Tx) (s : State) : State :=
  { s with lif := { leaveLine x s.lif with
      awaitIdle := true, runCount := 0, transmittedOk := sat16 ((leaveLine x s.lif).transmittedOk + 1) } }

/-- The state in which the end of the mute is noticed (R24, R173). -/
def unmuted (s : State) : State :=
  { s with lif := { s.lif with lastSent := some s.now }, shu := { s.shu with muted := false } }

theorem finishSend_eq (x : Tx) (s : State) :
    finishSend x s = if carriesStatus x.kind then shuNotice false (unmuted (sentOff x s)) else sentOff x s := rfl

theorem leaveLine_lif (x : Tx) (l : Lif) : (leaveLine x l).tx = none ∧ (leaveLine x l).transmittedOk = l.transmittedOk ∧
    (leaveLine x l).transmitErrors = l.transmitErrors ∧ (leaveLine x l).runCount = l.runCount ∧
    (leaveLine x l).suspensions = l.suspensions ∧ (leaveLine x l).suspendedAt = l.suspendedAt ∧
    (leaveLine x l).lastSent = l.lastSent ∧ (leaveLine x l).lineIdle = l.lineIdle := by
  rw [leaveLine_eq]
  cases x.kind <;> exact ⟨rfl, rfl, rfl, rfl, rfl, rfl, rfl, rfl⟩

theorem leaveLine_slot (x : Tx) (l : Lif) :
    slotOf x.kind (leaveLine x l) = (if x.replaced then slotOf x.kind l else none) ∧
      ∀ k, k ≠ x.kind → slotOf k (leaveLine x l) = slotOf k l := by
  rw [leaveLine_eq]
  refine ⟨?_, fun k hk => ?_⟩
  · rw [← slotOf_setSlot_same x.kind (if x.replaced then slotOf x.kind l else none) l]
    cases x.kind <;> rfl
  · rw [← slotOf_setSlot_other hk (if x.replaced then slotOf x.kind l else none) l]
    cases k <;> rfl

/-- Two lines with the same slots. -/
theorem slotOf_congr {l m : Lif} (ha : m.slotAlert = l.slotAlert) (hh : m.slotHelm = l.slotHelm)
    (hs : m.slotStatus = l.slotStatus) (hf : m.slotFuel = l.slotFuel) (k : FrameKind) : slotOf k m = slotOf k l := by
  cases k
  · exact ha
  · exact hh
  · exact hs
  · exact hf

theorem AlertsOnly.otherSlot {l m : Lif} (h : AlertsOnly l m) {k : FrameKind} (hk : k ≠ .alert) :
    slotOf k m = slotOf k l := by
  obtain ⟨heq, -⟩ := h
  rw [heq]
  cases k <;> first | rfl | exact absurd rfl hk

theorem sentOff_slot (x : Tx) (s : State) :
    slotOf x.kind (sentOff x s).lif = if x.replaced then slotOf x.kind s.lif else none :=
  (slotOf_congr rfl rfl rfl rfl x.kind).trans (leaveLine_slot x s.lif).1

/-- What a STATUS or ALERT sent leaves. -/
theorem finishSend_status {x : Tx} {s : State} {u : State} (hu : u = shuNotice false (unmuted (sentOff x s))) :
    u.lif.runCount = 0 ∧ u.lif.transmittedOk = min (s.lif.transmittedOk + 1) 65535 ∧
      (x.kind ≠ .alert ∨ u.shu.contributing = s.shu.contributing →
        slotOf x.kind u.lif = if x.replaced then slotOf x.kind s.lif else none) ∧
      (u.shu.contributing ≠ s.shu.contributing → Alerted u) ∧ (s.lif.lineIdle = none → u.lif.tx = none) ∧
      u.lif.lastSent = some u.now ∧ u.shu.muted = false ∧ ContributesInForce u ∧
      (u.shu.contributing ≠ s.shu.contributing → u.svp.mode ≠ .configuring → ShareInForce u ∧ SteeringInForce u) := by
  generalize hv : unmuted (sentOff x s) = v at hu
  obtain ⟨htx, hok, -, -, -, -, -, hidle⟩ := leaveLine_lif x s.lif
  have hvSlot : slotOf x.kind v.lif = if x.replaced then slotOf x.kind s.lif else none := by
    rw [← sentOff_slot, ← hv]
    exact slotOf_congr rfl rfl rfl rfl x.kind
  have hvLine : v.lif.runCount = 0 ∧ v.lif.transmittedOk = min (s.lif.transmittedOk + 1) 65535 ∧ v.lif.tx = none ∧
      v.lif.lineIdle = s.lif.lineIdle ∧ v.lif.lastSent = some v.now := by
    rw [← hv]
    exact ⟨rfl, congrArg (fun n => sat16 (n + 1)) hok, htx, hidle, rfl⟩
  have hvShu : v.shu.contributing = s.shu.contributing ∧ v.shu.muted = false := by
    rw [← hv]
    exact ⟨rfl, rfl⟩
  obtain ⟨hrun, hokV, htxV, hidleV, hsent⟩ := hvLine
  obtain ⟨hcontributing, hmuted⟩ := hvShu
  have htold : Told v u := hu ▸ shuNotice_told false v
  have hline : AlertsOnly v.lif u.lif := hu ▸ shuNoticeWith_line recompute_recomputes
  have hmutedU : u.shu.muted = v.shu.muted := by
    obtain ⟨h, -⟩ := shuNoticeWith_kept (force := false) (s := v) recompute_recomputes
    exact hu ▸ h
  have hchanged (h : u.shu.contributing ≠ v.shu.contributing) : contributingNow v ≠ v.shu.contributing := fun hc =>
    h (by rw [hu, shuNotice, shuNoticeWith, if_pos hc]; rfl)
  rw [← hcontributing]
  obtain ⟨heq, hquiet⟩ := hline
  refine ⟨by rw [heq, hrun], by rw [heq, hokV], fun h => ?_, fun h => ?_, fun h => ?_, ?_, ?_, ?_, fun h hm => ⟨?_, ?_⟩⟩
  · rw [← hvSlot]
    by_cases hk : x.kind = .alert
    · rw [show u = v from hu ▸ shuNotice_same (hu ▸ h.resolve_left (not_not_intro hk))]
    · exact AlertsOnly.otherSlot ⟨heq, hquiet⟩ hk
  · have hchange : (shuNotice false v).shu.contributing ≠ v.shu.contributing := hu ▸ h
    exact hu ▸ shuNoticeWith_alerts recompute_recomputes (.inr hchange)
  · obtain ⟨-, htxU⟩ := hquiet (hidleV.trans h) htxV
    exact htxU
  · rw [htold.now, ← hsent, heq]
  · exact hmutedU.trans hmuted
  · exact hu ▸ shuNotice_contributes false v
  · have hmv : v.svp.mode ≠ .configuring := htold.mode ▸ hm
    exact hu ▸ shuNoticeWith_share recompute_recomputes hmv (.inr (.inl (hchanged h)))
  · exact hu ▸ shuNoticeWith_steering recompute_recomputes (.inl (hchanged h))

/-- What a frame abandoned leaves (R174, R175). -/
theorem abandonFrame_left (x : Tx) (s : State) {u : State} (hu : u = abandonFrame x s) : u.lif.tx = none ∧
    slotOf x.kind u.lif = (if x.replaced then slotOf x.kind s.lif else none) ∧
    (∀ k, k ≠ x.kind → slotOf k u.lif = slotOf k s.lif) ∧
    u.lif.transmitErrors = min (s.lif.transmitErrors + 1) 65535 ∧ u.lif.lastSent = s.lif.lastSent ∧
    (s.lif.runCount + 1 < 16 → u.lif.runCount = s.lif.runCount + 1 ∧ u.lif.suspendedAt = s.lif.suspendedAt) ∧
    (16 ≤ s.lif.runCount + 1 → u.lif.runCount = 0 ∧ u.lif.suspensions = min (s.lif.suspensions + 1) 65535 ∧
      u.lif.suspendedAt = some (u.now + 1000) ∧ flagSet .lineSuspended u = true) := by
  obtain ⟨hslot, hother⟩ := leaveLine_slot x s.lif
  obtain ⟨htx, -, herrors, hrun, hsuspensions, hat, hsent, -⟩ := leaveLine_lif x s.lif
  have hcount : sat16 ((leaveLine x s.lif).transmitErrors + 1) = min (s.lif.transmitErrors + 1) 65535 := by
    rw [herrors]
    rfl
  by_cases hdue : 16 ≤ s.lif.runCount + 1
  · have heq : u = raiseFlag .lineSuspended { s with lif := { leaveLine x s.lif with
        transmitErrors := sat16 ((leaveLine x s.lif).transmitErrors + 1), runCount := 0
        suspensions := sat16 ((leaveLine x s.lif).suspensions + 1), suspendedAt := some (s.now + 1000) } } := by
      rw [hu, abandonFrame, suspendIfDue, if_pos (by simpa only [Config.suspensionRun, hrun] using hdue)]
      rfl
    rw [heq]
    refine ⟨htx, (slotOf_congr rfl rfl rfl rfl _).trans hslot, fun k hk => (slotOf_congr rfl rfl rfl rfl k).trans (hother k hk),
      hcount, hsent, fun h => absurd hdue (Nat.not_le.2 h), fun _ => ⟨rfl, ?_, rfl, ?_⟩⟩
    · exact congrArg (fun n => sat16 (n + 1)) hsuspensions
    · rw [flagSet_raiseFlag]
      simp
  · have heq : u = { s with lif := { leaveLine x s.lif with
        transmitErrors := sat16 ((leaveLine x s.lif).transmitErrors + 1)
        runCount := (leaveLine x s.lif).runCount + 1 } } := by
      rw [hu, abandonFrame, suspendIfDue, if_neg (by simpa only [Config.suspensionRun, hrun] using hdue)]
    rw [heq]
    exact ⟨htx, (slotOf_congr rfl rfl rfl rfl _).trans hslot, fun k hk => (slotOf_congr rfl rfl rfl rfl k).trans (hother k hk),
      hcount, hsent, fun _ => ⟨congrArg (· + 1) hrun, hat⟩, fun h => absurd h hdue⟩

/-- Settles O40: the slot is emptied first, and a STATUS or ALERT sent is then one notice to the SHU. -/
theorem transmissionEnds : Obligations.TransmissionEnds := by
  refine fun t s x hx => ⟨fun hs => ?_, fun hs => ?_, ?_⟩
  · rw [exec_arbitrationLost t hx, loseArbitration, hs]
    rfl
  · refine ⟨_, exec_sentSuccessfully hx hs, ?_⟩
    rw [finishSend_eq]
    cases hk : carriesStatus x.kind with
    | true =>
      rw [if_pos rfl]
      obtain ⟨hrun, hok, hslot, halert, hidle, hsent, hmuted, hcontributes, hforce⟩ :=
        finishSend_status (x := x) (s := setClock t s) rfl
      refine ⟨hrun, hok, hslot, halert, hidle, fun _ => ⟨hsent, hmuted, hcontributes.iff, hforce⟩, fun h => ?_⟩
      obtain h | h := h <;> rw [h] at hk <;> cases hk
    | false =>
      rw [if_neg Bool.false_ne_true]
      obtain ⟨htx, hok, -, -, -, -, hsent, -⟩ := leaveLine_lif x s.lif
      refine ⟨rfl, congrArg (fun n => sat16 (n + 1)) hok, fun _ => sentOff_slot x (setClock t s), fun h => absurd rfl h,
        fun _ => htx, fun h => ?_, fun _ => ⟨htx, hsent, rfl⟩⟩
      obtain h | h := h <;> rw [h] at hk <;> cases hk
  · exact ⟨_, exec_transmitError hx, abandonFrame_left x (setClock t s) rfl⟩

/-! ## A frame with the own number (R178, R187) -/

/-- Where the transmitter is off, the line is left as it was. -/
def LineUnlessOn (s u : State) : Prop := transmitterOn s.svp.mode = false → u.lif = s.lif

theorem placeAlert_off {s : State} (h : transmitterOn s.svp.mode = false) : placeAlert s = s := placeFrame_off h

section
variable {rc : State → State} (hrc : Recomputes rc) (hoff : ∀ w, LineUnlessOn w (rc w)) {s : State}
include hrc hoff

theorem shuNoticeWith_off (force : Bool) : LineUnlessOn s (shuNoticeWith rc force s) := by
  refine shuNoticeWith_cases (LineUnlessOn s) (fun _ _ _ => rfl) (fun _ _ => hoff s) fun _ h => ?_
  have hmode : transmitterOn (stcNotice (rc (withContributing s))).svp.mode = false := by
    have htold : Told (withContributing s) (stcNotice (rc (withContributing s))) := (hrc.told _).trans (stcNotice_told _)
    rw [htold.mode]
    exact h
  rw [placeAlert_off hmode]
  exact hoff (withContributing s) h

theorem settleWith_off (parted : Bool) : LineUnlessOn s (settleWith rc parted s) := by
  have htold : Told s (shuNoticeWith rc (decide (fCplNow s ≠ s.cpc.fCpl)) (withCoupling s)) :=
    (withCoupling_told s).trans (shuNoticeWith_told hrc)
  have hline := shuNoticeWith_off hrc hoff (s := withCoupling s) (decide (fCplNow s ≠ s.cpc.fCpl))
  generalize hn : shuNoticeWith rc (decide (fCplNow s ≠ s.cpc.fCpl)) (withCoupling s) = v at htold hline
  refine settleWith_cases (LineUnlessOn s) parted (fun _ _ h => hn ▸ hline h) fun w hw h => ?_
  have hmode : transmitterOn v.svp.mode = false := by rw [htold.mode, h]
  obtain rfl | rfl := hw
  · rw [hn, placeAlert_off hmode, hline h]
    rfl
  · rw [hn, placeAlert_off hmode, placeAlert_off hmode, hline h]
    rfl

end

theorem recomputeShare_off (w : State) : LineUnlessOn w (recomputeShare w) := fun _ => recomputeShare_lif w

theorem recompute_off (w : State) : LineUnlessOn w (recompute w) := by
  obtain ⟨heq, -⟩ | ⟨-, -, heq⟩ := recompute_cases w
  · exact heq ▸ recomputeShare_off w
  · intro h
    have hmode : transmitterOn (released (recomputeShare w)).svp.mode = false := by
      rw [(released_told _).mode, (recomputeShare_told w).mode, h]
    have hline := settleWith_off recomputeShare_recomputes recomputeShare_off false hmode
    rw [heq, finishPullOff_eq, hline, released_lif, recomputeShare_lif]

theorem shuNotice_off (force : Bool) (s : State) : LineUnlessOn s (shuNotice force s) :=
  shuNoticeWith_off recompute_recomputes recompute_off force

theorem stcNotice_off (s : State) : LineUnlessOn s (stcNotice s) := fun _ => rfl

theorem noticeOrder_off (s : State) : LineUnlessOn s (noticeOrder s) := recompute_off s

theorem chosen_off (s : State) : LineUnlessOn s (chosen s) := by
  obtain ⟨h, -⟩ | ⟨n, h, -, -, -, heq⟩ | ⟨-, -, heq⟩ := chosen_cases s
  · exact fun _ => by rw [h]
  · exact fun hm => by
      rw [heq, noticeOrder_off (followed n h s) hm]
      rfl
  · exact fun _ => by
      rw [heq]
      rfl

theorem sendHelm_off (s : State) : LineUnlessOn s (sendHelm s) := fun h => by
  rw [sendHelm, placeHelm, placeFrame_off (by exact h)]

theorem sendYield_off (s : State) : LineUnlessOn s (sendYield s) := fun h => by
  unfold sendYield
  split
  · rw [placeHelm, placeFrame_off h]
  · rfl

theorem evalClaim_off (s : State) : LineUnlessOn s (evalClaim s) := fun h => by
  unfold evalClaim
  split
  · rfl
  · rfl
  · split
    · exact sendYield_off _ h
    · rfl
  · exact sendHelm_off _ h
  · rfl
  · rfl

theorem reselect_off (s : State) : LineUnlessOn s (reselect s) := fun h => by
  have hmode : transmitterOn (chosen s).svp.mode = false := by rw [(chosen_selects s).mode, h]
  rw [reselect_eq, evalClaim_off _ hmode, chosen_off s h]

theorem noticeMode_off (s : State) : LineUnlessOn s (noticeMode s) := fun h => by
  have hmode : transmitterOn (reselect s).svp.mode = false := by rw [reselect_reacts_mode, h]
  rw [noticeMode, stcNotice_eq]
  exact (shuNotice_off true _ hmode).trans (reselect_off s h)

/-- Entering SILENT: nothing is sent or waits, no claim is made, nothing is contributed, and every shaft's target is 0. -/
theorem enterSilent_left (s : State) {u : State} (hu : u = enterSilent s) : u.svp.mode = .silent ∧ u.svp.joinAt = none ∧
    u.cvu.peers = s.cvu.peers ∧ u.cfg = s.cfg ∧ (∀ f, f ≠ .shortfall → f ≠ .helmLost → flagSet f u = flagSet f s) ∧
    u.lif = { emptySlots s.lif with tx := none } ∧ u.cvu.claim = .notClaiming ∧ u.shu.contributing = false ∧
    ShareInForce u := by
  let w := setMode .silent none (stopTransmitter s)
  let r := reselect w
  have hreacts : Reacts w u := hu ▸ enterSilent_reacts s
  have hmode : u.svp.mode = .silent := hreacts.mode
  have hclaimed := evalClaim_claimed (chosen w)
  have hr : r.svp.mode = .silent := reselect_reacts_mode w
  have htold : Told r u := hu ▸ (shuNotice_told true r).trans (stcNotice_told _)
  have hcontributes : ContributesInForce u := hu ▸ shuNotice_contributes true r
  refine ⟨hmode, ?_, hreacts.peers, hreacts.cfg, fun f h1 h2 => ?_, ?_, ?_, ?_, ?_⟩
  · rw [hreacts.svp]
    rfl
  · have hshu : flagSet f (shuNotice true r) = flagSet f r := shuNoticeWith_flags recompute_recomputes f h1
    rw [hu]
    exact hshu.trans (reselect_flag h1 h2 w)
  · rw [hu]
    exact noticeMode_off w rfl
  · rw [htold.cvu]
    refine hclaimed.now.trans ((claimNow_iff _).2.2 ?_)
    rintro ⟨-, -, -, hrun⟩
    have hw : w.svp.mode = .running := (chosen_selects w).mode.symm.trans hrun
    cases hw
  · have hnow : contributingNow u = false := by simp [contributingNow, contributingConditions, hmode]
    exact hcontributes.trans hnow
  · exact hu ▸ stcNotice_share (shuNotice_share (s := r) (by rw [hr]; exact nofun))

theorem silent_targets {u : State} (h : ShareInForce u) (hm : u.svp.mode = .silent) {n : Nat} {r : Shaft} {c : ShaftCfg}
    (hr : getN u.sfc n = some r) (hc : getN u.cfg.shafts n = some c) : r.target = 0 := by
  obtain ⟨-, -, -, -, hidle, -⟩ := h
  obtain ⟨-, htargets⟩ := hidle (by simp [hm]) (.inl (by simp [hm]))
  obtain ⟨htarget, -⟩ := htargets n c r hc hr
  exact Option.some.inj htarget

theorem exec_duplicate {k : FrameKind} {f : RxFrame} {s : State} (t : Nat) (hw : wfFrame k f = true)
    (hm : s.svp.mode ≠ .configuring) (hi : s.lif.awaitIdle = false) (ho : RxFrame.sender f = s.cfg.station) :
    exec (.duplicate t k f) s = .next (duplicateFound (frameSeen (setClock t s))) := by
  have ha : assembling (setClock t s) = true := (assembling_iff _).2 ⟨hm, hi⟩
  have hk : kindOfByte (FrameKind.code k) = some k := by cases k <;> rfl
  simp only [wfFrame, Bool.and_eq_true, decide_eq_true_eq] at hw
  obtain ⟨⟨-, hcrc⟩, hhead⟩ := hw
  have hrec : receiveFrame (FrameKind.code k) f (setClock t s) = acceptFrame k f (frameSeen (setClock t s)) := by
    rw [receiveFrame, if_pos ha, if_neg (not_not.2 hcrc), hk]
    simp only [hhead, if_true]
  have haccept : acceptFrame k f (frameSeen (setClock t s)) = duplicateFound (frameSeen (setClock t s)) := if_pos ho
  exact congrArg Host.Outcome.next (hrec.trans haccept)

/-- Settles O37: a station that transmits goes SILENT, one that is SILENT only raises the flag. -/
theorem duplicateSilences : Obligations.DuplicateSilences := by
  intro t k f s hw hm hi ho
  generalize hseen : raiseFlag .duplicate (frameSeen (setClock t s)) = v
  have hflag : flagSet .duplicate v = true := by
    rw [← hseen, flagSet_raiseFlag]
    simp
  have hv : v.svp.mode = s.svp.mode ∧ v.cvu = s.cvu ∧ v.cfg = s.cfg ∧ v.lif.receivedOk = s.lif.receivedOk := by
    rw [← hseen]
    exact ⟨rfl, rfl, rfl, rfl⟩
  obtain ⟨hmode, hcvu, hcfg, hok⟩ := hv
  have hexec : exec (.duplicate t k f) s = .next (if transmitterOn s.svp.mode then enterSilent v else v) := by
    rw [exec_duplicate t hw hm hi ho, ← hseen]
    rfl
  cases hon : transmitterOn s.svp.mode with
  | true =>
    rw [hon, if_pos rfl] at hexec
    obtain ⟨hsilent, hjoin, hpeers, hcfgU, hflags, hlif, hclaim, hcontributing, hshare⟩ := enterSilent_left v rfl
    refine ⟨_, hexec, hsilent, (hflags .duplicate nofun nofun).trans hflag, hpeers.trans (by rw [hcvu]), ?_, fun _ => ?_⟩
    · rw [hlif]
      exact hok
    · refine ⟨by rw [hlif]; rfl, by rw [hlif]; rfl, by rw [hlif]; rfl, by rw [hlif]; rfl, by rw [hlif], hclaim,
        hcontributing, hjoin, fun n r c hr hc => silent_targets hshare hsilent hr (c := c) ?_⟩
      rw [hcfgU, hcfg]
      exact hc
  | false =>
    rw [hon, if_neg Bool.false_ne_true] at hexec
    have hs : s.svp.mode = .silent := by
      cases h : s.svp.mode <;> simp_all [transmitterOn]
    exact ⟨v, hexec, hmode.trans hs, hflag, by rw [hcvu], hok, fun h => absurd hs h⟩

end Sys2Proof.Machine
end

section
/-!
PROOFS. Share filling and every recompute (O42), and the shaft split (O43).
-/

namespace Sys2Proof.Machine

/-! ## Truncated parts of a whole (R38, R40) -/

/-- Parts of `e` in proportion to the weights, truncated: together they miss `e` by less than one each. -/
theorem quotients_sum {W : Nat} (hW : 0 < W) (e : Nat) : ∀ ws : List Nat,
    (ws.map fun w => e * w / W).sum * W ≤ e * ws.sum ∧
      e * ws.sum + ws.length ≤ ((ws.map fun w => e * w / W).sum + ws.length) * W
  | [] => by simp
  | w :: ws => by
    obtain ⟨hle, hlt⟩ := quotients_sum hW e ws
    have hdiv := Nat.div_add_mod' (e * w) W
    have hmod := Nat.mod_lt (e * w) hW
    simp only [List.map_cons, List.sum_cons, List.length_cons]
    generalize e * w / W = q at hdiv ⊢
    generalize e * w % W = r at hdiv hmod
    generalize (ws.map fun w => e * w / W).sum = S at hle hlt ⊢
    constructor <;> linarith [Nat.mul_add e w ws.sum]

/-- The quotients of a whole do not exceed it, and miss it by less than their number. -/
theorem quotients_whole (e : Nat) {ws : List Nat} (hW : 0 < ws.sum) :
    (ws.map fun w => e * w / ws.sum).sum ≤ e ∧ e < (ws.map fun w => e * w / ws.sum).sum + ws.length := by
  obtain ⟨hle, hlt⟩ := quotients_sum hW e ws
  have hpos : 0 < ws.length := List.length_pos_iff.2 (by rintro rfl; simp at hW)
  exact ⟨Nat.le_of_mul_le_mul_right hle hW, Nat.lt_of_mul_lt_mul_right (a := ws.sum) (by omega)⟩

/-! ## Share filling (R37, R38) -/

/-- The members that take their capacities take no more than the demand together. -/
theorem walk_full_le {e : Nat} {ms full rest : List Member} (h : WalkStops e ms full rest) :
    (full.map (·.c)).sum ≤ e := by
  obtain ⟨hperm, -, hfull, -⟩ := h
  have hW : (ms.map (·.w)).sum = (full.map (·.w)).sum + (rest.map (·.w)).sum := by
    rw [← (hperm.map (·.w)).sum_eq, List.map_append, List.sum_append]
  have hgo : ∀ todo done : List Member, full = done ++ todo → (done.map (·.c)).sum ≤ e → (full.map (·.c)).sum ≤ e := by
    intro todo
    induction todo with
    | nil =>
      rintro done rfl h
      simpa using h
    | cons m left ih =>
      intro done heq h
      refine ih (done ++ [m]) (by simp [heq]) ?_
      have hpart := hfull done m left heq
      have hle : rulePart e ms done m ≤ e - (done.map (·.c)).sum := by
        refine Nat.div_le_of_le_mul ?_
        rw [Nat.mul_comm]
        refine Nat.mul_le_mul_right _ ?_
        rw [hW, heq]
        simp only [List.map_append, List.map_cons, List.sum_append, List.sum_cons]
        omega
      simp only [List.map_append, List.map_cons, List.map_nil, List.sum_append, List.sum_cons, List.sum_nil]
      omega
  exact hgo full [] rfl (by simp)

/-- From the stopping point on every part is within the member's capacity. -/
theorem walk_rest_le {e : Nat} {ms full rest : List Member} (h : WalkStops e ms full rest) (hw : ∀ m ∈ ms, 0 < m.w)
    {x : Member} (hx : x ∈ rest) : rulePart e ms full x ≤ x.c := by
  obtain ⟨hperm, hsorted, -, m, left, rfl, hstop⟩ := h
  have hmem {y : Member} (hy : y ∈ m :: left) : 0 < y.w := hw y (hperm.mem_iff.1 (List.mem_append_right _ hy))
  have hW : (ms.map (·.w)).sum - (full.map (·.w)).sum = ((m :: left).map (·.w)).sum := by
    rw [← (hperm.map (·.w)).sum_eq, List.map_append, List.sum_append]
    omega
  obtain rfl | hx' := List.mem_cons.1 hx
  · exact hstop.le
  · have hfirst : VisitedFirst m x := List.rel_of_pairwise_cons (List.pairwise_append.1 hsorted).2.1 hx'
    have horder : m.c * x.w ≤ x.c * m.w := hfirst.elim Nat.le_of_lt fun h => h.1.le
    have hm := hmem (List.mem_cons_self)
    have hpos : 0 < ((m :: left).map (·.w)).sum := by
      simp only [List.map_cons, List.sum_cons]
      omega
    unfold rulePart at hstop ⊢
    rw [hW] at hstop ⊢
    generalize e - (full.map (·.c)).sum = E at hstop ⊢
    generalize ((m :: left).map (·.w)).sum = W at hstop hpos ⊢
    have hlt : E * m.w < m.c * W := (Nat.div_lt_iff_lt_mul hpos).1 hstop
    refine Nat.div_le_of_le_mul ?_
    refine Nat.le_of_mul_le_mul_right (c := m.w) ?_ hm
    calc E * x.w * m.w = E * m.w * x.w := Nat.mul_right_comm _ _ _
      _ ≤ m.c * W * x.w := Nat.mul_le_mul_right _ hlt.le
      _ = m.c * x.w * W := Nat.mul_right_comm _ _ _
      _ ≤ x.c * m.w * W := Nat.mul_le_mul_right _ horder
      _ = W * x.c * m.w := by ring

/-- What the walk gives adds up to the demand, but for less than 1 kW a member. -/
theorem walk_sum {e : Nat} {ms full rest : List Member} (h : WalkStops e ms full rest) (hw : ∀ m ∈ ms, 0 < m.w) :
    (full.map (·.c)).sum + (rest.map (rulePart e ms full)).sum ≤ e ∧
      e < (full.map (·.c)).sum + (rest.map (rulePart e ms full)).sum + ms.length := by
  have hle := walk_full_le h
  obtain ⟨hperm, -, -, m, left, rfl, -⟩ := h
  have hm : 0 < m.w := hw m (hperm.mem_iff.1 (by simp))
  have hW : (ms.map (·.w)).sum - (full.map (·.w)).sum = ((m :: left).map (·.w)).sum := by
    rw [← (hperm.map (·.w)).sum_eq, List.map_append, List.sum_append]
    omega
  have hparts : (m :: left).map (rulePart e ms full) = ((m :: left).map (·.w)).map fun w =>
      (e - (full.map (·.c)).sum) * w / ((m :: left).map (·.w)).sum := by
    rw [List.map_map]
    exact List.map_congr_left fun x _ => by
      rw [rulePart, hW]
      rfl
  have hpos : 0 < ((m :: left).map (·.w)).sum := by
    simp only [List.map_cons, List.sum_cons]
    omega
  obtain ⟨hsum, hmiss⟩ := quotients_whole (e - (full.map (·.c)).sum) hpos
  have hlen : (m :: left).length ≤ ms.length := by
    rw [← hperm.length_eq, List.length_append]
    omega
  rw [← hparts] at hsum hmiss
  rw [List.length_map] at hmiss
  omega

/-- The properties of share filling (R37, R38). -/
theorem takes_within {e : Nat} {ms : List Member} (hreal : ∀ m ∈ ms, realMember m = true) :
    ((takes e ms).map (·.2)).sum ≤ e ∧ (takes e ms).length = ms.length ∧
      (∀ x ∈ takes e ms, ∃ m ∈ ms, m.number = x.1 ∧ x.2 ≤ m.c) ∧
      (sumC ms ≤ e → ((takes e ms).map (·.2)).sum = sumC ms) ∧
      (e < sumC ms → e < ((takes e ms).map (·.2)).sum + ms.length) := by
  obtain ⟨hall, hwalk⟩ := takes_eq (e := e) hreal
  by_cases he : sumC ms ≤ e
  · have hsum : ((takes e ms).map (·.2)).sum = sumC ms := by
      rw [hall he, List.map_map]
      rfl
    refine ⟨hsum.trans_le he, by rw [hall he, List.length_map], fun x hx => ?_, fun _ => hsum,
      fun h => absurd he (Nat.not_le.2 h)⟩
    rw [hall he] at hx
    obtain ⟨m, hm, rfl⟩ := List.mem_map.1 hx
    exact ⟨m, hm, rfl, le_rfl⟩
  · obtain ⟨full, rest, hstops, htakes⟩ := hwalk (Nat.lt_of_not_le he)
    have hw : ∀ m ∈ ms, 0 < m.w := fun m hm => realMember_w (hreal m hm)
    obtain ⟨hle, hmiss⟩ := walk_sum hstops hw
    have hperm : (full ++ rest).Perm ms := by
      obtain ⟨hperm, -⟩ := hstops
      exact hperm
    have hsum : ((takes e ms).map (·.2)).sum = (full.map (·.c)).sum + (rest.map (rulePart e ms full)).sum := by
      rw [htakes, List.map_append, List.sum_append, List.map_map, List.map_map]
      rfl
    refine ⟨hsum.trans_le hle, ?_, fun x hx => ?_, fun h => absurd h he, fun _ => hsum ▸ hmiss⟩
    · rw [htakes, ← hperm.length_eq]
      simp
    · rw [htakes, List.mem_append, List.mem_map, List.mem_map] at hx
      obtain ⟨m, hm, rfl⟩ | ⟨m, hm, rfl⟩ := hx
      · exact ⟨m, hperm.mem_iff.1 (List.mem_append_left _ hm), rfl, le_rfl⟩
      · exact ⟨m, hperm.mem_iff.1 (List.mem_append_right _ hm), rfl, walk_rest_le hstops hw hm⟩

/-! ## Every recompute (R28, R46) -/

theorem finishPullOff_pullOff (s : State) : (finishPullOff s).cpc.pullOff = none := by
  rw [finishPullOff_cpc, released_eq]

/-- A recompute that completes no pull-off is one with its delivery alone. -/
theorem recompute_delivery {s : State} (h : s.cpc.pullOff = none ∨ (recompute s).cpc.pullOff.isSome = true) :
    recompute s = recomputeShare s := by
  obtain ⟨heq, -⟩ | ⟨hp, -, heq⟩ := recompute_cases s
  · exact heq
  · obtain h | h := h
    · simp [h] at hp
    · simp [heq, finishPullOff_pullOff] at h

/-- What a delivery leaves of a shaft, in the words of R46, R49 to R51 and R59 to R62. -/
theorem recomputeShare_delivers {s : State} (hm : s.svp.mode ≠ .configuring) {n : Nat} {r : Shaft} {c : ShaftCfg}
    (hr : getN s.sfc n = some r) (hc : getN s.cfg.shafts n = some c) :
    ∃ q, getN (recomputeShare s).sfc n = some q ∧
      q.p = (match r.dir with
        | .ahead => min r.p q.aAhead
        | .astern => min r.p q.aAstern
        | .neutral => r.p
        | .dwell => r.p) ∧
      DirectionSettled s.now s.svp.mode c r q ∧ q.commanded = curveRpm c q.p ∧ q.duty = governorDuty c q.commanded ∧
      ShaftLines n False r q s (recomputeShare s) ∧ (q.dir ≠ r.dir → SteeringInForce (recomputeShare s)) ∧
      q = { r with
        dir := q.dir, p := q.p, target := q.target, targetWay := q.targetWay, aAhead := q.aAhead
        aAstern := q.aAstern, dwellAt := q.dwellAt, commanded := q.commanded, duty := q.duty
        dutyWritten := q.dutyWritten, clutchWritten := q.clutchWritten } := by
  obtain ⟨q, t, -, hq, heq, hlines, hsteer⟩ := recomputeShare_shaft hm hr hc
  have hsettled := takeDelivery_settled s.now s.svp.mode c t (shareResult s).targetWay (shaftAvail s c r) r
  obtain ⟨-, -, hahead, hastern, hp, hrpm, hduty, hrest⟩ :=
    takeDelivery_eq s.now s.svp.mode c t (shareResult s).targetWay (shaftAvail s c r) r
  generalize takeDelivery s.now s.svp.mode c t (shareResult s).targetWay (shaftAvail s c r) r = d at *
  refine ⟨q, hq, ?_, ?_, ?_, ?_, hlines, hsteer, ?_⟩
  · rw [heq]
    exact hp.trans (by rw [← hahead, ← hastern] <;> rfl)
  · rw [heq]
    exact hsettled
  · rw [heq]
    exact hrpm
  · rw [heq]
    exact hduty
  · rw [heq, hrest]

/-- Settles O42: a recompute delivers shaft by shaft what the share computation gives, and share filling keeps to the demand. -/
theorem shareFillsWithinDemand : Obligations.ShareFillsWithinDemand := by
  refine ⟨fun s hm => ⟨recompute_recomputes.share hm, fun h => ?_⟩, fun t s _ hdue => ?_, fun e ms hreal => ?_⟩
  · rw [recompute_delivery h]
    obtain ⟨hcontributing, -, -, hphi⟩ := recomputeShare_told_shu s
    have htold := recomputeShare_told s
    exact ⟨recomputeShare_flags hm, fun n r c hr hc => recomputeShare_delivers hm hr hc, hcontributing, hphi, htold.cvu,
      recomputeShare_cpc s, htold.fau, recomputeShare_lif s⟩
  · have hexec : exec (.graceExpiry t) s =
        if due (max s.clock t / 1000) s.cvu.graceAt then .next (endGrace (setClock t s)) else .next (setClock t s) := rfl
    rw [hexec, if_pos hdue]
    rfl
  · obtain ⟨hall, hwalk⟩ := takes_eq (e := e) hreal
    exact ⟨hall, hwalk, takes_within hreal⟩

/-! ## The shaft split (R40) -/

/-- The room of the shafts not yet served. -/
def roomLeft (as ts served : List Nat) : Nat :=
  ((numbers as.length).map fun m => if m ∈ served then 0 else (getN as m).getD 0 - (getN ts m).getD 0).sum

theorem sum_modN (f : Nat → Nat) : ∀ (l : List Nat) (n : Nat) {x : Nat}, getN l n = some x →
    (modN l n f).sum + x = l.sum + f x
  | [], 0, _, h => by cases h
  | [], n + 1, _, h => by simp [getN] at h
  | a :: l, 0, _, h => by cases h
  | a :: l, 1, x, h => by
    obtain rfl : a = x := by simpa [getN] using h
    simp only [modN, changeAt, List.sum_cons]
    omega
  | a :: l, n + 2, x, h => by
    have ih := sum_modN f l (n + 1) (x := x) (by simpa [getN] using h)
    simp only [modN, changeAt, List.sum_cons] at ih ⊢
    omega

/-- The remainder is placed whole, as far as there is room. -/
theorem placeRemainder_sum (as : List Nat) : ∀ (fuel : Nat) (served : List Nat) (rem : Nat) (ts : List Nat),
    ts.length = as.length → unserved as.length served ≤ fuel →
    (placeRemainder as fuel served rem ts).sum = ts.sum + min rem (roomLeft as ts served) := by
  intro fuel
  induction fuel with
  | zero =>
    intro served rem ts hl hf
    have hroom : roomLeft as ts served = 0 := by
      refine List.sum_eq_zero fun y hy => ?_
      obtain ⟨m, hm, rfl⟩ := List.mem_map.1 hy
      refine if_pos ?_
      by_contra hn
      have := unserved_take hm hn
      omega
    simp [placeRemainder, hroom]
  | succ fuel ih =>
    intro served rem ts hl hf
    obtain ⟨hnone, hsome⟩ := largest_next served as 1 none (by simp)
    unfold placeRemainder
    cases hk : largest served 1 none as with
    | none =>
      have hroom : roomLeft as ts served = 0 := by
        refine List.sum_eq_zero fun y hy => ?_
        obtain ⟨m, hm, rfl⟩ := List.mem_map.1 hy
        obtain ⟨h1, h2⟩ := mem_numbers.1 hm
        obtain ⟨-, hserved⟩ := hnone hk
        have hin := hserved (m - 1) (by omega)
        rw [show 1 + (m - 1) = m by omega] at hin
        exact if_pos hin
      simp [hroom]
    | some p =>
      obtain ⟨k, ak⟩ := p
      obtain ⟨hfrom, -, -⟩ := hsome k ak hk
      obtain ⟨i, hi, rfl, hks⟩ := hfrom.resolve_left (by simp)
      have hak : getN as (1 + i) = some ak := by
        rw [Nat.add_comm]
        exact hi
      have hkm := mem_numbers.2 (getN_lt hak)
      obtain ⟨tk, htk⟩ := getN_of_le (l := ts) (getN_lt hak).1 (hl ▸ (getN_lt hak).2)
      have hsplit : roomLeft as ts served =
          (ak - tk) + roomLeft as (modN ts (1 + i) (· + min rem (ak - tk))) ((1 + i) :: served) := by
        rw [roomLeft, sum_map_take (numbers_nodup _) hkm]
        refine congrArg₂ (· + ·) ?_ (congrArg List.sum (List.map_congr_left fun m _ => ?_))
        · simp [hak, htk, hks]
        · by_cases hm : m = 1 + i
          · simp [hm]
          · simp [hm, getN_modN_ne (Ne.symm hm)]
      have hsum := sum_modN (· + min rem (ak - tk)) ts (1 + i) htk
      simp only [htk, Option.getD_some]
      rw [ih _ _ _ (by simpa using hl) (by have := unserved_take hkm hks; omega), hsplit]
      omega

/-- Taken number by number, a list is the list. -/
theorem map_numbers (f : Nat → Nat) (l : List Nat) :
    ((numbers l.length).map fun m => f ((getN l m).getD 0)) = l.map f := by
  refine List.ext_getElem (by simp [numbers]) fun i h1 h2 => ?_
  have hi : i < l.length := by simpa using h2
  simp [numbers, getN, hi]

theorem base_le {b : Nat} {as : List Nat} (hb : b ≤ as.sum) (a : Nat) : b * a / as.sum ≤ a := by
  refine Nat.div_le_of_le_mul ?_
  exact Nat.mul_le_mul_right _ hb

theorem sum_rooms {b : Nat} {as : List Nat} (hb : b ≤ as.sum) :
    roomLeft as (baseTargets b as.sum as) [] + (baseTargets b as.sum as).sum = as.sum := by
  have hroom : roomLeft as (baseTargets b as.sum as) [] = (as.map fun a => a - b * a / as.sum).sum := by
    rw [← map_numbers]
    refine congrArg List.sum (List.map_congr_left fun m hm => ?_)
    obtain ⟨a, ha⟩ := Option.isSome_iff_exists.1 (getN_isSome hm)
    have hbase : getN (baseTargets b as.sum as) m = some (b * a / as.sum) := by
      rw [baseTargets, getN_map, ha]
      rfl
    simp [ha, hbase]
  rw [hroom, baseTargets, ← List.sum_map_add]
  refine congrArg List.sum ?_
  conv_rhs => rw [← List.map_id as]
  exact List.map_congr_left fun a _ => by
    have := base_le hb a
    simp only [id_eq]
    omega

theorem base_sum_le (b : Nat) (as : List Nat) : (as.map fun a => b * a / as.sum).sum ≤ b := by
  obtain h | h := Nat.eq_zero_or_pos as.sum
  · simp [h]
  · exact (quotients_whole b h).1

/-- The targets add up to the biased share. -/
theorem splitShare_sum {b : Nat} {as : List Nat} (hb : b ≤ as.sum) : (splitShare b as.sum as).sum = b := by
  have hfuel : unserved as.length [] ≤ as.length := by
    refine (List.sum_le_card_nsmul _ 1 ?_).trans (by simp [numbers])
    simp
  have hrooms := sum_rooms hb
  have hbase : (baseTargets b as.sum as).sum ≤ b := base_sum_le b as
  rw [splitShare, placeRemainder_sum as as.length [] _ _ (by simp [baseTargets]) hfuel]
  omega

/-- What the shafts served before a shaft take of the remainder. -/
def earlierRoom (b : Nat) (as : List Nat) (n a : Nat) : Nat :=
  ((numbers as.length).map fun m =>
    let x := (getN as m).getD 0
    if a < x ∨ (x = a ∧ m < n) then x - b * x / as.sum else 0).sum

theorem ruleTarget_eq (b : Nat) (as : List Nat) (n a : Nat) : ruleTarget b as n a = b * a / as.sum +
    min (a - b * a / as.sum) (b - (as.map fun x => b * x / as.sum).sum - earlierRoom b as n a) := rfl

theorem earlierRoom_first {b : Nat} {as : List Nat} {k a : Nat}
    (h : ∀ m x, getN as m = some x → x < a ∨ (x = a ∧ k ≤ m)) : earlierRoom b as k a = 0 := by
  refine List.sum_eq_zero fun y hy => ?_
  obtain ⟨m, hm, rfl⟩ := List.mem_map.1 hy
  obtain ⟨x, hx⟩ := Option.isSome_iff_exists.1 (getN_isSome hm)
  have := h m x hx
  simp only [hx, Option.getD_some]
  exact if_neg (by omega)

theorem earlierRoom_after {b : Nat} {as : List Nat} {k a m x : Nat} (hk : getN as k = some a)
    (h : x < a ∨ (x = a ∧ k < m)) : a - b * a / as.sum ≤ earlierRoom b as m x := by
  rw [earlierRoom, sum_map_take (numbers_nodup _) (mem_numbers.2 (getN_lt hk))]
  simp only [hk, Option.getD_some]
  rw [if_pos (h.imp_right fun h => ⟨h.1.symm, h.2⟩)]
  exact Nat.le_add_right _ _

/-- Settles O43: the targets are R40's, add up to the share, and the first shaft served has what fits it. -/
theorem splitKeepsShare : Obligations.SplitKeepsShare := by
  refine fun b as => ⟨splitShare_length b _ as, fun n a h => splitShare_get h, fun hb => ⟨splitShare_sum hb, fun n a h => ?_,
    fun k a hk hfirst => ?_⟩⟩
  · refine ⟨_, splitShare_get h, ?_, ?_⟩
    · rw [ruleTarget_eq]
      exact Nat.le_add_right _ _
    · have := base_le hb a
      rw [ruleTarget_eq]
      omega
  · intro rest hfits
    refine ⟨?_, fun m x hm hx => ?_⟩
    · rw [splitShare_get hk, ruleTarget_eq, earlierRoom_first hfirst]
      refine congrArg some (congrArg (b * a / as.sum + ·) ?_)
      change min (a - b * a / as.sum) (rest - 0) = rest
      omega
    · have hafter := earlierRoom_after (b := b) hk (m := m) (x := x) (by
        have := hfirst m x hx
        omega)
      rw [splitShare_get hx, ruleTarget_eq]
      have hzero : b - (as.map fun x => b * x / as.sum).sum - earlierRoom b as m x = 0 := by
        change rest - earlierRoom b as m x = 0
        omega
      rw [hzero]
      simp

end Sys2Proof.Machine
end

section
/-!
SUPPORT. What recomputes and notices leave of every shaft record (R46, R49, R58): all that is the shaft controller's own, and a
shaft out of gear with its engine stopped as it stands, its lines untouched.
-/

namespace Sys2Proof.Machine

/-- A shaft out of gear whose engine does not turn. -/
def AtRest (x : Shaft) : Prop := (x.dir = .neutral ∨ x.dir = .dwell) ∧ engineTurns x.engine = false

/-- The outputs of a shaft stand as its record and curve give them, and are written. -/
def OutputsWritten (c : ShaftCfg) (x : Shaft) : Prop :=
  x.duty = governorDuty c (curveRpm c x.p) ∧ x.dutyWritten = some x.duty

/-- What deliveries leave of shaft `n`, `x` in `s` and `y` in `u`: the controller's own part of the record, and at rest its
direction state, P and dwell timer, with its lines where they stand as they should. -/
def ShaftFollows (n : Nat) (s u : State) (x y : Shaft) : Prop :=
  y = { x with
    dir := y.dir, p := y.p, target := y.target, targetWay := y.targetWay, aAhead := y.aAhead, aAstern := y.aAstern
    dwellAt := y.dwellAt, commanded := y.commanded, duty := y.duty, dutyWritten := y.dutyWritten
    clutchWritten := y.clutchWritten } ∧
  (AtRest x → y.dir = x.dir ∧ y.p = x.p ∧ y.dwellAt = x.dwellAt ∧
    ∀ c, getN s.cfg.shafts n = some c → OutputsWritten c x →
      y.duty = x.duty ∧ y.dutyWritten = x.dutyWritten ∧ y.clutchWritten = x.clutchWritten ∧
        ∀ a, ofShaft n a → LineKept a s u)

/-- From `s` to `u` every shaft has changed by deliveries alone. -/
def ShaftsFollow (s u : State) : Prop :=
  u.cfg = s.cfg ∧ ∀ n x, getN s.sfc n = some x → ∃ y, getN u.sfc n = some y ∧ ShaftFollows n s u x y

theorem ShaftFollows.rest {n : Nat} {s u : State} {x y : Shaft} (h : ShaftFollows n s u x y) (hr : AtRest x) : AtRest y := by
  obtain ⟨heq, hrest⟩ := h
  obtain ⟨hdir, -⟩ := hrest hr
  have hengine : y.engine = x.engine := by rw [heq]
  exact ⟨by rw [hdir]; exact hr.1, by rw [hengine]; exact hr.2⟩

theorem ShaftFollows.trans {n : Nat} {s t u : State} {x y z : Shaft} (hc : t.cfg = s.cfg) (h : ShaftFollows n s t x y)
    (k : ShaftFollows n t u y z) : ShaftFollows n s u x z := by
  have hrests := h.rest
  obtain ⟨heq, hrest⟩ := h
  obtain ⟨keq, krest⟩ := k
  refine ⟨by rw [keq, heq], fun hr => ?_⟩
  obtain ⟨hdir, hp, hdwell, hout⟩ := hrest hr
  obtain ⟨kdir, kp, kdwell, kout⟩ := krest (hrests hr)
  refine ⟨kdir.trans hdir, kp.trans hp, kdwell.trans hdwell, fun c hcfg hw => ?_⟩
  obtain ⟨hduty, hwritten, hclutch, hlines⟩ := hout c hcfg hw
  have hw' : OutputsWritten c y := by
    obtain ⟨h1, h2⟩ := hw
    exact ⟨by rw [hduty, hp, h1], by rw [hwritten, hduty, h2]⟩
  obtain ⟨kduty, kwritten, kclutch, klines⟩ := kout c (hc ▸ hcfg) hw'
  exact ⟨kduty.trans hduty, kwritten.trans hwritten, kclutch.trans hclutch,
    fun a ha => (hlines a ha).trans hc (klines a ha)⟩

namespace ShaftsFollow

variable {s t u : State}

theorem trans (h : ShaftsFollow s t) (k : ShaftsFollow t u) : ShaftsFollow s u := by
  obtain ⟨hc, h⟩ := h
  obtain ⟨kc, k⟩ := k
  refine ⟨kc.trans hc, fun n x hx => ?_⟩
  obtain ⟨y, hy, hxy⟩ := h n x hx
  obtain ⟨z, hz, hyz⟩ := k n y hy
  exact ⟨z, hz, hxy.trans hc hyz⟩

/-- Other blocks, and lines of no shaft, have changed. -/
theorem same {P : Assignment → Prop} (hsfc : u.sfc = s.sfc) (hlines : OnlyLines P s u) (hP : ∀ n a, ofShaft n a → ¬P a) :
    ShaftsFollow s u := by
  obtain ⟨hc, hlines⟩ := hlines
  refine ⟨hc, fun n x hx => ⟨x, by rw [hsfc, hx], rfl, fun _ => ⟨rfl, rfl, rfl, fun _ _ _ => ⟨rfl, rfl, rfl, ?_⟩⟩⟩⟩
  exact fun a ha => hlines a (hP n a ha)

theorem quiet (hsfc : u.sfc = s.sfc) (hc : u.cfg = s.cfg) (hd : u.dlu = s.dlu) : ShaftsFollow s u :=
  .same (P := fun _ => False) hsfc (.same hc hd) fun _ _ _ => id

theorem refl (s : State) : ShaftsFollow s s := .quiet rfl rfl rfl

/-- A shaft keeps its engine, its class and its rpm figure. -/
theorem controller (h : ShaftsFollow s u) {n : Nat} {x : Shaft} (hx : getN s.sfc n = some x) :
    ∃ y, getN u.sfc n = some y ∧ y.engine = x.engine ∧ y.lastRpm = x.lastRpm ∧ y.deviation = x.deviation := by
  obtain ⟨-, h⟩ := h
  obtain ⟨y, hy, heq, -⟩ := h n x hx
  exact ⟨y, hy, by rw [heq], by rw [heq], by rw [heq]⟩

end ShaftsFollow

/-- A delivery leaves a shaft at rest out of gear, at its P. -/
theorem takeDelivery_atRest (now : Nat) (m : Mode) (c : ShaftCfg) (t : Nat) (w : Option Way) (a : Nat × Nat) {r : Shaft}
    (hr : AtRest r) : (takeDelivery now m c t w a r).dir = r.dir ∧ (takeDelivery now m c t w a r).p = r.p ∧
      (takeDelivery now m c t w a r).dwellAt = r.dwellAt := by
  obtain ⟨hdir, hengine⟩ := hr
  obtain ⟨-, -, -, -, hp, -, -, heq⟩ := takeDelivery_eq now m c t w a r
  obtain ⟨-, -, -, hkeep⟩ := takeDelivery_settled now m c t w a r
  have hturns : ¬((takeDelivery now m c t w a r).engine = .running ∨ (takeDelivery now m c t w a r).engine = .limited) := by
    rw [← engineTurns_iff, heq]
    exact Bool.eq_false_iff.1 hengine
  obtain ⟨h1, h2⟩ := hkeep (.inl fun h => hturns h.2.2.1) fun h => by
    obtain ⟨-, -, h⟩ := h
    obtain hd | hd := hdir <;> simp [hd] at h
  exact ⟨h1, by obtain hd | hd := hdir <;> rw [hp, hd], h2⟩

theorem deliverTo_shafts (res : ShareResult) (av : List (Nat × Nat)) (s : State) (m : Nat) :
    ShaftsFollow s (deliverTo res av s m) := by
  obtain ⟨r, c, t, a, hr, hc, ht, ha, -⟩ | heq := deliverTo_cases res av s m
  · obtain ⟨q, hq, hqe, hlines⟩ := deliverTo_shaft hr hc ht ha
    obtain ⟨hcfg, honly⟩ := deliverTo_only res av s m
    refine ⟨hcfg, fun n x hx => ?_⟩
    by_cases hn : n = m
    · subst hn
      obtain rfl := Option.some.inj (hr.symm.trans hx)
      obtain ⟨-, -, -, -, hp, hrpm, hduty, hrec⟩ := takeDelivery_eq s.now s.svp.mode c t res.targetWay a r
      refine ⟨q, hq, by rw [hqe, hrec], fun hrest => ?_⟩
      obtain ⟨hdir, hpq, hdwell⟩ := takeDelivery_atRest s.now s.svp.mode c t res.targetWay a hrest
      have hdirQ : q.dir = r.dir := by rw [hqe]; exact hdir
      refine ⟨hdirQ, by rw [hqe]; exact hpq, by rw [hqe]; exact hdwell, fun c' hc' hw => ?_⟩
      obtain rfl := Option.some.inj (hc.symm.trans hc')
      obtain ⟨hdutyR, hwritten⟩ := hw
      have hdutyQ : q.duty = r.duty := by
        rw [hqe]
        exact hduty.trans (by rw [hrpm, hpq, ← hdutyR])
      obtain ⟨-, hoff, hdw, -, hgoff⟩ := hlines
      obtain ⟨hcw, hahead, hastern⟩ := hoff hdirQ id
      refine ⟨hdutyQ, by rw [hdw, hwritten, hdutyQ], hcw, fun b hb => ?_⟩
      obtain rfl | rfl | rfl := hb
      · exact hgoff (by rw [hwritten, hdutyQ])
      · exact hahead
      · exact hastern
    · obtain ⟨hother, -⟩ := deliverTo_rest res av s m
      refine ⟨x, by rw [hother n hn, hx], rfl, fun _ => ⟨rfl, rfl, rfl, fun _ _ _ => ⟨rfl, rfl, rfl, fun b hb => ?_⟩⟩⟩
      exact honly b fun hm => hn (ofShaft_unique hm hb)
  · rw [heq]
    exact .refl s

theorem recomputeShare_shafts (s : State) : ShaftsFollow s (recomputeShare s) := by
  by_cases hm : s.svp.mode = .configuring
  · rw [recomputeShare_configuring hm]
    exact .refl s
  · have hkept : ShaftsFollow s (shareKept s) := .quiet (by rw [shareKept_eq]) (by rw [shareKept_eq]) (by rw [shareKept_eq])
    have hall : ShaftsFollow (shareKept s) (deliverAll (shareResult s) (availabilities s) (shareKept s)) :=
      foldl_keeps (R := ShaftsFollow) ShaftsFollow.refl ShaftsFollow.trans (deliverTo_shafts _ _) _ _
    have hdirs : ShaftsFollow (deliverAll (shareResult s) (availabilities s) (shareKept s)) (recomputeShare s) := by
      rw [recomputeShare_eq hm]
      exact .quiet (by rw [noticeDirs_eq]) (by rw [noticeDirs_eq]) (by rw [noticeDirs_eq])
    exact (hkept.trans hall).trans hdirs

theorem placeAlert_shafts (s : State) : ShaftsFollow s (placeAlert s) :=
  .quiet (by rw [placeAlert_eq]) (by rw [placeAlert_eq]) (by rw [placeAlert_eq])

theorem stcNotice_shafts (s : State) : ShaftsFollow s (stcNotice s) := .quiet rfl rfl rfl

section
variable {rc : State → State} (hrc : ∀ s, ShaftsFollow s (rc s)) {s : State}
include hrc

theorem shuNoticeWith_shafts (force : Bool) : ShaftsFollow s (shuNoticeWith rc force s) :=
  shuNoticeWith_cases (ShaftsFollow s) (fun _ _ => .refl s) (fun _ _ => hrc s) fun _ =>
    (((ShaftsFollow.quiet rfl rfl rfl : ShaftsFollow s (withContributing s)).trans (hrc _)).trans
      (stcNotice_shafts _)).trans (placeAlert_shafts _)

theorem settleWith_shafts (parted : Bool) : ShaftsFollow s (settleWith rc parted s) :=
  settleWith_of_notice (ShaftsFollow s) parted
    ((ShaftsFollow.quiet rfl rfl rfl : ShaftsFollow s (withCoupling s)).trans (shuNoticeWith_shafts hrc _))
    fun v hv => hv.trans (placeAlert_shafts v)

end

theorem ofShaft_not_ofWinch {n : Nat} {a : Assignment} (h : ofShaft n a) : ¬∃ m, ofWinch m a := by
  rintro ⟨m, hm⟩
  obtain rfl | rfl | rfl := h <;> obtain h | h := hm <;> cases h

theorem releaseOne_lines (s : State) (n : Nat) : OnlyLines (fun a => ∃ m, ofWinch m a) s (releaseOne s n) := by
  unfold releaseOne
  split
  · exact (changeWinch_only n _ s).mono fun a ha => ⟨n, ha⟩
  · exact .refl s

theorem released_shafts (s : State) : ShaftsFollow s (released s) := by
  have hpush : OnlyLines (fun a => ∃ m, ofWinch m a) s (pushMakeUp s) := .same (by rw [pushMakeUp_eq]) (by rw [pushMakeUp_eq])
  have hall : OnlyLines (fun a => ∃ m, ofWinch m a) (pushMakeUp s)
      ((numbers s.cpc.winches.length).foldl releaseOne (pushMakeUp s)) := .fold releaseOne_lines _ _
  have hlast : OnlyLines (fun a => ∃ m, ofWinch m a) ((numbers s.cpc.winches.length).foldl releaseOne (pushMakeUp s))
      (released s) := .same rfl rfl
  exact .same (by rw [released_eq]) ((hpush.trans hall).trans hlast) fun _ _ => ofShaft_not_ofWinch

theorem finishPullOff_shafts (s : State) : ShaftsFollow s (finishPullOff s) :=
  (released_shafts s).trans (settleWith_shafts (s := released s) recomputeShare_shafts false)

theorem completePullOff_shafts (s : State) : ShaftsFollow s (completePullOff s) := by
  unfold completePullOff
  split
  · exact finishPullOff_shafts s
  · exact .refl s

theorem noticePs_shafts (ps : List Nat) (s : State) : ShaftsFollow s (noticePs ps s) := by
  unfold noticePs
  split
  · exact .refl s
  · exact completePullOff_shafts s

theorem noticeDirs_shafts (ds : List Dir) (s : State) : ShaftsFollow s (noticeDirs ds s) :=
  .quiet (by rw [noticeDirs_eq]) (by rw [noticeDirs_eq]) (by rw [noticeDirs_eq])

theorem handOn_shafts (ds : List Dir) (ps : List Nat) (s : State) : ShaftsFollow s (handOn ds ps s) :=
  (noticeDirs_shafts ds s).trans (noticePs_shafts ps _)

theorem recompute_shafts (s : State) : ShaftsFollow s (recompute s) :=
  recompute_induct (ShaftsFollow s) (recomputeShare_shafts s) fun _ _ =>
    (recomputeShare_shafts s).trans (finishPullOff_shafts _)

theorem raiseFlag_shafts (f : Flag) (s : State) : ShaftsFollow s (raiseFlag f s) := .quiet rfl rfl rfl

theorem estimateNotice_eq (n : Nat) (s : State) : estimateNotice n s = { s with
    svp := { s.svp with flags := (estimateNotice n s).svp.flags }, fau := (estimateNotice n s).fau } := by
  unfold estimateNotice
  dsimp only
  split <;> rfl

theorem estimateNotice_shafts (n : Nat) (s : State) : ShaftsFollow s (estimateNotice n s) :=
  .quiet (by rw [estimateNotice_eq]) (by rw [estimateNotice_eq]) (by rw [estimateNotice_eq])

theorem noticeEngine_shafts (n : Nat) (s : State) : ShaftsFollow s (noticeEngine n s) :=
  (recompute_shafts s).trans (estimateNotice_shafts n _)

/-- What the lines of a shaft at rest show, they show after deliveries too. -/
theorem ShaftFollows.lines {n : Nat} {s a u : State} {r x y : Shaft} {first : Prop} {c : ShaftCfg}
    (h : ShaftLines n first r x s a) (ha : a.cfg = s.cfg) (k : ShaftFollows n a u x y) (hr : AtRest x)
    (hc : getN s.cfg.shafts n = some c) (hduty : x.duty = governorDuty c (curveRpm c x.p)) :
    ShaftLines n first r y s u := by
  obtain ⟨hon, hoff, hwritten, hgon, hgoff⟩ := h
  obtain ⟨-, hrest⟩ := k
  obtain ⟨hdir, -, -, hout⟩ := hrest hr
  obtain ⟨kduty, kwritten, kclutch, klines⟩ := hout c (ha ▸ hc) ⟨hduty, hwritten⟩
  rw [ShaftLines, hdir, kduty, kwritten, kclutch]
  refine ⟨fun h => ?_, fun h hf => ?_, hwritten, fun h => (hgon h).kept ha (klines _ (.inl rfl)),
    fun h => (hgoff h).trans ha (klines _ (.inl rfl))⟩
  · obtain ⟨hcw, hahead, hastern⟩ := hon h
    exact ⟨hcw, hahead.kept ha (klines _ (.inr (.inl rfl))), hastern.kept ha (klines _ (.inr (.inr rfl)))⟩
  · obtain ⟨hcw, hahead, hastern⟩ := hoff h hf
    exact ⟨hcw, hahead.trans ha (klines _ (.inr (.inl rfl))), hastern.trans ha (klines _ (.inr (.inr rfl)))⟩

end Sys2Proof.Machine
end

section
/-!
PROOFS. The shaft controllers (chapter 3): dwell, deviation and the engine state (O45).
-/

namespace Sys2Proof.Machine

/-! ## A shaft changed by its controller (R60 to R62) -/

theorem noticePs_same {ps : List Nat} {s : State} (h : shaftPs s = ps) : noticePs ps s = s := if_pos h

theorem noticeDirs_steering {ds : List Dir} {s : State} (h : shaftDirs s ≠ ds) : SteeringInForce (noticeDirs ds s) := by
  rw [noticeDirs_changed h]
  exact stcNotice_inForce s

theorem shaftDirs_ne {s u : State} {n : Nat} {r q : Shaft} (hr : getN s.sfc n = some r) (hq : getN u.sfc n = some q)
    (h : q.dir ≠ r.dir) : shaftDirs u ≠ shaftDirs s := by
  intro heq
  have hn := congrArg (fun l => getN l n) heq
  simp only [shaftDirs, getN_map, hq, hr, Option.map_some, Option.some.injEq] at hn
  exact h hn

theorem shaftPs_eq {s u : State} {n : Nat} {r q : Shaft} (hr : getN s.sfc n = some r) (hq : getN u.sfc n = some q)
    (hp : q.p = r.p) (hother : ∀ m, m ≠ n → getN u.sfc m = getN s.sfc m) : shaftPs u = shaftPs s := by
  refine map_eq_of_getN fun m => ?_
  by_cases hm : m = n
  · subst hm
    simp [hr, hq, hp]
  · rw [hother m hm]

/-- The state after a controller's own change of shaft `n` and its outputs. -/
def shaftSet (n : Nat) (f : Shaft → Shaft) (old : Dir) (force : Bool) (s : State) : State :=
  shaftOutputs n old force (modShaft n f s)

theorem shaftSet_lines {n : Nat} {s : State} {r : Shaft} (f : Shaft → Shaft) (force : Bool) (hr : getN s.sfc n = some r)
    (hd : (f r).dutyWritten = r.dutyWritten) (hw : (f r).clutchWritten = r.clutchWritten) :
    ∃ q, getN (shaftSet n f r.dir force s).sfc n = some q ∧
      q = { f r with dutyWritten := some (f r).duty, clutchWritten := q.clutchWritten } ∧
      (∀ m, m ≠ n → getN (shaftSet n f r.dir force s).sfc m = getN s.sfc m) ∧
      ShaftLines n (force = true) r q s (shaftSet n f r.dir force s) ∧
      shaftSet n f r.dir force s = { s with
        sfc := (shaftSet n f r.dir force s).sfc, dlu := (shaftSet n f r.dir force s).dlu } :=
  shaftOutputs_lines f force hr hd hw

theorem actShaft_eq {n : Nat} {s : State} {r : Shaft} (f : Shaft → Shaft) (hr : getN s.sfc n = some r) :
    actShaft n f s = handOn (shaftDirs s) (shaftPs s) (shaftSet n f r.dir false s) := by
  simp only [actShaft, hr]
  rfl

/-- A change of a shaft after which no pull-off completes: the record, the lines and the notice to the steering. -/
theorem shaftSet_noticed {n : Nat} {s : State} {r : Shaft} (f : Shaft → Shaft) (force : Bool) (hr : getN s.sfc n = some r)
    (hd : (f r).dutyWritten = r.dutyWritten) (hw : (f r).clutchWritten = r.clutchWritten) {u : State}
    (hset : u = noticeDirs (shaftDirs s) (shaftSet n f r.dir force s)) :
    ∃ q, getN u.sfc n = some q ∧ q = { f r with dutyWritten := some (f r).duty, clutchWritten := q.clutchWritten } ∧
      (∀ m, m ≠ n → getN u.sfc m = getN s.sfc m) ∧ ShaftLines n (force = true) r q s u ∧
      (q.dir ≠ r.dir → SteeringInForce u) ∧
      u = { s with sfc := u.sfc, dlu := u.dlu, stc := u.stc } := by
  obtain ⟨q, hq, hqe, hother, hlines, hframe⟩ := shaftSet_lines f force hr hd hw
  have hsfc : u.sfc = (shaftSet n f r.dir force s).sfc := by rw [hset, noticeDirs_eq]
  refine ⟨q, by rw [hsfc]; exact hq, hqe, fun m hm => by rw [hsfc]; exact hother m hm, ?_, fun h => ?_, ?_⟩
  · have hafter : OnlyLines (fun _ => False) (shaftSet n f r.dir force s) u :=
      .same (by rw [hset, noticeDirs_eq]) (by rw [hset, noticeDirs_eq])
    exact hlines.between (P := fun _ => False) (fun _ _ => id) (.refl s) hafter (by rw [hframe])
  · rw [hset]
    exact noticeDirs_steering (shaftDirs_ne hr hq h)
  · have hrest : u = { shaftSet n f r.dir force s with stc := u.stc } := by
      rw [hset]
      exact noticeDirs_eq _ _
    rw [hrest, hframe]

/-- A change of a shaft that keeps its P, or made with no pull-off in progress. -/
theorem shaftSet_handedOn {n : Nat} {s : State} {r : Shaft} (f : Shaft → Shaft) (force : Bool) (hr : getN s.sfc n = some r)
    (hd : (f r).dutyWritten = r.dutyWritten) (hw : (f r).clutchWritten = r.clutchWritten)
    (hquiet : (f r).p = r.p ∨ s.cpc.pullOff = none) {u : State}
    (hu : u = handOn (shaftDirs s) (shaftPs s) (shaftSet n f r.dir force s)) :
    ∃ q, getN u.sfc n = some q ∧ q = { f r with dutyWritten := some (f r).duty, clutchWritten := q.clutchWritten } ∧
      (∀ m, m ≠ n → getN u.sfc m = getN s.sfc m) ∧ ShaftLines n (force = true) r q s u ∧
      (q.dir ≠ r.dir → SteeringInForce u) ∧
      u = { s with sfc := u.sfc, dlu := u.dlu, stc := u.stc } := by
  obtain ⟨q, hq, hqe, hother, -, hframe⟩ := shaftSet_lines f force hr hd hw
  refine shaftSet_noticed f force hr hd hw ?_
  rw [hu, handOn]
  obtain hp | hp := hquiet
  · refine noticePs_same ?_
    have hps : shaftPs (shaftSet n f r.dir force s) = shaftPs s := shaftPs_eq hr hq (by rw [hqe]; exact hp) hother
    rw [noticeDirs_eq]
    exact hps
  · have hpull : (noticeDirs (shaftDirs s) (shaftSet n f r.dir force s)).cpc.pullOff = none := by
      have hcpc : (shaftSet n f r.dir force s).cpc = s.cpc := by rw [hframe]
      rw [noticeDirs_eq]
      exact (congrArg Cpc.pullOff hcpc).trans hp
    unfold noticePs completePullOff
    rw [hpull]
    split <;> rfl

/-! ## The engine stops (R53, R55) -/

/-- P 0 stands at the idle duty (R59, R60). -/
theorem governorDuty_zero (c : ShaftCfg) : governorDuty c (curveRpm c 0) = c.dutyIdle := by
  have hrpm : curveRpm c 0 = c.curve.getD 0 0 := by simp [curveRpm]
  simp [hrpm, governorDuty]

/-- What a halt makes of a shaft record. -/
theorem haltEngine_cases (now : Nat) (c : ShaftCfg) (e : Engine) (r : Shaft) :
    ((r.dir = .ahead ∨ r.dir = .astern) ∧ haltEngine now c e r = { r with
      engine := e, deviation := none, deviationAt := none, dir := .dwell, p := 0, dwellAt := some (now + c.dwell)
      commanded := curveRpm c 0, duty := governorDuty c (curveRpm c 0) }) ∨
    ((r.dir = .neutral ∨ r.dir = .dwell) ∧
      haltEngine now c e r = { r with engine := e, deviation := none, deviationAt := none }) := by
  unfold haltEngine disengage
  cases h : r.dir
  · exact .inr ⟨.inl rfl, rfl⟩
  · exact .inl ⟨.inl rfl, rfl⟩
  · exact .inl ⟨.inr rfl, rfl⟩
  · exact .inr ⟨.inr rfl, rfl⟩

/-- What stands of a shaft whose engine has been brought to a stop or to FUEL_OUT, `r` before in `s` and `q` in `u`. -/
structure Halted (n now : Nat) (c : ShaftCfg) (e : Engine) (r q : Shaft) (s u : State) : Prop where
  engine : q.engine = e
  deviation : q.deviation = none
  deviationAt : q.deviationAt = none
  lastRpm : q.lastRpm = r.lastRpm
  engaged : (r.dir = .ahead ∨ r.dir = .astern) → q.dir = .dwell ∧ q.p = 0 ∧ q.dwellAt = some (now + c.dwell) ∧
    q.duty = c.dutyIdle ∧ ShaftLines n False r q s u
  idle : (r.dir = .neutral ∨ r.dir = .dwell) → q.dir = r.dir ∧ q.p = r.p ∧ q.dwellAt = r.dwellAt

/-- A halted shaft stays so through what follows. -/
theorem Halted.follows {n now : Nat} {c : ShaftCfg} {e : Engine} {r x : Shaft} {s a u : State}
    (h : Halted n now c e r x s a) (he : engineTurns e = false) (hc : getN s.cfg.shafts n = some c) (hcfg : a.cfg = s.cfg)
    (hx : getN a.sfc n = some x) (k : ShaftsFollow a u) :
    ∃ q, getN u.sfc n = some q ∧ Halted n now c e r q s u := by
  obtain ⟨-, k⟩ := k
  obtain ⟨q, hq, hfollows⟩ := k n x hx
  have hrest : AtRest x := by
    refine ⟨?_, by rw [h.engine]; exact he⟩
    cases hd : r.dir with
    | neutral => exact .inl ((h.idle (.inl hd)).1.trans hd)
    | dwell => exact .inr ((h.idle (.inr hd)).1.trans hd)
    | ahead => exact .inr (h.engaged (.inl hd)).1
    | astern => exact .inr (h.engaged (.inr hd)).1
  have hlines := fun (hl : ShaftLines n False r x s a) (hd : x.duty = governorDuty c (curveRpm c x.p)) =>
    hfollows.lines hl hcfg hrest hc hd
  obtain ⟨heq, hkept⟩ := hfollows
  obtain ⟨hdir, hp, hdwell, hout⟩ := hkept hrest
  refine ⟨q, hq, ⟨by rw [heq]; exact h.engine, by rw [heq]; exact h.deviation, by rw [heq]; exact h.deviationAt,
    by rw [heq]; exact h.lastRpm, fun hr => ?_, fun hr => ?_⟩⟩
  · obtain ⟨xdir, xp, xdwell, xduty, xlines⟩ := h.engaged hr
    have hduty : x.duty = governorDuty c (curveRpm c x.p) := by rw [xp, governorDuty_zero, xduty]
    obtain ⟨-, -, hwritten, -⟩ := xlines
    obtain ⟨qduty, -⟩ := hout c (hcfg ▸ hc) ⟨hduty, hwritten⟩
    exact ⟨hdir.trans xdir, hp.trans xp, hdwell.trans xdwell, qduty.trans xduty, hlines (h.engaged hr).2.2.2.2 hduty⟩
  · obtain ⟨xdir, xp, xdwell⟩ := h.idle hr
    exact ⟨hdir.trans xdir, hp.trans xp, hdwell.trans xdwell⟩

/-- The controller's own part of a halt. -/
theorem shaftSet_halted {n : Nat} {s : State} {r : Shaft} {c : ShaftCfg} (e : Engine) (hr : getN s.sfc n = some r) :
    ∃ q, getN (shaftSet n (haltEngine s.now c e) r.dir false s).sfc n = some q ∧
      Halted n s.now c e r q s (shaftSet n (haltEngine s.now c e) r.dir false s) ∧
      shaftSet n (haltEngine s.now c e) r.dir false s = { s with
        sfc := (shaftSet n (haltEngine s.now c e) r.dir false s).sfc
        dlu := (shaftSet n (haltEngine s.now c e) r.dir false s).dlu } := by
  have hcases := haltEngine_cases s.now c e r
  have hd : (haltEngine s.now c e r).dutyWritten = r.dutyWritten := by obtain ⟨-, h⟩ | ⟨-, h⟩ := hcases <;> rw [h]
  have hw : (haltEngine s.now c e r).clutchWritten = r.clutchWritten := by obtain ⟨-, h⟩ | ⟨-, h⟩ := hcases <;> rw [h]
  obtain ⟨q, hq, hqe, -, hlines, hframe⟩ := shaftSet_lines (haltEngine s.now c e) false hr hd hw
  refine ⟨q, hq, ?_, hframe⟩
  obtain ⟨hdir, h⟩ | ⟨hdir, h⟩ := hcases
  · rw [h] at hqe
    refine ⟨by rw [hqe], by rw [hqe], by rw [hqe], by rw [hqe], fun _ => ⟨by rw [hqe], by rw [hqe], by rw [hqe], ?_, ?_⟩,
      fun hk => ?_⟩
    · rw [hqe]
      exact governorDuty_zero c
    · simpa using hlines
    · obtain hd | hd := hdir <;> simp [hd] at hk
  · rw [h] at hqe
    refine ⟨by rw [hqe], by rw [hqe], by rw [hqe], by rw [hqe], fun hk => ?_, fun _ => ⟨by rw [hqe], by rw [hqe], by rw [hqe]⟩⟩
    obtain hd | hd := hdir <;> simp [hd] at hk

/-- A flag other than SHORTFALL is left as it was by what a controller hands on. -/
theorem handOn_flags (ds : List Dir) (ps : List Nat) (s : State) : ShortfallOnly s (handOn ds ps s) := by
  have hdirs : ShortfallOnly s (noticeDirs ds s) := .same (by rw [noticeDirs_eq])
  refine hdirs.trans ?_
  unfold handOn noticePs completePullOff
  split
  · exact .same rfl
  · split
    · exact finishPullOff_flags _
    · exact .same rfl

theorem recompute_flags (s : State) : ShortfallOnly s (recompute s) := recompute_recomputes.flags s

theorem estimateNotice_flag {f : Flag} (hf : f ≠ .meterFault) (n : Nat) (s : State) :
    flagSet f (estimateNotice n s) = flagSet f s := by
  have hraise : flagSet f (raiseFlag .meterFault s) = flagSet f s := by
    rw [flagSet_raiseFlag]
    simp [hf]
  have hrest (v : State) : flagSet f (fuelTotals (modBurn n
      (estimateBurn (boundDead .flow (some n) s) (engineRuns n s)) v)) = flagSet f v := rfl
  unfold estimateNotice
  dsimp only
  rw [hrest]
  split
  · exact hraise
  · rfl

theorem noticeEngine_flag {f : Flag} (h1 : f ≠ .shortfall) (h2 : f ≠ .meterFault) (n : Nat) (s : State) :
    flagSet f (noticeEngine n s) = flagSet f s :=
  (estimateNotice_flag h2 n _).trans (recompute_flags s f h1)

/-- All that a halt of an engine's shaft with its notices leaves of it. -/
theorem halt_noticed {n : Nat} {s : State} {r : Shaft} {c : ShaftCfg} {e : Engine} (he : engineTurns e = false)
    (hr : getN s.sfc n = some r) (hc : getN s.cfg.shafts n = some c) :
    ∃ q, getN (noticeEngine n (actShaft n (haltEngine s.now c e) s)).sfc n = some q ∧
      Halted n s.now c e r q s (noticeEngine n (actShaft n (haltEngine s.now c e) s)) := by
  obtain ⟨x, hx, hhalt, hframe⟩ := shaftSet_halted (c := c) e hr
  have hfollows : ShaftsFollow (shaftSet n (haltEngine s.now c e) r.dir false s)
      (noticeEngine n (actShaft n (haltEngine s.now c e) s)) := by
    rw [actShaft_eq _ hr]
    exact (handOn_shafts _ _ _).trans (noticeEngine_shafts n _)
  exact hhalt.follows he hc (by rw [hframe]) hx hfollows

/-- The other shafts keep their engines through a controller's change of shaft `n` and its notices. -/
theorem shaftSet_others {n : Nat} {s : State} {r : Shaft} (f : Shaft → Shaft) (hr : getN s.sfc n = some r)
    (hd : (f r).dutyWritten = r.dutyWritten) (hw : (f r).clutchWritten = r.clutchWritten) {m : Nat} (hm : m ≠ n) :
    getN (shaftSet n f r.dir false s).sfc m = getN s.sfc m := by
  obtain ⟨-, -, -, hother, -⟩ := shaftSet_lines f false hr hd hw
  exact hother m hm

end Sys2Proof.Machine
end

section
/-!
PROOFS. Rpm results, the dwell and the deviation timer (O45).
-/

namespace Sys2Proof.Machine

/-! ## An engine found stopped (R55) -/

/-- ENGINE_FAULT raised where the shaft has a target or a set-point (R55). -/
def faulted (r : Shaft) (s : State) : State := if r.target ≠ 0 ∨ r.p ≠ 0 then raiseFlag .engineFault s else s

theorem faulted_eq (r : Shaft) (s : State) :
    faulted r s = { s with svp := { s.svp with flags := (faulted r s).svp.flags } } := by
  unfold faulted
  split <;> rfl

theorem stopEngine_eq {n : Nat} {s : State} {r : Shaft} {c : ShaftCfg} (hr : getN s.sfc n = some r)
    (hc : getN s.cfg.shafts n = some c) :
    stopEngine n s = noticeEngine n (actShaft n (haltEngine s.now c .stopped) (faulted r s)) := by
  simp only [stopEngine, hr, hc, faulted]

/-- From `s` to `u` the other shafts keep engine, rpm figure and class. -/
def OthersKept (n : Nat) (s u : State) : Prop := ∀ m x, m ≠ n → getN s.sfc m = some x →
  ∃ y, getN u.sfc m = some y ∧ y.engine = x.engine ∧ y.lastRpm = x.lastRpm ∧ y.deviation = x.deviation

theorem OthersKept.follows {n : Nat} {s a u : State} (h : ∀ m, m ≠ n → getN a.sfc m = getN s.sfc m) (k : ShaftsFollow a u) :
    OthersKept n s u := fun m _ hm hx => k.controller ((h m hm).trans hx)

theorem getN_modShaft_ne {n m : Nat} (h : m ≠ n) (f : Shaft → Shaft) (s : State) :
    getN (modShaft n f s).sfc m = getN s.sfc m := getN_modN_ne (Ne.symm h) _ _

theorem getN_modShaft {n : Nat} {s : State} {r : Shaft} (f : Shaft → Shaft) (hr : getN s.sfc n = some r) :
    getN (modShaft n f s).sfc n = some (f r) := by simp [modShaft, hr]

theorem haltEngine_written (now : Nat) (c : ShaftCfg) (e : Engine) (r : Shaft) :
    (haltEngine now c e r).dutyWritten = r.dutyWritten ∧ (haltEngine now c e r).clutchWritten = r.clutchWritten := by
  obtain ⟨-, h⟩ | ⟨-, h⟩ := haltEngine_cases now c e r <;> rw [h] <;> exact ⟨rfl, rfl⟩

/-- What stopping an engine leaves. -/
theorem stopEngine_halted {n : Nat} {s : State} {r : Shaft} {c : ShaftCfg} (hr : getN s.sfc n = some r)
    (hc : getN s.cfg.shafts n = some c) :
    (∃ q, getN (stopEngine n s).sfc n = some q ∧ Halted n s.now c .stopped r q s (stopEngine n s)) ∧
      OthersKept n s (stopEngine n s) ∧
      ((r.target ≠ 0 ∨ r.p ≠ 0) → flagSet .engineFault (stopEngine n s) = true) ∧
      (r.target = 0 → r.p = 0 → flagSet .engineFault (stopEngine n s) = flagSet .engineFault s) := by
  have heq := faulted_eq r s
  have hnow : (faulted r s).now = s.now := by rw [heq]; rfl
  have hr' : getN (faulted r s).sfc n = some r := by rw [heq]; exact hr
  have hc' : getN (faulted r s).cfg.shafts n = some c := by rw [heq]; exact hc
  have hsame : OnlyLines (fun _ => False) s (faulted r s) := .same (by rw [heq]) (by rw [heq])
  have hflag : flagSet .engineFault (stopEngine n s) = flagSet .engineFault (faulted r s) := by
    rw [stopEngine_eq hr hc, noticeEngine_flag (f := .engineFault) nofun nofun, actShaft_eq _ hr',
      handOn_flags _ _ _ .engineFault nofun]
    obtain ⟨hd, hw⟩ := haltEngine_written s.now c .stopped r
    obtain ⟨-, -, -, -, -, hframe⟩ := shaftSet_lines (haltEngine s.now c .stopped) false hr' hd hw
    rw [flagSet, hframe]
    rfl
  obtain ⟨q, hq, hhalt⟩ := halt_noticed (e := .stopped) rfl hr' hc'
  rw [hnow, ← stopEngine_eq hr hc] at hq hhalt
  refine ⟨⟨q, hq, ?_⟩, ?_, fun h => ?_, fun h1 h2 => ?_⟩
  · refine { hhalt with engaged := fun hdir => ?_ }
    obtain ⟨h1, h2, h3, h4, hlines⟩ := hhalt.engaged hdir
    exact ⟨h1, h2, h3, h4, hlines.between (P := fun _ => False) (fun _ _ => id) hsame (.refl _)
      ((stopEngine_reacts n s).cfg.trans hsame.1.symm)⟩
  · obtain ⟨hd, hw⟩ := haltEngine_written s.now c .stopped r
    have hothers : ∀ m, m ≠ n → getN (shaftSet n (haltEngine s.now c .stopped) r.dir false (faulted r s)).sfc m =
        getN s.sfc m := fun m hm => by
      rw [shaftSet_others _ hr' hd hw hm, heq]
    rw [stopEngine_eq hr hc, actShaft_eq _ hr']
    exact .follows hothers ((handOn_shafts _ _ _).trans (noticeEngine_shafts n _))
  · rw [hflag, faulted, if_pos h, flagSet_raiseFlag]
    simp
  · rw [hflag, faulted, if_neg (by simp [h1, h2])]

/-! ## Rpm results (R54 to R56) -/

/-- The rpm figure recorded (R54). -/
def withRpm (n rpm : Nat) (s : State) : State := modShaft n (fun q => { q with lastRpm := some (rpm, s.now) }) s

theorem rpmResult_eq {n count elapsed : Nat} {s : State} {r : Shaft} {c : ShaftCfg} (hr : getN s.sfc n = some r)
    (hc : getN s.cfg.shafts n = some c) : rpmResult n count elapsed s =
      judgeRpm n c (rpmOf count elapsed c.pulsesPerRev) r.engine (withRpm n (rpmOf count elapsed c.pulsesPerRev) s) := by
  simp only [rpmResult, hr, hc, withRpm]

theorem classify_eq (now : Nat) (c : ShaftCfg) (rpm : Nat) (r : Shaft) : classify now c rpm r = { r with
    deviation := some (classOf c.tolerance r.commanded rpm)
    deviationAt := if r.deviation = some (classOf c.tolerance r.commanded rpm) then r.deviationAt
      else some (now + c.deviationTime) } := by
  unfold classify
  dsimp only
  split
  next h => rw [← h]
  next h => rfl

theorem startEngine_eq (now : Nat) (c : ShaftCfg) (rpm : Nat) (r : Shaft) : startEngine now c rpm r = { r with
    engine := .running, deviation := some (classOf c.tolerance r.commanded rpm)
    deviationAt := some (now + c.deviationTime) } := by
  rw [startEngine, classify_eq]
  simp

/-- An engine RUNNING or LIMITED is judged as one. -/
theorem judgeRpm_turning {n rpm : Nat} {c : ShaftCfg} {e : Engine} (he : e = .running ∨ e = .limited) (s : State) :
    judgeRpm n c rpm e s = if rpm < c.stopRpm then stopEngine n s else modShaft n (classify s.now c rpm) s := by
  obtain rfl | rfl := he <;> rfl

/-- The figure of an rpm result: what follows it, by the state of the engine. -/
theorem rpmResult_judged (n count elapsed : Nat) (s : State) (r : Shaft) (c : ShaftCfg) (hr : getN s.sfc n = some r)
    (hc : getN s.cfg.shafts n = some c) :
    let rpm := min 65535 (count * 60000000 / (elapsed * c.pulsesPerRev))
    let k : Deviation := if rpm + c.tolerance < r.commanded then .low else .within
    let u := rpmResult n count elapsed s
    ∃ q, getN u.sfc n = some q ∧ q.lastRpm = some (rpm, s.now) ∧ OthersKept n s u ∧
      (r.engine = .fuelOut ∨ (r.engine = .stopped ∧ rpm < c.stopRpm) →
        q = { r with lastRpm := some (rpm, s.now) } ∧ u = { s with sfc := u.sfc }) ∧
      (r.engine = .stopped → c.stopRpm ≤ rpm →
        q.engine = .running ∧ q.deviation = some k ∧ q.deviationAt = some (s.now + c.deviationTime)) ∧
      ((r.engine = .running ∨ r.engine = .limited) → rpm < c.stopRpm →
        q.engine = .stopped ∧ q.deviation = none ∧ q.deviationAt = none ∧
          ((r.target ≠ 0 ∨ r.p ≠ 0) → flagSet .engineFault u = true) ∧
          (r.target = 0 → r.p = 0 → flagSet .engineFault u = flagSet .engineFault s) ∧
          ((r.dir = .ahead ∨ r.dir = .astern) →
            q.dir = .dwell ∧ q.p = 0 ∧ q.dwellAt = some (s.now + c.dwell) ∧ q.duty = c.dutyIdle ∧
              ShaftLines n False r q s u) ∧
          ((r.dir = .neutral ∨ r.dir = .dwell) → q.dir = r.dir ∧ q.p = r.p ∧ q.dwellAt = r.dwellAt)) ∧
      ((r.engine = .running ∨ r.engine = .limited) → c.stopRpm ≤ rpm →
        u = { s with sfc := u.sfc } ∧
          (r.deviation = some k → q = { r with lastRpm := some (rpm, s.now) }) ∧
          (r.deviation ≠ some k →
            q = { r with
              lastRpm := some (rpm, s.now), deviation := some k, deviationAt := some (s.now + c.deviationTime) })) := by
  intro rpm k u
  have hu : u = judgeRpm n c rpm r.engine (withRpm n rpm s) := rpmResult_eq hr hc
  have hx := getN_modShaft (fun q => { q with lastRpm := some (rpm, s.now) }) hr
  have hother : ∀ m, m ≠ n → getN (withRpm n rpm s).sfc m = getN s.sfc m := fun m hm => getN_modShaft_ne hm _ s
  change getN (withRpm n rpm s).sfc n = some { r with lastRpm := some (rpm, s.now) } at hx
  clear_value u
  have hturning (he : r.engine = .running ∨ r.engine = .limited) :
      u = if rpm < c.stopRpm then stopEngine n (withRpm n rpm s)
        else modShaft n (classify s.now c rpm) (withRpm n rpm s) := by
    rw [hu, judgeRpm_turning he]
    rfl
  by_cases hrest : r.engine = .fuelOut ∨ (r.engine = .stopped ∧ rpm < c.stopRpm)
  · have hsame : u = withRpm n rpm s := by
      obtain he | ⟨he, hlt⟩ := hrest
      · rw [hu, he, judgeRpm]
      · rw [hu, he, judgeRpm, if_neg (Nat.not_le.2 hlt)]
    rw [hsame]
    refine ⟨_, hx, rfl, .follows hother (.refl _), fun _ => ⟨rfl, rfl⟩, fun he hle => ?_, fun he => ?_, fun he => ?_⟩
    · obtain h | ⟨-, h⟩ := hrest
      · simp [he] at h
      · exact absurd hle (Nat.not_le.2 h)
    · obtain h | ⟨h, -⟩ := hrest <;> simp [h] at he
    · obtain h | ⟨h, -⟩ := hrest <;> simp [h] at he
  · by_cases hstopped : r.engine = .stopped
    · have hle : c.stopRpm ≤ rpm := Nat.not_lt.1 fun h => hrest (.inr ⟨hstopped, h⟩)
      have heq : u = noticeEngine n (modShaft n (startEngine s.now c rpm) (withRpm n rpm s)) := by
        rw [hu, hstopped, judgeRpm, if_pos hle]
        rfl
      have hy := getN_modShaft (startEngine s.now c rpm) hx
      obtain ⟨-, hfollows⟩ := noticeEngine_shafts n (modShaft n (startEngine s.now c rpm) (withRpm n rpm s))
      obtain ⟨q, hq, hqe, -⟩ := hfollows n _ hy
      rw [startEngine_eq] at hqe
      have hothers : OthersKept n s u := by
        rw [heq]
        exact .follows (fun m hm => (getN_modShaft_ne hm _ _).trans (hother m hm)) (noticeEngine_shafts n _)
      rw [← heq] at hq
      refine ⟨q, hq, by rw [hqe], hothers, fun h => absurd h hrest,
        fun _ _ => ⟨by rw [hqe], by rw [hqe]; rfl, by rw [hqe]⟩, fun h => ?_, fun h => ?_⟩ <;> simp [hstopped] at h
    · have hturns : r.engine = .running ∨ r.engine = .limited := by
        cases h : r.engine with
        | stopped => exact absurd h hstopped
        | running => exact .inl rfl
        | limited => exact .inr rfl
        | fuelOut => exact absurd (.inl h) hrest
      by_cases hlt : rpm < c.stopRpm
      · have heq : u = stopEngine n (withRpm n rpm s) := by rw [hturning hturns, if_pos hlt]
        obtain ⟨⟨q, hq, hhalt⟩, hothers, hfault, hnofault⟩ := stopEngine_halted (s := withRpm n rpm s) hx hc
        rw [← heq] at hq hhalt hothers hfault hnofault
        refine ⟨q, hq, hhalt.lastRpm, fun m x hm hm' => hothers m x hm ((hother m hm).trans hm'), fun h => absurd h hrest,
          fun h => absurd h hstopped, fun _ _ => ⟨hhalt.engine, hhalt.deviation, hhalt.deviationAt, hfault, hnofault,
            hhalt.engaged, hhalt.idle⟩, fun _ h => absurd hlt (Nat.not_lt.2 h)⟩
      · have heq : u = modShaft n (classify s.now c rpm) (withRpm n rpm s) := by rw [hturning hturns, if_neg hlt]
        have hy := getN_modShaft (classify s.now c rpm) hx
        rw [← heq, classify_eq] at hy
        refine ⟨_, hy, rfl, ?_, fun h => absurd h hrest, fun h => absurd h hstopped, fun _ h => absurd h hlt, fun _ _ =>
          ⟨by rw [heq]; rfl, fun hk => ?_, fun hk => ?_⟩⟩
        · rw [heq]
          exact .follows (fun m hm => (getN_modShaft_ne hm _ _).trans (hother m hm)) (.refl _)
        · have hclass : classOf c.tolerance r.commanded rpm = k := rfl
          simp only [hclass, hk, if_true]
        · have hclass : classOf c.tolerance r.commanded rpm = k := rfl
          simp only [hclass, hk, if_false]

theorem rpmDead_eq {n : Nat} {s : State} {r : Shaft} (hr : getN s.sfc n = some r) :
    rpmDead n s = if engineTurns r.engine = true then stopEngine n s else s := by
  simp only [rpmDead, engineRuns, hr]

/-! ## The dwell and the deviation timer (R52, R56) -/

theorem exec_dwellExpiry {t n : Nat} {s : State} {r : Shaft} (hr : getN s.sfc n = some r) : exec (.dwellExpiry t n) s =
    if due (max s.clock t / 1000) r.dwellAt then
      .next (actShaft n (fun q => { q with dir := dwellEnd q, dwellAt := none }) (setClock t s))
    else .next (setClock t s) := by
  simp only [exec, execDwellExpiry, setClock_sfc, hr, setClock_now] <;> rfl

theorem exec_deviationExpiry {t n : Nat} {s : State} {r : Shaft} (hr : getN s.sfc n = some r) :
    exec (.deviationExpiry t n) s =
      if due (max s.clock t / 1000) r.deviationAt then .next (deviationExpired n r (setClock t s))
      else .next (setClock t s) := by
  simp only [exec, execDeviationExpiry, setClock_sfc, hr, setClock_now] <;> rfl

theorem dwellEnd_eq (r : Shaft) : dwellEnd r =
    if r.target ≠ 0 ∧ (r.engine = .running ∨ r.engine = .limited) then
      match r.targetWay with
      | some .ahead => .ahead
      | some .astern => .astern
      | none => .neutral
    else .neutral := by
  have hiff := engineTurns_iff r.engine
  by_cases h : r.target ≠ 0 ∧ engineTurns r.engine = true
  · rw [dwellEnd, if_pos h, if_pos (by rwa [← hiff])]
    rcases r.targetWay with - | w
    · rfl
    · cases w <;> rfl
  · rw [dwellEnd, if_neg h, if_neg (by rwa [← hiff])]

theorem afterDeviation_eq (d : Option Deviation) (e : Engine) : afterDeviation d e =
    if d = some .low ∧ e = .running then .limited else if d = some .within ∧ e = .limited then .running else e := by
  rcases d with - | d
  · simp [afterDeviation]
  · cases d <;> cases e <;> rfl

theorem deviationExpired_shaft {n : Nat} {s : State} {r : Shaft} (hr : getN s.sfc n = some r) :
    ∃ q, getN (deviationExpired n r s).sfc n = some q ∧ q.deviationAt = none ∧ q.deviation = r.deviation ∧
      q.engine = afterDeviation r.deviation r.engine := by
  have hx := getN_modShaft (fun q => { q with engine := afterDeviation r.deviation r.engine, deviationAt := none }) hr
  have hfollows : ShaftsFollow
      (modShaft n (fun q => { q with engine := afterDeviation r.deviation r.engine, deviationAt := none }) s)
      (deviationExpired n r s) := by
    unfold deviationExpired
    dsimp only
    split
    · exact .refl _
    · exact noticeEngine_shafts n _
  obtain ⟨-, hfollows⟩ := hfollows
  obtain ⟨q, hq, heq, -⟩ := hfollows n _ hx
  exact ⟨q, hq, by rw [heq], by rw [heq], by rw [heq]⟩

/-- Settles O45: a figure is judged by the state of the engine, and each timer acts at its moment alone. -/
theorem dwellAndDeviationTimers : Obligations.DwellAndDeviationTimers := by
  refine ⟨rpmResult_judged, fun n s r c hr hc => ⟨fun he => ?_, fun he => ?_⟩, fun t n s r hr =>
    ⟨fun hdue => ?_, fun hdue => ?_, fun hdue => ?_, fun hdue => ?_⟩⟩
  · rw [rpmDead_eq hr, if_neg]
    obtain he | he := he <;> simp [he, engineTurns]
  · rw [rpmDead_eq hr, if_pos ((engineTurns_iff _).2 he)]
    obtain ⟨⟨q, hq, hhalt⟩, -, hfault, hnofault⟩ := stopEngine_halted hr hc
    exact ⟨q, hq, hhalt.engine, hhalt.deviation, hhalt.deviationAt, hhalt.lastRpm, hfault, hnofault, hhalt.engaged,
      hhalt.idle⟩
  · have hr' : getN (setClock t s).sfc n = some r := hr
    obtain ⟨q, hq, hqe, hother, hlines, hsteer, -⟩ := shaftSet_handedOn
      (fun q => { q with dir := dwellEnd q, dwellAt := none }) false hr' rfl rfl (.inl rfl)
      (actShaft_eq (fun q => { q with dir := dwellEnd q, dwellAt := none }) hr')
    rw [eq_false Bool.false_ne_true] at hlines
    refine ⟨_, q, ?_, hq, by rw [hqe], by rw [hqe], by rw [hqe], ?_, hlines, hsteer, hother⟩
    · rw [exec_dwellExpiry hr, if_pos hdue]
    · rw [hqe]
      exact dwellEnd_eq r
  · rw [exec_dwellExpiry hr, hdue, if_neg Bool.false_ne_true]
  · obtain ⟨q, hq, hat, hdev, hengine⟩ := deviationExpired_shaft (s := setClock t s) hr
    refine ⟨_, q, ?_, hq, hat, hdev, hengine.trans (afterDeviation_eq _ _)⟩
    rw [exec_deviationExpiry hr, if_pos hdue]
  · rw [exec_deviationExpiry hr, hdue, if_neg Bool.false_ne_true]

end Sys2Proof.Machine
end

section
/-!
PROOFS. The control step (R47 to R51, R59 to R62) and the steering controller (chapter 4): stall, angle results, the sensor lost,
retry (O46, O47).
-/

namespace Sys2Proof.Machine

/-! ## The ramp of a control step (R47, R48) -/

/-- What a control step makes of a shaft record. -/
theorem stepShaft_eq (s : State) (c : ShaftCfg) (r : Shaft) :
    let q := stepShaft s c r
    q.emergency = emergencyNow s r ∧
      q.p = rampTo (goalOf r) (stepLimit c.rampUp s.cfg.controlStep)
        (stepLimit (if emergencyNow s r then c.rampEmergency else c.rampDown) s.cfg.controlStep) r.p ∧
      q.commanded = curveRpm c q.p ∧ q.duty = governorDuty c q.commanded ∧
      q.stepAt = restartTimer s.cfg.controlStep r.stepAt ∧ DirectionSettled s.now s.svp.mode c r q ∧
      q = { r with
        dir := q.dir, p := q.p, dwellAt := q.dwellAt, commanded := q.commanded, duty := q.duty
        emergency := q.emergency, stepAt := q.stepAt } := by
  intro q
  have hsettled : DirectionSettled s.now s.svp.mode c r q := settled_step s.now s.svp.mode c rfl rfl
  have hq : q = retune c (engage s.svp.mode (dwellIfDue s.now c { r with
      p := rampTo (goalOf r) (stepLimit c.rampUp s.cfg.controlStep)
        (stepLimit (if emergencyNow s r then c.rampEmergency else c.rampDown) s.cfg.controlStep) r.p
      emergency := emergencyNow s r, stepAt := restartTimer s.cfg.controlStep r.stepAt })) := rfl
  rw [engage_eq, dwellIfDue_eq] at hq
  clear_value q
  refine ⟨?_, ?_, ?_, ?_, ?_, hsettled, ?_⟩ <;> rw [hq] <;> rfl

/-- A control step with no pull-off in progress. -/
theorem rampStep_shaft {n : Nat} {s : State} {r : Shaft} {c : ShaftCfg} (hr : getN s.sfc n = some r)
    (hp : s.cpc.pullOff = none) :
    ∃ q, getN (rampStep n c r s).sfc n = some q ∧
      q = { stepShaft s c r with dutyWritten := some (stepShaft s c r).duty, clutchWritten := q.clutchWritten } ∧
      (∀ m, m ≠ n → getN (rampStep n c r s).sfc m = getN s.sfc m) ∧
      ShaftLines n (r.clutchWritten = false) r q s (rampStep n c r s) ∧
      (q.dir ≠ r.dir → SteeringInForce (rampStep n c r s)) ∧
      rampStep n c r s = { s with
        sfc := (rampStep n c r s).sfc, dlu := (rampStep n c r s).dlu, stc := (rampStep n c r s).stc } := by
  obtain ⟨-, -, -, -, -, -, heq⟩ := stepShaft_eq s c r
  have h := shaftSet_handedOn (u := rampStep n c r s) (stepShaft s c) (!r.clutchWritten) hr (by rw [heq]) (by rw [heq])
    (.inr hp) rfl
  rwa [show ((!r.clutchWritten) = true) = (r.clutchWritten = false) by simp] at h

/-! ## Valve lines of a rudder (R76) -/

theorem getN_modRudder {n : Nat} {s : State} {r : Rudder} (f : Rudder → Rudder) (hr : getN s.stc.rudders n = some r) :
    getN (modRudder n f s).stc.rudders n = some (f r) := by simp [modRudder, hr]

theorem getN_modRudder_ne {n m : Nat} (h : m ≠ n) (f : Rudder → Rudder) (s : State) :
    getN (modRudder n f s).stc.rudders m = getN s.stc.rudders m := getN_modN_ne (Ne.symm h) _ _

/-- From `s` to `u` rudder `n` has become `q`, and nothing has changed but it and drive lines. -/
def RudderOnly (n : Nat) (q : Rudder) (s u : State) : Prop :=
  u = { s with stc := { s.stc with rudders := u.stc.rudders }, dlu := u.dlu } ∧ getN u.stc.rudders n = some q ∧
    ∀ m, m ≠ n → getN u.stc.rudders m = getN s.stc.rudders m

theorem RudderOnly.trans {n : Nat} {q x : Rudder} {s t u : State} (h : RudderOnly n x s t) (k : RudderOnly n q t u) :
    RudderOnly n q s u := by
  obtain ⟨heq, -, hother⟩ := h
  obtain ⟨keq, hq, kother⟩ := k
  exact ⟨by rw [keq, heq], hq, fun m hm => (kother m hm).trans (hother m hm)⟩

theorem modRudder_only {n : Nat} {s : State} {r : Rudder} (f : Rudder → Rudder) (hr : getN s.stc.rudders n = some r) :
    RudderOnly n (f r) s (modRudder n f s) := ⟨rfl, getN_modRudder f hr, fun _ hm => getN_modRudder_ne hm f s⟩

theorem writeDuty_rudderOnly {n : Nat} {s : State} {x : Rudder} (a : Assignment) (v : Nat)
    (hx : getN s.stc.rudders n = some x) : RudderOnly n x s (writeDuty a v s) := by
  unfold RudderOnly
  rw [writeDuty_only]
  exact ⟨rfl, hx, fun _ _ => rfl⟩

/-- What is noted as written to a valve line. -/
def noted (written : Option Nat) (v : Nat) (first : Bool) : Option Nat :=
  if valveDiffers written v first then some v else written

/-- The port line brought to `v`, and a 0 on the starboard line kept. -/
theorem updatePort_spec {n v : Nat} {first : Bool} {s : State} {x : Rudder} (hx : getN s.stc.rudders n = some x) :
    RudderOnly n { x with portWritten := noted x.portWritten v first } s (updatePort n v x.portWritten first s) ∧
      (valveDiffers x.portWritten v first = true → Written (.rudderPort n) v s (updatePort n v x.portWritten first s)) ∧
      ∀ z, s.cfg = z.cfg → Written (.rudderStbd n) 0 z s →
        Written (.rudderStbd n) 0 z (updatePort n v x.portWritten first s) := by
  cases hd : valveDiffers x.portWritten v first with
  | false =>
    simp only [updatePort, noted, hd, Bool.false_eq_true, if_false]
    exact ⟨⟨rfl, hx, fun _ _ => rfl⟩, nofun, fun _ _ h => h⟩
  | true =>
    simp only [updatePort, noted, hd, if_true, writePort]
    have hmod := modRudder_only (fun r => { r with portWritten := some v }) hx
    refine ⟨hmod.trans (writeDuty_rudderOnly _ _ hmod.2.1), fun _ =>
      writeDuty_written _ v (modRudder n (fun r => { r with portWritten := some v }) s), fun z hz h => ?_⟩
    exact Written.write (t := modRudder n _ s) h hz (by simp) fun _ => .inl rfl

/-- The starboard line brought to `v`, and a 0 on the port line kept. -/
theorem updateStbd_spec {n v : Nat} {first : Bool} {s : State} {x : Rudder} (hx : getN s.stc.rudders n = some x) :
    RudderOnly n { x with stbdWritten := noted x.stbdWritten v first } s (updateStbd n v x.stbdWritten first s) ∧
      (valveDiffers x.stbdWritten v first = true → Written (.rudderStbd n) v s (updateStbd n v x.stbdWritten first s)) ∧
      ∀ z, s.cfg = z.cfg → Written (.rudderPort n) 0 z s →
        Written (.rudderPort n) 0 z (updateStbd n v x.stbdWritten first s) := by
  cases hd : valveDiffers x.stbdWritten v first with
  | false =>
    simp only [updateStbd, noted, hd, Bool.false_eq_true, if_false]
    exact ⟨⟨rfl, hx, fun _ _ => rfl⟩, nofun, fun _ _ h => h⟩
  | true =>
    simp only [updateStbd, noted, hd, if_true, writeStbd]
    have hmod := modRudder_only (fun r => { r with stbdWritten := some v }) hx
    refine ⟨hmod.trans (writeDuty_rudderOnly _ _ hmod.2.1), fun _ =>
      writeDuty_written _ v (modRudder n (fun r => { r with stbdWritten := some v }) s), fun z hz h => ?_⟩
    exact Written.write (t := modRudder n _ s) h hz (by simp) fun _ => .inl rfl

/-- The valve lines follow the drive of a rudder, each written where it is to be. -/
theorem writeValves_spec {n : Nat} {ordered : Bool} {s : State} {x : Rudder} (hx : getN s.stc.rudders n = some x) :
    let first := ordered || decide (x.drive ≠ .stop)
    RudderOnly n { x with
        portWritten := noted x.portWritten (portDuty x) first
        stbdWritten := noted x.stbdWritten (stbdDuty x) first } s (writeValves n ordered s) ∧
      (valveDiffers x.portWritten (portDuty x) first = true →
        Written (.rudderPort n) (portDuty x) s (writeValves n ordered s)) ∧
      (valveDiffers x.stbdWritten (stbdDuty x) first = true →
        Written (.rudderStbd n) (stbdDuty x) s (writeValves n ordered s)) := by
  intro first
  by_cases hp : x.drive = .port
  · have heq : writeValves n ordered s =
        updatePort n (portDuty x) x.portWritten first (updateStbd n (stbdDuty x) x.stbdWritten first s) := by
      simp only [writeValves, hx, hp, if_true, first]
    have hzero : stbdDuty x = 0 := by simp [stbdDuty, hp]
    obtain ⟨honly, hwritten, -⟩ := updateStbd_spec (v := stbdDuty x) (first := first) hx
    obtain ⟨konly, kwritten, kept⟩ := updatePort_spec (v := portDuty x) (first := first) honly.2.1
    rw [heq]
    refine ⟨honly.trans konly, fun h => (kwritten h).after (updateStbd_reacts _ _ _ _ s), fun h => ?_⟩
    have hw := hwritten h
    rw [hzero] at hw kept ⊢
    exact kept s (by rw [hzero] at honly; rw [honly.1]) hw
  · have heq : writeValves n ordered s =
        updateStbd n (stbdDuty x) x.stbdWritten first (updatePort n (portDuty x) x.portWritten first s) := by
      simp only [writeValves, hx, hp, if_false, first]
    have hzero : portDuty x = 0 := by simp [portDuty, hp]
    obtain ⟨honly, hwritten, -⟩ := updatePort_spec (v := portDuty x) (first := first) hx
    obtain ⟨konly, kwritten, kept⟩ := updateStbd_spec (v := stbdDuty x) (first := first) honly.2.1
    rw [heq]
    refine ⟨honly.trans konly, fun h => ?_, fun h => (kwritten h).after (updatePort_reacts _ _ _ _ s)⟩
    have hw := hwritten h
    rw [hzero] at hw kept ⊢
    exact kept s (by rw [hzero] at honly; rw [honly.1]) hw

/-! ## A rudder that leaves service (R73, R78) -/

/-- A notice to the STC keeps every rudder as R66 lets it. -/
theorem stcNotice_rudderKept {s t : State} (horder : steeringOrder t = steeringOrder s) {m : Nat} {x : Rudder}
    (hx : getN t.stc.rudders m = some x) :
    ∃ y, getN (stcNotice t).stc.rudders m = some y ∧ rudderKept s x y := by
  obtain ⟨y, hy, heq, hrest⟩ := stcNotice_rudder hx
  rw [horder] at heq hrest
  refine ⟨y, hy, ?_⟩
  have hserve : serveRudder (steeringOrder s) x = { x with
      state := (serveRudder (steeringOrder s) x).state, setPoint := (serveRudder (steeringOrder s) x).setPoint } := by
    unfold serveRudder
    cases x.state <;> cases steeringOrder s <;> rfl
  rw [hserve] at heq
  refine ⟨by rw [heq], by rw [heq], by rw [heq], by rw [heq], by rw [heq], by rw [heq], by rw [heq], fun hf => ?_,
    fun hf ho => ?_, fun hp ho => ?_⟩
  · have hsame : serveRudder (steeringOrder s) x = x := by obtain hf | hf := hf <;> simp [serveRudder, hf]
    rw [hsame] at hrest
    rw [hrest (by obtain hf | hf := hf <;> simp [hf])]
    exact ⟨rfl, rfl⟩
  · rw [heq]
    simp [serveRudder, hf, ho]
  · have hsame : serveRudder (steeringOrder s) x = x := by simp [serveRudder, hp, ho]
    rw [hsame] at hrest
    rw [hrest (by simp [hp])]
    exact ⟨hp, rfl⟩

/-- What a rudder taken out of service by `f` leaves: its record, its lines at 0, RUDDER_FAULT, the steering figures. -/
theorem outOfService {n : Nat} {s u : State} {r : Rudder} (f : Rudder → Rudder) (hr : getN s.stc.rudders n = some r)
    (hdrive : (f r).drive = .stop) (hstate : (f r).state = .stalled ∨ (f r).state = .sensorLost) (hport : (f r).portWritten = r.portWritten)
    (hstbd : (f r).stbdWritten = r.stbdWritten)
    (hu : u = stcNotice (raiseFlag .rudderFault (writeValves n true (modRudder n f s)))) :
    getN u.stc.rudders n = some { f r with portWritten := some 0, stbdWritten := some 0 } ∧
      flagSet .rudderFault u = true ∧ (r.portWritten ≠ some 0 → Written (.rudderPort n) 0 s u) ∧
      (r.stbdWritten ≠ some 0 → Written (.rudderStbd n) 0 s u) ∧
      (∀ m x, m ≠ n → getN s.stc.rudders m = some x → ∃ y, getN u.stc.rudders m = some y ∧ rudderKept s x y) ∧
      SteeringInForce u ∧ u.sfc = s.sfc ∧ u.cpc = s.cpc ∧ u.fau = s.fau ∧ u.shu = s.shu := by
  have hmod := modRudder_only f hr
  obtain ⟨honly, hwport, hwstbd⟩ := writeValves_spec (ordered := true) hmod.2.1
  have hp0 : portDuty (f r) = 0 := by simp [portDuty, hdrive]
  have hs0 : stbdDuty (f r) = 0 := by simp [stbdDuty, hdrive]
  have hdiff (w : Option Nat) : valveDiffers w 0 true = true ↔ w ≠ some 0 := by
    cases w <;> simp [valveDiffers]
  have hnoted (w : Option Nat) : noted w 0 true = some 0 := by
    unfold noted
    split
    · rfl
    next h => exact not_not.1 fun hw => h ((hdiff w).2 hw)
  rw [hp0, hs0, hport, hstbd, Bool.true_or] at honly
  rw [hp0, hport, Bool.true_or, hdiff] at hwport
  rw [hs0, hstbd, Bool.true_or, hdiff] at hwstbd
  rw [hnoted, hnoted] at honly
  obtain ⟨heq, hq, hother⟩ := hmod.trans honly
  generalize writeValves n true (modRudder n f s) = w at *
  have horder : steeringOrder (raiseFlag .rudderFault w) = steeringOrder s := by
    rw [heq]
    rfl
  have hw : getN (raiseFlag .rudderFault w).stc.rudders n =
      some { f r with portWritten := some 0, stbdWritten := some 0 } := hq
  obtain ⟨y, hy, -, hrest⟩ := stcNotice_rudder hw
  have hserve : serveRudder (steeringOrder (raiseFlag .rudderFault w))
      { f r with portWritten := some 0, stbdWritten := some 0 } =
      { f r with portWritten := some 0, stbdWritten := some 0 } := by
    obtain h | h := hstate <;> simp [serveRudder, h]
  rw [hserve] at hrest
  rw [hu]
  refine ⟨?_, ?_, hwport, hwstbd, fun m x hm hx => ?_, stcNotice_inForce _, ?_⟩
  · rw [hy, hrest (by obtain h | h := hstate <;> simp [h])]
  · have hflag : flagSet .rudderFault (raiseFlag .rudderFault w) = true := by
      rw [flagSet_raiseFlag]
      simp
    exact hflag
  · exact stcNotice_rudderKept horder ((hother m hm).trans hx)
  · rw [stcNotice_eq, heq]
    exact ⟨rfl, rfl, rfl, rfl⟩

theorem loseSensor_left {n : Nat} {s u : State} {r : Rudder} (hr : getN s.stc.rudders n = some r)
    (hu : u = loseSensor n s) :
    ∃ q, getN u.stc.rudders n = some q ∧ q.state = .sensorLost ∧ q.theta = none ∧ q.drive = .stop ∧ q.duty = 0 ∧
      q.stallAt = none ∧ q.reference = none ∧ flagSet .rudderFault u = true ∧
      (r.portWritten ≠ some 0 → Written (.rudderPort n) 0 s u) ∧
      (r.stbdWritten ≠ some 0 → Written (.rudderStbd n) 0 s u) ∧ SteeringInForce u ∧
      ∀ m x, m ≠ n → getN s.stc.rudders m = some x → ∃ y, getN u.stc.rudders m = some y ∧ rudderKept s x y := by
  obtain ⟨hq, hflag, hport, hstbd, hother, hsteer, -⟩ :=
    outOfService (fun r => { stopRudder .sensorLost r with theta := none }) hr rfl (.inr rfl) rfl rfl hu
  exact ⟨_, hq, rfl, rfl, rfl, rfl, rfl, rfl, hflag, hport, hstbd, hsteer, hother⟩

/-! ## An angle used (R72, R75 to R77) -/

/-- The servo's action on a used angle: its drive and duty, and the stall check. -/
theorem servo_eq (now : Nat) (c : ShaftCfg) (theta : Int) (r : Rudder) :
    let q := servo now c theta r
    q = { r with
      drive := driveFor c.deadband (r.setPoint - theta), duty := driveDuty c (r.setPoint - theta)
      stallAt := q.stallAt, reference := q.reference } ∧
    (driveFor c.deadband (r.setPoint - theta) = .stop → q.stallAt = none ∧ q.reference = none) ∧
    (driveFor c.deadband (r.setPoint - theta) ≠ .stop →
      (r.drive = driveFor c.deadband (r.setPoint - theta) → moved c.deadband theta r.reference = false →
        q.stallAt = r.stallAt ∧ q.reference = r.reference) ∧
      (r.drive ≠ driveFor c.deadband (r.setPoint - theta) ∨ moved c.deadband theta r.reference = true →
        q.stallAt = some (now + c.stallTime) ∧ q.reference = some theta)) := by
  intro q
  have hq : q = stallAfter now c r.drive theta { r with
      drive := driveFor c.deadband (r.setPoint - theta), duty := driveDuty c (r.setPoint - theta) } := rfl
  clear_value q
  generalize driveFor c.deadband (r.setPoint - theta) = d at *
  generalize driveDuty c (r.setPoint - theta) = v at *
  cases d with
  | stop =>
    rw [hq]
    exact ⟨rfl, fun _ => ⟨rfl, rfl⟩, fun h => absurd rfl h⟩
  | port =>
    by_cases h : r.drive = .port ∧ moved c.deadband theta r.reference = false
    · have heq : q = { r with drive := .port, duty := v } := by
        rw [hq, stallAfter]
        exact if_pos h
      rw [heq]
      refine ⟨rfl, nofun, fun _ => ⟨fun _ _ => ⟨rfl, rfl⟩, fun k => ?_⟩⟩
      obtain ⟨h1, h2⟩ := h
      obtain k | k := k
      · exact absurd h1 k
      · rw [h2] at k
        cases k
    · have heq : q = { r with drive := .port, duty := v, stallAt := some (now + c.stallTime), reference := some theta } := by
        rw [hq, stallAfter]
        exact if_neg h
      rw [heq]
      exact ⟨rfl, nofun, fun _ => ⟨fun h1 h2 => absurd ⟨h1, h2⟩ h, fun _ => ⟨rfl, rfl⟩⟩⟩
  | stbd =>
    by_cases h : r.drive = .stbd ∧ moved c.deadband theta r.reference = false
    · have heq : q = { r with drive := .stbd, duty := v } := by
        rw [hq, stallAfter]
        exact if_pos h
      rw [heq]
      refine ⟨rfl, nofun, fun _ => ⟨fun _ _ => ⟨rfl, rfl⟩, fun k => ?_⟩⟩
      obtain ⟨h1, h2⟩ := h
      obtain k | k := k
      · exact absurd h1 k
      · rw [h2] at k
        cases k
    · have heq : q = { r with drive := .stbd, duty := v, stallAt := some (now + c.stallTime), reference := some theta } := by
        rw [hq, stallAfter]
        exact if_neg h
      rw [heq]
      exact ⟨rfl, nofun, fun _ => ⟨fun h1 h2 => absurd ⟨h1, h2⟩ h, fun _ => ⟨rfl, rfl⟩⟩⟩

end Sys2Proof.Machine
end

section
/-!
PROOFS. Stall, angle results and retry of a rudder (O46, O47).
-/

namespace Sys2Proof.Machine

theorem angleOf_lost {d : Nat} (h : d < 50 ∨ 950 < d) : angleOf d = none := if_pos h

theorem angleOf_used {d : Nat} (h1 : 50 ≤ d) (h2 : d ≤ 950) :
    angleOf d = some (Int.tdiv (((max 100 (min 900 d) : Nat) - 500 : Int) * 450) 400) := if_neg (by omega)

theorem angleResult_eq {n high cycle : Nat} {s : State} {r : Rudder} (hr : getN s.stc.rudders n = some r)
    (h : r.state ≠ .sensorLost) : angleResult n high cycle s =
      match angleOf (high * 1000 / cycle) with
      | none => loseSensor n s
      | some theta => useAngle n theta s := by
  simp only [angleResult, hr, h, if_false]
  rfl

theorem angleDead_eq {n : Nat} {s : State} {r : Rudder} (hr : getN s.stc.rudders n = some r)
    (h : r.state ≠ .sensorLost) : angleDead n s = loseSensor n s := by
  simp only [angleDead, hr, h, if_false]

theorem useAngle_serving {n : Nat} {s : State} {r : Rudder} {c : ShaftCfg} (theta : Int)
    (hr : getN s.stc.rudders n = some r) (hc : getN s.cfg.shafts n = some c) (h : r.state = .following ∨ r.state = .parked) :
    useAngle n theta s =
      writeValves n false (modRudder n (fun q => servo s.now c theta { q with theta := some theta }) s) := by
  obtain h | h := h <;> simp only [useAngle, hr, hc, h]

theorem useAngle_stalled {n : Nat} {s : State} {r : Rudder} {c : ShaftCfg} (theta : Int)
    (hr : getN s.stc.rudders n = some r) (hc : getN s.cfg.shafts n = some c) (h : r.state = .stalled) :
    useAngle n theta s = modRudder n (fun q => { q with theta := some theta }) s := by
  simp only [useAngle, hr, hc, h]

theorem driveFor_stop {b : Nat} {e : Int} : driveFor b e = .stop ↔ e.natAbs ≤ b := by
  unfold driveFor
  split
  next h => simp [h]
  next h =>
    split
    · simp [h]
    · simp [h]

theorem driveFor_driven {b : Nat} {e : Int} (h : b < e.natAbs) : driveFor b e = if 0 < e then .stbd else .port :=
  if_neg (Nat.not_le.2 h)

theorem driveDuty_driven {c : ShaftCfg} {e : Int} (h : c.deadband < e.natAbs) :
    driveDuty c e = min 1000 (max c.minDuty (c.kp * e.natAbs / 10)) := if_neg (Nat.not_le.2 h)

theorem driveDuty_stop {c : ShaftCfg} {e : Int} (h : e.natAbs ≤ c.deadband) : driveDuty c e = 0 := if_pos h

/-- The record of a rudder whose servo has acted, its lines as they follow its drive. -/
def servoed (s : State) (c : ShaftCfg) (theta : Int) (r : Rudder) : Rudder :=
  servo s.now c theta { r with theta := some theta }

/-- An angle used by a rudder in service: the servo's record, the lines written where they differ, nothing else. -/
theorem useAngle_left {n : Nat} {s u : State} {r : Rudder} {c : ShaftCfg} (theta : Int)
    (hr : getN s.stc.rudders n = some r) (hc : getN s.cfg.shafts n = some c) (h : r.state = .following ∨ r.state = .parked)
    (hu : u = useAngle n theta s) :
    let q := servoed s c theta r
    let first := decide (q.drive ≠ .stop)
    RudderOnly n { q with
      portWritten := noted r.portWritten (portDuty q) first, stbdWritten := noted r.stbdWritten (stbdDuty q) first } s u ∧
    (valveDiffers r.portWritten (portDuty q) first = true → Written (.rudderPort n) (portDuty q) s u) ∧
    (valveDiffers r.stbdWritten (stbdDuty q) first = true → Written (.rudderStbd n) (stbdDuty q) s u) := by
  intro q first
  have hmod := modRudder_only (fun q => servo s.now c theta { q with theta := some theta }) hr
  obtain ⟨honly, hport, hstbd⟩ := writeValves_spec (ordered := false) hmod.2.1
  obtain ⟨heq, -⟩ := servo_eq s.now c theta { r with theta := some theta }
  have hp : q.portWritten = r.portWritten := (congrArg Rudder.portWritten heq).trans rfl
  have hs : q.stbdWritten = r.stbdWritten := (congrArg Rudder.stbdWritten heq).trans rfl
  have hq : servo s.now c theta { r with theta := some theta } = q := rfl
  rw [hq, hp, hs, Bool.false_or] at honly
  rw [hq, hp, Bool.false_or] at hport
  rw [hq, hs, Bool.false_or] at hstbd
  rw [hu, useAngle_serving theta hr hc h]
  exact ⟨hmod.trans honly, hport, hstbd⟩

theorem noted_driven (w : Option Nat) (v : Nat) : noted w v true = some v := by
  unfold noted valveDiffers
  cases w with
  | none => rfl
  | some x => by_cases h : x = v <;> simp [h]

theorem valveDiffers_driven {w : Option Nat} {v : Nat} : valveDiffers w v true = true ↔ w ≠ some v := by
  cases w <;> simp [valveDiffers]

theorem exec_stallExpiry {t n : Nat} {s : State} {r : Rudder} (hr : getN s.stc.rudders n = some r) :
    exec (.stallExpiry t n) s =
      if due (max s.clock t / 1000) r.stallAt then .next (stallRudder n (setClock t s)) else .next (setClock t s) := by
  simp only [exec, execStallExpiry, setClock_stc, hr, setClock_now] <;> rfl

/-- What an angle in range leaves of a rudder in service: the record, the lines of a rudder at rest, and those of a driven one. -/
theorem angleUsed {n : Nat} {s u : State} {r : Rudder} {c : ShaftCfg} (theta : Int)
    (hr : getN s.stc.rudders n = some r) (hc : getN s.cfg.shafts n = some c) (h : r.state = .following ∨ r.state = .parked)
    (hu : u = useAngle n theta s) :
    let err := r.setPoint - theta
    ∃ q, getN u.stc.rudders n = some q ∧ q.state = r.state ∧ q.theta = some theta ∧ q.setPoint = r.setPoint ∧
      (err.natAbs ≤ c.deadband →
        q.drive = .stop ∧ q.duty = 0 ∧ q.stallAt = none ∧ q.reference = none ∧
          (∀ v, r.portWritten = some v → v ≠ 0 → Written (.rudderPort n) 0 s u) ∧
          (∀ v, r.stbdWritten = some v → v ≠ 0 → Written (.rudderStbd n) 0 s u)) ∧
      (c.deadband < err.natAbs →
        q.drive = (if 0 < err then .stbd else .port) ∧ q.duty = min 1000 (max c.minDuty (c.kp * err.natAbs / 10)) ∧
          q.portWritten = some (if 0 < err then 0 else q.duty) ∧ q.stbdWritten = some (if 0 < err then q.duty else 0) ∧
          (r.portWritten ≠ q.portWritten → Written (.rudderPort n) (if 0 < err then 0 else q.duty) s u) ∧
          (r.stbdWritten ≠ q.stbdWritten → Written (.rudderStbd n) (if 0 < err then q.duty else 0) s u) ∧
          (∀ x, r.drive = q.drive → r.reference = some x → (theta - x).natAbs < c.deadband →
            q.stallAt = r.stallAt ∧ q.reference = some x) ∧
          ((r.drive ≠ q.drive ∨ ∃ x, r.reference = some x ∧ c.deadband ≤ (theta - x).natAbs) →
            q.stallAt = some (s.now + c.stallTime) ∧ q.reference = some theta)) ∧
      (∀ m, m ≠ n → getN u.stc.rudders m = getN s.stc.rudders m) ∧ u.svp = s.svp ∧ u.sfc = s.sfc := by
  intro err
  obtain ⟨⟨hframe, hq, hother⟩, hport, hstbd⟩ := useAngle_left theta hr hc h hu
  obtain ⟨heq, hstop, hdriven⟩ := servo_eq s.now c theta { r with theta := some theta }
  change servoed s c theta r = _ at heq
  change driveFor c.deadband err = .stop → (servoed s c theta r).stallAt = none ∧ (servoed s c theta r).reference = none
    at hstop
  change driveFor c.deadband err ≠ .stop → (r.drive = driveFor c.deadband err → moved c.deadband theta r.reference = false →
      (servoed s c theta r).stallAt = r.stallAt ∧ (servoed s c theta r).reference = r.reference) ∧
    (r.drive ≠ driveFor c.deadband err ∨ moved c.deadband theta r.reference = true →
      (servoed s c theta r).stallAt = some (s.now + c.stallTime) ∧ (servoed s c theta r).reference = some theta) at hdriven
  generalize servoed s c theta r = x at *
  have hstate : x.state = r.state := by rw [heq]
  have htheta : x.theta = some theta := by rw [heq]
  have hset : x.setPoint = r.setPoint := by rw [heq]
  have hdrive : x.drive = driveFor c.deadband err := by rw [heq]
  have hduty : x.duty = driveDuty c err := by rw [heq]
  clear heq
  refine ⟨_, hq, hstate, htheta, hset, fun hle => ?_, fun hlt => ?_, hother, by rw [hframe], by rw [hframe]⟩
  · have hd : x.drive = .stop := by rw [hdrive, driveFor_stop.2 hle]
    have hfirst : decide (x.drive ≠ .stop) = false := by simp [hd]
    rw [hfirst] at hport hstbd
    have hp0 : portDuty x = 0 := by simp [portDuty, hd]
    have hs0 : stbdDuty x = 0 := by simp [stbdDuty, hd]
    rw [hp0] at hport
    rw [hs0] at hstbd
    obtain ⟨hat, href⟩ := hstop (driveFor_stop.2 hle)
    exact ⟨hd, hduty.trans (driveDuty_stop hle), hat, href, fun v hv h0 => hport (by simp [valveDiffers, hv, h0]),
      fun v hv h0 => hstbd (by simp [valveDiffers, hv, h0])⟩
  · have hd : x.drive = if 0 < err then .stbd else .port := hdrive.trans (driveFor_driven hlt)
    have hne : driveFor c.deadband err ≠ .stop := fun h0 => absurd (driveFor_stop.1 h0) (Nat.not_le.2 hlt)
    have hfirst : decide (x.drive ≠ .stop) = true := by
      rw [hdrive]
      exact decide_eq_true hne
    have hp : portDuty x = if 0 < err then 0 else x.duty := by
      unfold portDuty
      rw [hd]
      by_cases h0 : 0 < err <;> simp [h0]
    have hs : stbdDuty x = if 0 < err then x.duty else 0 := by
      unfold stbdDuty
      rw [hd]
      by_cases h0 : 0 < err <;> simp [h0]
    obtain ⟨hkeep, hrestart⟩ := hdriven hne
    simp only [hfirst, noted_driven, valveDiffers_driven] at hport hstbd ⊢
    rw [hp] at hport ⊢
    rw [hs] at hstbd ⊢
    refine ⟨hd, hduty.trans (driveDuty_driven hlt), rfl, rfl, hport, hstbd, fun y hsame href hnear => ?_, fun hmoved => ?_⟩
    · obtain ⟨hat, hreference⟩ := hkeep (hsame.trans hdrive) (by simp [moved, href, hnear])
      exact ⟨hat, hreference.trans href⟩
    · refine hrestart (hmoved.imp (fun h1 h2 => h1 (h2.trans hdrive.symm)) fun ⟨y, href, hfar⟩ => ?_)
      simp [moved, href, hfar]

/-- Settles O46: a rudder out of service has its lines at 0, one in service follows its error. -/
theorem rudderStalls : Obligations.RudderStalls := by
  refine ⟨fun t n s r hr => ⟨fun hdue => ?_, fun hdue => ?_⟩, fun n high cycle s r c hr hc =>
    ⟨fun hlost => ⟨?_, ?_⟩, fun hne u hu => ?_, fun h1 h2 => ?_⟩⟩
  · have hr' : getN (setClock t s).stc.rudders n = some r := hr
    obtain ⟨hq, hflag, hport, hstbd, hother, hsteer, hrest⟩ :=
      outOfService (u := stallRudder n (setClock t s)) (stopRudder .stalled) hr' rfl (.inl rfl) rfl rfl rfl
    refine ⟨_, _, ?_, hq, rfl, rfl, rfl, rfl, rfl, rfl, rfl, rfl, rfl, hflag, hport, hstbd, hother, hsteer, hrest⟩
    rw [exec_stallExpiry hr, if_pos hdue]
  · rw [exec_stallExpiry hr, hdue, if_neg Bool.false_ne_true]
  · simp only [angleResult, hr, hlost, if_true]
  · simp only [angleDead, hr, hlost, if_true]
  · refine loseSensor_left hr ?_
    obtain rfl | ⟨rfl, hout⟩ := hu
    · exact angleDead_eq hr hne
    · rw [angleResult_eq hr hne, angleOf_lost hout]
  · have hresult (hne : r.state ≠ .sensorLost) : angleResult n high cycle s =
        useAngle n (Int.tdiv (((max 100 (min 900 (high * 1000 / cycle)) : Nat) - 500 : Int) * 450) 400) s := by
      rw [angleResult_eq hr hne, angleOf_used h1 h2]
    refine ⟨fun hs => ?_, fun hs => ?_⟩
    · rw [hresult (by simp [hs]), useAngle_stalled _ hr hc hs]
      exact ⟨rfl, getN_modRudder _ hr⟩
    · exact angleUsed _ hr hc hs (hresult (by obtain h | h := hs <;> simp [h]))

/-! ## Retry (R79) -/

theorem exec_rudderRetry (t : Nat) (n : Byte) {s : State} (hm : s.svp.mode ≠ .configuring) :
    exec (.rudderRetry t n) s = .next (retryAnswer n.toNat (setClock t s)) :=
  congrArg Host.Outcome.next (inService_serving (s := setClock t s) hm _)

theorem retryRudder_left {n : Nat} {s : State} {r : Rudder} (hr : getN s.stc.rudders n = some r) :
    ∃ q, getN (retryRudder n s).stc.rudders n = some q ∧
      q.state = (if s.shu.contributing || localApplied s then .following else .parked) ∧ q.theta = r.theta ∧
      q.drive = .stop ∧ q.duty = 0 ∧ q.stallAt = none ∧ q.reference = none ∧ (q.state = .parked → q.setPoint = 0) := by
  have hw := getN_modRudder (fun r => { stopRudder .parked r with setPoint := 0 }) hr
  obtain ⟨q, hq, heq, hrest⟩ := stcNotice_rudder hw
  have horder : steeringOrder (modRudder n (fun r => { stopRudder .parked r with setPoint := 0 }) s) =
      (s.shu.contributing || localApplied s) := rfl
  have hserve : serveRudder (s.shu.contributing || localApplied s) { stopRudder .parked r with setPoint := 0 } =
      { stopRudder .parked r with
        setPoint := 0, state := if s.shu.contributing || localApplied s then .following else .parked } := by
    unfold serveRudder
    cases s.shu.contributing || localApplied s <;> rfl
  rw [horder, hserve] at heq hrest
  refine ⟨q, hq, by rw [heq], by rw [heq]; rfl, by rw [heq]; rfl, by rw [heq]; rfl, by rw [heq]; rfl, by rw [heq]; rfl,
    fun hp => ?_⟩
  have hstate : (if s.shu.contributing || localApplied s then RudderState.following else .parked) ≠ .following := by
    rw [heq] at hp
    simp only at hp
    rw [hp]
    nofun
  rw [hrest hstate]

/-- Settles O47: the rows of R79's table in their order. -/
theorem rudderRetryAnswers : Obligations.RudderRetryAnswers := by
  refine fun t n s hm => ⟨fun hr => ?_, fun r hr => ⟨fun hin => ?_, fun hout => ⟨fun hdead => ?_, fun halive => ?_⟩⟩⟩
  · have hr' : getN (setClock t s).stc.rudders n.toNat = none := hr
    rw [exec_rudderRetry t n hm, retryAnswer, hr']
  · have hr' : getN (setClock t s).stc.rudders n.toNat = some r := hr
    simp only [exec_rudderRetry t n hm, retryAnswer, hr', hin, if_true]
  all_goals
    have hr' : getN (setClock t s).stc.rudders n.toNat = some r := hr
    have hnot : ¬(r.state = .following ∨ r.state = .parked) := by obtain h | h := hout <;> simp [h]
  · have hdead' : boundDead .angle (some n.toNat) (setClock t s) = true := hdead
    simp only [exec_rudderRetry t n hm, retryAnswer, hr', hnot, hdead', if_true, if_false]
  · have halive' : boundDead .angle (some n.toNat) (setClock t s) = false := halive
    obtain ⟨q, hq, hstate, htheta, hdrive, hduty, hat, href, hset⟩ := retryRudder_left hr'
    refine ⟨replyOk [] (retryRudder n.toNat (setClock t s)), q, ?_, rfl, hq, hstate, htheta, hdrive, hduty, hat, href, ?_,
      hset, rfl, rfl, rfl, rfl, rfl⟩
    · simp only [exec_rudderRetry t n hm, retryAnswer, hr', hnot, halive', if_false, Bool.false_eq_true, okAfter]
    · have hsteer : SteeringInForce (retryRudder n.toNat (setClock t s)) := stcNotice_inForce _
      exact hsteer.congr rfl rfl rfl rfl rfl rfl rfl

end Sys2Proof.Machine
end

section
/-!
PROOFS. The pulse gauges: requests, edges, and how a measurement ends (O56 to O59).
-/

namespace Sys2Proof.Machine

theorem modN_congr {α : Type} {l : List α} {n : Nat} {x : α} (hx : getN l n = some x) {f g : α → α} (hfg : f x = g x) :
    modN l n f = modN l n g := by
  obtain ⟨a, b, rfl, hset⟩ := getN_split hx
  rw [hset, hset, hfg]

/-! ## Requests (R141, R143) -/

/-- The first item that satisfies a test is the one found. -/
theorem findFrom_first {α : Type} {p : α → Bool} : ∀ {l : List α} {i : Nat} {x : α} (k : Nat), l[i]? = some x →
    p x = true → (∀ j y, j < i → l[j]? = some y → p y = false) → findFrom p k l = some (k + i)
  | [], _, _, _, hx, _, _ => by simp at hx
  | y :: ys, 0, x, k, hx, hp, _ => by
    obtain rfl : y = x := by simpa using hx
    simp [findFrom, hp]
  | y :: ys, i + 1, x, k, hx, hp, hbelow => by
    have hy : p y = false := hbelow 0 y (Nat.succ_pos i) rfl
    have hrest := findFrom_first (l := ys) (i := i) (k + 1) (by simpa using hx) hp
      fun j z hj hz => hbelow (j + 1) z (Nat.succ_lt_succ hj) (by simpa using hz)
    simp only [findFrom, hy, Bool.false_eq_true, if_false, hrest]
    congr 1
    omega

theorem findN_first {α : Type} {p : α → Bool} {l : List α} {i : Nat} {x : α} (hx : getN l i = some x) (hp : p x = true)
    (hbelow : ∀ j y, j < i → getN l j = some y → p y = false) : findN p l = some i := by
  cases i with
  | zero => cases hx
  | succ i =>
    rw [findN, findFrom_first 1 hx hp fun j y hj hy => hbelow (j + 1) y (Nat.succ_lt_succ hj) hy, Nat.add_comm]

theorem findN_none {α : Type} {p : α → Bool} {l : List α} (h : ∀ x ∈ l, p x = false) : findN p l = none := by
  rcases hf : findN p l with _ | m
  · rfl
  · obtain ⟨x, hx, hp⟩ := findN_some hf
    rw [h x (mem_of_getN hx)] at hp
    cases hp

theorem takeOnce_empty {s : State} (h : s.pgu.queue = []) : takeOnce s = s := by simp [takeOnce, h]

theorem takeOnce_busy {s : State} (h : ∀ x ∈ s.pgu.engines, x.isSome = true) : takeOnce s = s := by
  have hfull : findN (fun e => Option.isNone e) s.pgu.engines = none :=
    findN_none fun x hx => by simpa using h x hx
  cases hq : s.pgu.queue <;> simp [takeOnce, hq, hfull]

theorem repeat_fixed {α : Type} {f : α → α} {a : α} (h : f a = a) : ∀ n, Nat.repeat f n a = a
  | 0 => rfl
  | n + 1 => by rw [Nat.repeat, repeat_fixed h n, h]

theorem takeAll_fixed {s : State} (h : takeOnce s = s) : takeAll s = s := repeat_fixed h 6

/-- With one channel waiting, the lowest IDLE engine takes it, and the queue is empty (R143). -/
theorem takeAll_one {s : State} {n i : Nat} (hq : s.pgu.queue = [n])
    (hi : findN (fun e => Option.isNone e) s.pgu.engines = some i) :
    takeAll s = setEngine i (some { chan := n, windowAt := s.clock + windowOf n s * 1000 })
      (modChan n (fun c => { c with req := .measuring }) { s with pgu := { s.pgu with queue := [] } }) := by
  have honce : takeOnce s = setEngine i (some { chan := n, windowAt := s.clock + windowOf n s * 1000 })
      (modChan n (fun c => { c with req := .measuring }) { s with pgu := { s.pgu with queue := [] } }) := by
    simp only [takeOnce, hq, hi]
  have hshift (a : State) : takeAll a = Nat.repeat takeOnce 5 (takeOnce a) := rfl
  rw [hshift, honce]
  exact repeat_fixed (takeOnce_empty rfl) 5

theorem exec_intervalExpiry {t n : Nat} {s : State} {r : Chan} {k : ChanCfg} (hr : getN s.pgu.chans n = some r)
    (hk : getN s.cfg.chans n = some k) :
    exec (.intervalExpiry t n) s = if due (max s.clock t / 1000) r.intervalAt then
      .next (intervalExpired n k r (setClock t s)) else .next (setClock t s) := by
  show execIntervalExpiry t n s = _
  simp only [execIntervalExpiry, setClock_pgu, setClock_cfg, hr, hk]
  rfl

/-- Settles O56: each of the three effects of an interval expiry by the request state. -/
theorem intervalRequests : Obligations.IntervalRequests := by
  intro t n s r k hr hk
  refine ⟨fun e he hreached => ?_, fun hdue => by rw [exec_intervalExpiry hr hk, hdue]; rfl⟩
  have hexec : exec (.intervalExpiry t n) s = .next (intervalExpired n k r (setClock t s)) := by
    rw [exec_intervalExpiry hr hk, he, due_some.2 hreached]
    rfl
  have hn := getN_lt hr
  refine ⟨fun hreq => ⟨_, hexec, ?_⟩, fun hreq hbusy => ⟨_, hexec, ?_⟩, fun i hreq hempty hi hbelow => ⟨_, hexec, ?_⟩⟩
  · have hcounts : intervalExpired n k r (setClock t s) = modChan n (fun c => { c with overrun := sat16 (c.overrun + 1) })
        (modChan n (fun c => { c with intervalAt := restartTimer k.interval c.intervalAt }) (setClock t s)) := by
      cases hcase : r.req
      · exact absurd hcase hreq
      · simp only [intervalExpired, hcase, requestChan]
      · simp only [intervalExpired, hcase, requestChan]
    rw [hcounts]
    refine ⟨?_, rfl, rfl, fun m hm => ?_⟩
    · simp [hr, he, restartTimer, sat16]
    · simp [getN_modN_ne (Ne.symm hm)]
  · have hwaits : intervalExpired n k r (setClock t s) = joinQueue n
        (modChan n (fun c => { c with intervalAt := restartTimer k.interval c.intervalAt }) (setClock t s)) := by
      simp only [intervalExpired, hreq, requestChan]
      exact takeAll_fixed (takeOnce_busy hbusy)
    rw [hwaits]
    refine ⟨?_, rfl, rfl⟩
    simp [joinQueue, hr, he, restartTimer]
  · have htaken : findN (fun e => Option.isNone e) s.pgu.engines = some i :=
      findN_first hi rfl fun j x hj hx => by
        cases x
        · exact absurd hx (hbelow j hj)
        · rfl
    have hqueue : (joinQueue n (modChan n (fun c => { c with intervalAt := restartTimer k.interval c.intervalAt })
        (setClock t s))).pgu.queue = [n] := by simp [joinQueue, modChan, hempty]
    simp only [intervalExpired, hreq, requestChan]
    rw [takeAll_one hqueue htaken]
    refine ⟨?_, rfl, ?_, fun j hj => ?_⟩
    · simp [setEngine, joinQueue, hr, he, restartTimer]
    · simp [setEngine, joinQueue, modChan, hi, windowOf, hk]
    · simp [setEngine, joinQueue, modChan, getN_modN_ne (Ne.symm hj)]

/-! ## Results (R148 to R151) -/

/-- A result made: the channel's record notes it, its owner takes it, and the channel and its engine are free. -/
def freeChan (e n : Nat) (s : State) : State :=
  takeAll (setEngine e none (modChan n (fun q => { q with req := .idle }) s))

def notedResult (n : Nat) (h : Health) (run : Nat) (o : Outcome) (s : State) : State :=
  modChan n (fun q => { q with health := h, noPulse := run, last := some (o, s.now) }) s

section
variable {e n : Nat} {s : State} {k : ChanCfg} {c : Chan} (hk : getN s.cfg.chans n = some k)
  (hc : getN s.pgu.chans n = some c) {r : Result}
include hk hc

theorem makeResult_eq {h : Health} {run : Nat}
    (hj : judgeHealth k.deadCount r.outcome c = { c with health := h, noPulse := run }) :
    makeResult e n r s = freeChan e n (deliverResult k r c.health h (notedResult n h run r.outcome s)) := by
  have hnoted : modChan n (fun _ => { judgeHealth k.deadCount r.outcome c with last := some (r.outcome, s.now) }) s =
      notedResult n h run r.outcome s := by
    have hrecord := modN_congr hc
      (f := fun _ => { judgeHealth k.deadCount r.outcome c with last := some (r.outcome, s.now) })
      (g := fun q => { q with health := h, noPulse := run, last := some (r.outcome, s.now) }) (by rw [hj])
    rw [modChan, hrecord]
    rfl
  simp only [makeResult, hk, hc]
  rw [hnoted, hj]
  rfl

/-- A good result goes to the channel's owner, and the channel's health is OK (R148, R150, R151). -/
theorem makeResult_good (hgood : r.outcome ≠ .noPulse) :
    makeResult e n r s = freeChan e n (deliverGood k.kind (k.binding.getD 0) r (notedResult n .ok 0 r.outcome s)) := by
  have hj : judgeHealth k.deadCount r.outcome c = { c with health := .ok, noPulse := 0 } := by
    cases ho : r.outcome
    · rfl
    · rfl
    · exact absurd ho hgood
  rw [makeResult_eq hk hc hj]
  simp only [deliverResult, if_neg hgood]

variable (ho : r.outcome = .noPulse)
include ho

/-- The NO_PULSE that makes the channel DEAD: the owner takes the DEAD notice (R149). -/
theorem makeResult_dies (hok : c.health = .ok) (hdead : k.deadCount ≤ min (c.noPulse + 1) 65535) :
    makeResult e n r s = freeChan e n (deliverDead k.kind (k.binding.getD 0)
      (notedResult n .dead (min (c.noPulse + 1) 65535) r.outcome s)) := by
  have hj : judgeHealth k.deadCount r.outcome c = { c with health := .dead, noPulse := min (c.noPulse + 1) 65535 } := by
    rw [ho]
    simp only [judgeHealth, if_pos (show k.deadCount ≤ sat16 (c.noPulse + 1) from hdead)]
    rfl
  rw [makeResult_eq hk hc hj]
  simp [deliverResult, ho, hok]

/-- A NO_PULSE of a channel that stays as it is: the owner takes it with the health left (R149). -/
theorem makeResult_stays (h : Health) (hh : h = if k.deadCount ≤ min (c.noPulse + 1) 65535 then .dead else c.health)
    (hstays : ¬ (c.health = .ok ∧ h = .dead)) :
    makeResult e n r s = freeChan e n (deliverNoPulse k.kind (k.binding.getD 0) h
      (notedResult n h (min (c.noPulse + 1) 65535) r.outcome s)) := by
  have hj : judgeHealth k.deadCount r.outcome c = { c with health := h, noPulse := min (c.noPulse + 1) 65535 } := by
    rw [ho, hh]
    rfl
  rw [makeResult_eq hk hc hj]
  simp only [deliverResult, if_pos ho, if_neg hstays]

end

/-- What a result leaves where nothing waits: the engine free and the channel IDLE with the result noted (R148). -/
theorem makeResult_record {e n : Nat} {s : State} {k : ChanCfg} {c : Chan} (hk : getN s.cfg.chans n = some k)
    (hc : getN s.pgu.chans n = some c) (hempty : s.pgu.queue = []) (r : Result) :
    measOf e (makeResult e n r s) = none ∧ (makeResult e n r s).now = s.now ∧
      getN (makeResult e n r s).pgu.chans n =
        some { judgeHealth k.deadCount r.outcome c with last := some (r.outcome, s.now), req := .idle } := by
  generalize hj : judgeHealth k.deadCount r.outcome c = j
  generalize hd : deliverResult k r c.health j.health (modChan n (fun _ => { j with last := some (r.outcome, s.now) }) s) = d
  have hreacts : Reacts (modChan n (fun _ => { j with last := some (r.outcome, s.now) }) s) d := hd ▸ deliverResult_reacts ..
  have hresult : makeResult e n r s = freeChan e n d := by
    simp only [makeResult, hk, hc, hj, hd]
    rfl
  have hqueue : (setEngine e none (modChan n (fun q => { q with req := .idle }) d)).pgu.queue = [] := by
    simp [setEngine, modChan, hreacts.pgu, hempty]
  rw [hresult, freeChan, takeAll_fixed (takeOnce_empty hqueue)]
  refine ⟨?_, ?_, ?_⟩
  · simp only [measOf, setEngine, getN_modN_self]
    cases getN (modChan n (fun q => { q with req := .idle }) d).pgu.engines e <;> rfl
  · simp only [State.now, setEngine, modChan_clock, hreacts.clock]
  · simp [setEngine, hreacts.pgu, hc]

/-! ## Measuring (R144 to R147) -/

/-- The measurement `m` of engine `e` set in its place, with the clock moved on. -/
theorem edge_counted {t e : Nat} {s : State} {m : Meas} (hm : measOf e s = some m) (m' : Meas) :
    measOf e (setEngine e (some m') (setClock t s)) = some m' ∧
      setEngine e (some m') (setClock t s) = { s with
        clock := max s.clock t, pgu := { s.pgu with engines := (setEngine e (some m') (setClock t s)).pgu.engines } } := by
  refine ⟨?_, rfl⟩
  obtain ⟨x, hx, -⟩ := Option.join_eq_some_iff.1 hm |> fun h => (⟨_, h, rfl⟩ : ∃ x, getN s.pgu.engines e = some x ∧ x = some m)
  simp [measOf, setEngine, hx]

section
variable {t n e : Nat} {s : State} {k : ChanCfg} {m : Meas}

theorem underMeasure_free (he : engineOf n s = none) : underMeasure n s = none := by
  cases hk : getN s.cfg.chans n <;> simp [underMeasure, hk, he]

variable (hk : getN s.cfg.chans n = some k) (he : engineOf n s = some e) (hm : measOf e s = some m)
include hk he hm

theorem underMeasure_held : underMeasure n s = some (k, e, m) := by simp only [underMeasure, hk, he, hm]

theorem exec_periodEdge (hmode : periodMode k.kind = true) (edge : Edge) : exec (.periodEdge t n edge) s =
    if k.edge = edge then .next (applyEdge e n (periodEdgeStep k.count (max s.clock t) m) (setClock t s))
      else .next (setClock t s) := by
  have hheld : underMeasure n (setClock t s) = some (k, e, m) := underMeasure_held (s := setClock t s) hk he hm
  show execPeriodEdge t n edge s = _
  simp only [execPeriodEdge, hheld, hmode, Bool.true_and, decide_eq_true_eq]
  rfl

theorem exec_dutyEdge (hkind : k.kind = .angle) (edge : Edge) : exec (.dutyEdge t n edge) s =
    .next (applyEdge e n (dutyEdgeStep k.count (max s.clock t) edge m) (setClock t s)) := by
  have hheld : underMeasure n (setClock t s) = some (k, e, m) := underMeasure_held (s := setClock t s) hk he hm
  show execDutyEdge t n edge s = _
  simp only [execDutyEdge, hheld, if_pos hkind]
  rfl

theorem exec_periodWindowExpiry (hmode : periodMode k.kind = true) : exec (.periodWindowExpiry t n) s =
    if m.windowAt ≤ max s.clock t then .next (makeResult e n (periodWindowResult m) (setClock t s))
      else .next (setClock t s) := by
  have hheld : underMeasure n (setClock t s) = some (k, e, m) := underMeasure_held (s := setClock t s) hk he hm
  show execPeriodWindowExpiry t n s = _
  simp only [execPeriodWindowExpiry, hheld, hmode, Bool.true_and, decide_eq_true_eq]
  rfl

theorem exec_dutyWindowExpiry (hkind : k.kind = .angle) : exec (.dutyWindowExpiry t n) s =
    if m.windowAt ≤ max s.clock t then .next (makeResult e n (dutyWindowResult m) (setClock t s))
      else .next (setClock t s) := by
  have hheld : underMeasure n (setClock t s) = some (k, e, m) := underMeasure_held (s := setClock t s) hk he hm
  show execDutyWindowExpiry t n s = _
  simp only [execDutyWindowExpiry, hheld, hkind, true_and]
  rfl

end

theorem setEngine_same {t n e : Nat} {s : State} {m : Meas} (hm : measOf e s = some m) :
    applyEdge e n (.inl m) (setClock t s) = setClock t s := by
  have hx : getN (setClock t s).pgu.engines e = some (some m) := Option.join_eq_some_iff.1 hm
  have hset : modN (setClock t s).pgu.engines e (fun _ => some m) = (setClock t s).pgu.engines := by
    obtain ⟨a, b, heq, hset⟩ := getN_split hx
    rw [hset, heq]
  show setEngine e (some m) (setClock t s) = _
  rw [setEngine, hset]

/-- Settles O57: by the phase of the measurement and the edge. -/
theorem edgesCounted : Obligations.EdgesCounted := by
  intro t n e edge s k m
  refine ⟨fun hfree => ?_, fun hk he hm => ⟨fun hmode => ?_, fun hkind => ?_⟩⟩
  · have hnone : underMeasure n (setClock t s) = none := underMeasure_free (s := setClock t s) hfree
    constructor
    · show execPeriodEdge t n edge s = _
      simp only [execPeriodEdge, hnone]
    · show execDutyEdge t n edge s = _
      simp only [execDutyEdge, hnone]
  · have hexec := exec_periodEdge (t := t) hk he hm hmode edge
    refine ⟨fun hedge => by rw [hexec, if_neg hedge], fun hedge hphase => ?_, fun hedge hphase hcount => ?_,
      fun c hedge hphase hcount hc hempty => ?_⟩
    all_goals rw [hexec, if_pos hedge]
    · simp only [periodEdgeStep, hphase]
      exact ⟨_, rfl, edge_counted hm _⟩
    · simp only [periodEdgeStep, hphase, if_neg (Nat.not_le.2 hcount)]
      exact ⟨_, rfl, edge_counted hm _⟩
    · simp only [periodEdgeStep, hphase, if_pos hcount]
      obtain ⟨hfreed, hnow, hrecord⟩ := makeResult_record (s := setClock t s) hk hc hempty
        (goodResult .complete (m.count + 1) (max s.clock t - m.start) 0)
      exact ⟨_, _, rfl, hfreed, hrecord, congrArg (fun now => some (Outcome.complete, now)) hnow.symm, rfl, rfl, rfl⟩
  · have hexec := exec_dutyEdge (t := t) hk he hm hkind edge
    refine ⟨fun hother => ?_, fun hedge hphase => ?_, fun hedge hphase => ?_, fun hedge hphase hcount => ?_,
      fun c hedge hphase hcount hc hempty => ?_⟩
    all_goals rw [hexec]
    · have hkeeps : dutyEdgeStep k.count (max s.clock t) edge m = .inl m := by
        rcases hother with ⟨rfl, hphase⟩ | ⟨rfl, hphase⟩
        · cases hcase : m.phase <;> simp_all [dutyEdgeStep]
        · simp only [dutyEdgeStep, hphase]
      rw [hkeeps, setEngine_same hm]
    all_goals subst hedge
    · simp only [dutyEdgeStep, hphase]
      exact ⟨_, rfl, edge_counted hm _⟩
    · simp only [dutyEdgeStep, hphase]
      exact ⟨_, rfl, edge_counted hm _⟩
    · simp only [dutyEdgeStep, hphase, if_neg (Nat.not_le.2 hcount)]
      exact ⟨_, rfl, edge_counted hm _⟩
    · simp only [dutyEdgeStep, hphase, if_pos hcount]
      obtain ⟨hfreed, hnow, hrecord⟩ := makeResult_record (s := setClock t s) hk hc hempty
        (goodResult .complete (m.count + 1) (m.cycleSum + (max s.clock t - m.start)) (m.highSum + (m.lastEdge - m.start)))
      exact ⟨_, _, rfl, hfreed, hrecord, congrArg (fun now => some (Outcome.complete, now)) hnow.symm, rfl, rfl, rfl⟩

theorem periodWindowResult_none {m : Meas} (h : m.phase = .arming ∨ m.count = 0) : periodWindowResult m = noPulseResult :=
  if_pos h

theorem periodWindowResult_some {m : Meas} (hp : m.phase ≠ .arming) (hc : m.count ≠ 0) :
    periodWindowResult m = goodResult .partialCount m.count (m.lastEdge - m.start) 0 :=
  if_neg (not_or.2 ⟨hp, hc⟩)

/-- The three ways in which the owner takes a NO_PULSE (R149), and the good result (R150, R151), kind by kind. -/
theorem resultTaken (e n : Nat) (s : State) (k : ChanCfg) (c : Chan) (r : Result) (hk : getN s.cfg.chans n = some k)
    (hc : getN s.pgu.chans n = some c) :
    let b := k.binding.getD 0
    let run := min (c.noPulse + 1) 65535
    let good := notedResult n .ok 0 r.outcome s
    let dead := notedResult n .dead run r.outcome s
    (r.outcome ≠ .noPulse →
      (k.kind = .rpm → makeResult e n r s = freeChan e n (rpmResult b r.count r.elapsed good)) ∧
      (k.kind = .flow → makeResult e n r s = freeChan e n (flowResult b r.count r.elapsed good)) ∧
      (k.kind = .angle → makeResult e n r s = freeChan e n (angleResult b r.high r.elapsed good)) ∧
      (k.kind = .load → makeResult e n r s = freeChan e n (loadResult b r.count r.elapsed good)) ∧
      (k.kind = .level → makeResult e n r s = freeChan e n (levelResult b r.count r.elapsed good)) ∧
      (k.kind = .xferMeter → makeResult e n r s = freeChan e n (transferResult r.count good)) ∧
      (k.kind = .bunkerMeter → makeResult e n r s = freeChan e n (bunkerResult r.count good))) ∧
    (r.outcome = .noPulse → c.health = .ok → k.deadCount ≤ run →
      (k.kind = .rpm → makeResult e n r s = freeChan e n (rpmDead b dead)) ∧
      (k.kind = .flow → makeResult e n r s = freeChan e n (estimateNotice b dead)) ∧
      (k.kind = .angle → makeResult e n r s = freeChan e n (angleDead b dead)) ∧
      (k.kind = .load → makeResult e n r s = freeChan e n (loadDead b dead)) ∧
      (k.kind = .level → makeResult e n r s = freeChan e n dead) ∧
      (k.kind = .xferMeter → makeResult e n r s = freeChan e n (transferMeterDead dead)) ∧
      (k.kind = .bunkerMeter → makeResult e n r s = freeChan e n (bunkerMeterDead dead))) ∧
    (r.outcome = .noPulse → c.health = .dead →
      ((k.kind = .rpm ∨ k.kind = .flow ∨ k.kind = .angle ∨ k.kind = .load ∨ k.kind = .level) →
        makeResult e n r s = freeChan e n dead) ∧
      (k.kind = .xferMeter → makeResult e n r s = freeChan e n (transferMeterDead dead)) ∧
      (k.kind = .bunkerMeter → makeResult e n r s = freeChan e n (bunkerMeterDead dead))) ∧
    (r.outcome = .noPulse → c.health = .ok → run < k.deadCount →
      (k.kind = .flow → makeResult e n r s = freeChan e n (setRate b 0 (notedResult n .ok run r.outcome s))) ∧
      (k.kind ≠ .flow → makeResult e n r s = freeChan e n (notedResult n .ok run r.outcome s))) := by
  intro b run good dead
  refine ⟨fun ho => ?_, fun ho hok hdead => ?_, fun ho hdead => ?_, fun ho hok hlive => ?_⟩
  · have h := makeResult_good (e := e) hk hc ho
    refine ⟨?_, ?_, ?_, ?_, ?_, ?_, ?_⟩ <;> intro hkind <;> rw [h, hkind] <;> rfl
  · have h := makeResult_dies (e := e) hk hc ho hok hdead
    refine ⟨?_, ?_, ?_, ?_, ?_, ?_, ?_⟩ <;> intro hkind <;> rw [h, hkind] <;> rfl
  · have h := makeResult_stays (e := e) hk hc ho .dead (by rw [hdead]; exact (ite_self _).symm) (by simp [hdead])
    refine ⟨?_, ?_, ?_⟩
    · rintro (hkind | hkind | hkind | hkind | hkind) <;> rw [h, hkind] <;> rfl
    · intro hkind; rw [h, hkind]; rfl
    · intro hkind; rw [h, hkind]; rfl
  · have h := makeResult_stays (e := e) hk hc ho .ok (by rw [hok, if_neg (Nat.not_le.2 hlive)]) (by simp)
    refine ⟨fun hkind => ?_, fun hkind => ?_⟩
    · rw [h, hkind]; rfl
    · rw [h]
      cases hcase : k.kind
      case flow => exact absurd hcase hkind
      all_goals rfl

/-- Settles O58: the measurement's end by what it has counted, and the result by its owner. -/
theorem periodWindowEnds : Obligations.PeriodWindowEnds := by
  refine ⟨fun t n e s k m c hk hmode he hm hc => ?_, fun e n s k c r hk hc => resultTaken e n s k c r hk hc⟩
  have hexec := exec_periodWindowExpiry (t := t) hk he hm hmode
  refine ⟨fun hend => ⟨fun hnone => ?_, fun hp hcount => ?_⟩, fun hphase hcount => ?_, fun hend hempty => ?_, fun hbefore => ?_⟩
  · rw [hexec, if_pos hend, periodWindowResult_none hnone]
    rfl
  · rw [hexec, if_pos hend, periodWindowResult_some hp hcount]
    rfl
  · rw [exec_periodEdge hk he hm hmode, if_pos rfl]
    simp only [periodEdgeStep, hphase, hcount, le_refl, if_true]
    rfl
  · obtain ⟨hfreed, hnow, hrecord⟩ :=
      makeResult_record (s := setClock t s) hk hc hempty (periodWindowResult m)
    rw [hexec, if_pos hend]
    refine ⟨_, _, rfl, hfreed, hrecord, rfl, ?_, fun hnone => ?_, fun hp hcount => ?_⟩
    · cases ho : (periodWindowResult m).outcome <;> rfl
    · rw [hnow, periodWindowResult_none hnone]
      exact ⟨rfl, rfl, rfl⟩
    · rw [hnow, periodWindowResult_some hp hcount]
      exact ⟨rfl, rfl, rfl⟩
  · rw [hexec, if_neg (Nat.not_le.2 hbefore)]

/-- Settles O59: the measurement's end by the cycles it has counted, and beside its last edge. -/
theorem dutyWindowEnds : Obligations.DutyWindowEnds := by
  intro t n e s k m c hk hkind he hm hc
  have hexec := exec_dutyWindowExpiry (t := t) hk he hm hkind
  refine ⟨fun hend => ⟨fun hnone => ?_, fun hsome => ?_, fun hphase hcount => ?_⟩, fun hend hempty => ?_, fun hbefore => ?_⟩
  · rw [hexec, if_pos hend, dutyWindowResult, if_pos hnone]
    rfl
  · rw [hexec, if_pos hend, dutyWindowResult, if_neg hsome]
    rfl
  · rw [exec_dutyEdge hk he hm hkind]
    simp only [dutyEdgeStep, hphase, hcount, le_refl, if_true]
    rfl
  · obtain ⟨hfreed, hnow, hrecord⟩ := makeResult_record (s := setClock t s) hk hc hempty (dutyWindowResult m)
    rw [hexec, if_pos hend]
    refine ⟨_, _, rfl, hfreed, hrecord, rfl, ?_⟩
    rw [hnow]
    by_cases hnone : m.count = 0
    · simp only [dutyWindowResult, if_pos hnone]
      rfl
    · simp only [dutyWindowResult, if_neg hnone]
      rfl
  · rw [hexec, if_neg (Nat.not_le.2 hbefore)]

end Sys2Proof.Machine
end

section
/-!
PROOFS. Period starts, writes and the pins of the drive lines (O60).
-/

namespace Sys2Proof.Machine

/-! ## The turn-offs of a period start (R159) -/

/-- A line after the first half of a period start. -/
def turnedOff (cfg : Cfg) (now n : Nat) (l : Line) : Line :=
  if l.pendingDuty = some 0 ∨ partnerLine n cfg = none then applyPending now l else l

theorem applyPending_idle {now : Nat} {l : Line} (h : l.pendingDuty = none) : applyPending now l = l := by
  simp [applyPending, h]

theorem applyPending_on {now d : Nat} {l : Line} (hd : l.pendingDuty = some d) (h0 : 0 < d) :
    applyPending now l = { l with applied := some d, pendingDuty := none, holdAt := none } := by
  have hne : ¬ (d = 0 ∧ appliedAbove0 l = true) := fun h => Nat.ne_of_gt h0 h.1
  simp only [applyPending, hd, if_neg hne]

theorem applyPending_fresh {now d : Nat} {l : Line} (hd : l.pendingDuty = some d) (h0 : 0 < d) (hhold : l.holdAt = none) :
    applyPending now l = { l with applied := some d, pendingDuty := none } := by
  rw [applyPending_on hd h0, hhold]

theorem modN_self {α : Type} {l : List α} {n : Nat} {x : α} (hx : getN l n = some x) {f : α → α} (hf : f x = x) :
    modN l n f = l := by
  obtain ⟨a, b, heq, hset⟩ := getN_split hx
  rw [hset, hf, heq]

theorem applyOffs_eq (cfg : Cfg) (now n : Nat) (lines : List Line) :
    applyOffs cfg now lines n = modN lines n (turnedOff cfg now n) := by
  unfold applyOffs
  cases hl : getN lines n with
  | none => 
    simp only
    cases n with
    | zero => rfl
    | succ i => simp only [modN, changeAt_eq_modify]; exact (List.modify_eq_self (by simpa using hl)).symm
  | some l =>
    rcases hd : l.pendingDuty with _ | d
    · have hself : turnedOff cfg now n l = l := by simp [turnedOff, applyPending_idle hd]
      simp only [hd, modN_self hl hself]
    · have hoffs (h : d = 0 ∨ partnerLine n cfg = none) : applyPending now l = turnedOff cfg now n l := by
        simp [turnedOff, hd, h]
      cases d with
      | zero => simpa only [hd] using modN_congr hl (hoffs (.inl rfl))
      | succ d =>
        cases hp : partnerLine n cfg with
        | none => simpa only [hd] using modN_congr hl (hoffs (.inr hp))
        | some p =>
          have hself : turnedOff cfg now n l = l := by simp [turnedOff, hd, hp]
          simp only [hd, modN_self hl hself]

theorem offs_line (cfg : Cfg) (now : Nat) {lines : List Line} {n : Nat} (hlen : lines.length = 24) {l : Line}
    (hl : getN lines n = some l) :
    getN ((numbers 24).foldl (applyOffs cfg now) lines) n = some (turnedOff cfg now n l) := by
  obtain ⟨a, ha, hend⟩ := foldl_visits (R := fun a b => getN b n = getN a n) (f := applyOffs cfg now) (fun _ => rfl)
    (fun h k => k.trans h) (fun a m hm => by rw [applyOffs_eq, getN_modN_ne hm]) (numbers_nodup 24)
    (hlen ▸ mem_numbers_of_getN hl) lines
  rw [hend, applyOffs_eq, getN_modN_self, ha, hl]
  rfl

/-! ## The turn-ons of a period start (R159, R160) -/

/-- A line of a pair with a pending duty above 0, and its partner, after the second half of a period start. -/
def turnedOn (cfg : Cfg) (now n p : Nat) (l q : Line) : Line × Line :=
  match l.holdAt with
  | some h => if h ≤ now then (applyPending now l, q) else (l, q)
  | none =>
    if lineDriven n cfg l then (applyPending now l, q)
    else if lineDriven p cfg q then
      if cfg.deadZone = 0 then (applyPending now l, forceOff now q)
      else (holdLine (now + cfg.deadZone) l, forceOff now q)
    else
      match q.offTime with
      | some o => if now < o + cfg.deadZone then (holdLine (o + cfg.deadZone) l, q) else (applyPending now l, q)
      | none => (applyPending now l, q)

section
variable {cfg : Cfg} {now n p : Nat} {l q : Line}

theorem turnedOn_held {h : Nat} (hhold : l.holdAt = some h) :
    turnedOn cfg now n p l q = (if h ≤ now then applyPending now l else l, q) := by
  simp only [turnedOn, hhold]
  split <;> rfl

variable (hhold : l.holdAt = none)
include hhold

theorem turnedOn_driven (hl : lineDriven n cfg l = true) : turnedOn cfg now n p l q = (applyPending now l, q) := by
  simp only [turnedOn, hhold, if_pos hl]

variable (hl : lineDriven n cfg l = false)
include hl

/-- A driven partner with nothing pending is forced off, and the line waits for the dead zone (R159). -/
theorem turnedOn_forced (hq : lineDriven p cfg q = true) : turnedOn cfg now n p l q =
    (if cfg.deadZone = 0 then applyPending now l else holdLine (now + cfg.deadZone) l, forceOff now q) := by
  simp only [turnedOn, hhold, hl, Bool.false_eq_true, if_false, if_pos hq]
  split <;> rfl

variable (hq : lineDriven p cfg q = false)
include hq

theorem turnedOn_waits {o : Nat} (ho : q.offTime = some o) (h : now < o + cfg.deadZone) :
    turnedOn cfg now n p l q = (holdLine (o + cfg.deadZone) l, q) := by
  simp only [turnedOn, hhold, hl, hq, Bool.false_eq_true, if_false, ho, if_pos h]

theorem turnedOn_over (h : ∀ o, q.offTime = some o → o + cfg.deadZone ≤ now) :
    turnedOn cfg now n p l q = (applyPending now l, q) := by
  simp only [turnedOn, hhold, hl, hq, Bool.false_eq_true, if_false]
  cases ho : q.offTime with
  | none => rfl
  | some o => exact if_neg (Nat.not_lt.2 (h o ho))

end

theorem turnOn_idle {cfg : Cfg} {now n : Nat} {lines : List Line}
    (h : ∀ l, getN lines n = some l → l.pendingDuty = none ∨ partnerLine n cfg = none) :
    turnOn cfg now lines n = lines := by
  unfold turnOn
  cases hl : getN lines n with
  | none => rfl
  | some l =>
    rcases h l hl with hd | hp
    · simp only [hd]
    · rcases hd : l.pendingDuty with _ | _ | d <;> simp only [hp, hd]

theorem turnOn_others {cfg : Cfg} {now n m : Nat} {lines : List Line} (hn : m ≠ n) (hp : partnerLine n cfg ≠ some m) :
    getN (turnOn cfg now lines n) m = getN lines m := by
  unfold turnOn
  split
  · split
    next p _ hpart =>
      have hpm : p ≠ m := fun h => hp (h ▸ hpart)
      split
      · split <;> simp [getN_modN_ne (Ne.symm hn)]
      · split
        · simp [getN_modN_ne (Ne.symm hn)]
        · unfold judgeTurnOn
          split
          · simp [getN_modN_ne (Ne.symm hn)]
          · split
            · split <;> simp [getN_modN_ne (Ne.symm hn), getN_modN_ne hpm]
            · split
              · split <;> simp [getN_modN_ne (Ne.symm hn)]
              · simp [getN_modN_ne (Ne.symm hn)]
    · rfl
  · rfl

section
variable {cfg : Cfg} {now n p : Nat} {lines : List Line} {l q : Line} (hp : partnerLine n cfg = some p)
  (hl : getN lines n = some l) (hq : getN lines p = some q)
include hp hl hq

theorem turnOn_pairOf (hd : pendingAbove0 l = true) :
    getN (turnOn cfg now lines n) n = some (turnedOn cfg now n p l q).1 ∧
      getN (turnOn cfg now lines n) p = some (turnedOn cfg now n p l q).2 := by
  have hne := partner_ne hp
  rcases hpend : l.pendingDuty with _ | _ | d
  · simp [pendingAbove0, hpend] at hd
  · simp [pendingAbove0, hpend] at hd
  · simp only [turnOn, hl, hpend, hp, turnedOn]
    cases l.holdAt with
    | some h => by_cases hh : h ≤ now <;> simp [hh, hl, hq, getN_modN_ne hne]
    | none =>
      by_cases hdl : lineDriven n cfg l = true
      · simp [hdl, hl, hq, getN_modN_ne hne]
      · by_cases hdq : lineDriven p cfg q = true
        · by_cases hz : cfg.deadZone = 0 <;>
            simp [hdl, hdq, hz, judgeTurnOn, hl, hq, getN_modN_ne hne, getN_modN_ne (Ne.symm hne)]
        · rcases ho : q.offTime with _ | o
          · simp [hdl, hdq, ho, judgeTurnOn, hl, hq, getN_modN_ne hne]
          · by_cases hlt : now < o + cfg.deadZone <;>
              simp [hdl, hdq, ho, hlt, judgeTurnOn, hl, hq, getN_modN_ne hne]

omit hp hl hq in
theorem turnedOn_partner (hidle : q.pendingDuty = none) : (turnedOn cfg now n p l q).2.pendingDuty = none := by
  unfold turnedOn
  split
  · split <;> exact hidle
  · split
    · exact hidle
    · split
      · split <;> exact hidle
      · split
        · split <;> exact hidle
        · exact hidle

/-- The turn-ons of all lines leave a pair as its one turn-on left it (R159). -/
theorem turnOns_pair (u : AssignedOnce cfg) (hlen : lines.length = 24) (hd : pendingAbove0 l = true)
    (hidle : q.pendingDuty = none) :
    getN ((numbers 24).foldl (turnOn cfg now) lines) n = some (turnedOn cfg now n p l q).1 ∧
      getN ((numbers 24).foldl (turnOn cfg now) lines) p = some (turnedOn cfg now n p l q).2 := by
  let Keeps (a b : List Line) : Prop := ∀ x y, getN a n = some x → getN a p = some y → y.pendingDuty = none →
    getN b n = some x ∧ getN b p = some y
  have visit (a : List Line) (m : Nat) (hm : m ≠ n) : Keeps a (turnOn cfg now a m) := by
    intro x y hx hy hyidle
    by_cases hmp : m = p
    · rw [turnOn_idle fun z hz => .inl (by subst hmp; rw [← Option.some.inj (hy.symm.trans hz), hyidle])]
      exact ⟨hx, hy⟩
    · have hmn : partnerLine m cfg ≠ some n := fun h => hmp (partner_unique (partner_symm u h) hp)
      have hmp' : partnerLine m cfg ≠ some p := fun h => hm (partner_unique (partner_symm u h) (partner_symm u hp))
      exact ⟨(turnOn_others (Ne.symm hm) hmn).trans hx, (turnOn_others (Ne.symm hmp) hmp').trans hy⟩
  obtain ⟨a, ha, hend⟩ := foldl_visits (R := Keeps) (fun _ _ _ hx hy _ => ⟨hx, hy⟩)
    (fun h k x y hx hy hi => by obtain ⟨hx', hy'⟩ := h x y hx hy hi; exact k x y hx' hy' hi)
    visit (numbers_nodup 24) (hlen ▸ mem_numbers_of_getN hl) lines
  obtain ⟨hal, haq⟩ := ha l q hl hq hidle
  obtain ⟨hon, hop⟩ := turnOn_pairOf (now := now) hp hal haq hd
  exact hend _ _ hon hop (turnedOn_partner hidle)

end

/-- The turn-ons leave a line with nothing pending that no partner forces off. -/
theorem turnOns_rest {cfg : Cfg} (u : AssignedOnce cfg) (now : Nat) {lines : List Line} {n : Nat} {l : Line}
    (hl : getN lines n = some l) (hidle : l.pendingDuty = none)
    (hfree : partnerLine n cfg = none ∨ lineDriven n cfg l = false) (ns : List Nat) :
    getN (ns.foldl (turnOn cfg now) lines) n = some l := by
  induction ns generalizing lines with
  | nil => exact hl
  | cons m ms ih =>
    refine ih ?_
    by_cases hmn : m = n
    · rw [turnOn_idle fun z hz => .inl (by subst hmn; rw [← Option.some.inj (hl.symm.trans hz), hidle])]
      exact hl
    · by_cases hpart : partnerLine m cfg = some n
      · rcases hfree with hnone | hoff
        · rw [partner_symm u hpart] at hnone
          cases hnone
        · cases hm : getN lines m with
          | none => rw [turnOn_idle fun z hz => by rw [hm] at hz; cases hz]; exact hl
          | some x =>
            by_cases hx : pendingAbove0 x = true
            · rw [(turnOn_pairOf hpart hm hl hx).2]
              unfold turnedOn
              simp only [hoff, Bool.false_eq_true, if_false]
              split
              · split <;> rfl
              · split
                · rfl
                · split
                  · split <;> rfl
                  · rfl
            · have hnothing : turnOn cfg now lines m = lines := by
                rcases hpend : x.pendingDuty with _ | _ | d
                · exact turnOn_idle fun z hz => .inl (by rw [← Option.some.inj (hm.symm.trans hz), hpend])
                · simp only [turnOn, hm, hpend]
                · simp [pendingAbove0, hpend] at hx
              rw [hnothing]
              exact hl
      · rw [turnOn_others (Ne.symm hmn) hpart]
        exact hl

/-! ## A period start as a whole -/

section
variable {cfg : Cfg} (u : AssignedOnce cfg) (now : Nat) {lines : List Line} (hlen : lines.length = 24)
include u hlen

omit u in
theorem offs_length : ((numbers 24).foldl (applyOffs cfg now) lines).length = 24 := by
  have keeps (ns : List Nat) : ∀ k : List Line, (ns.foldl (applyOffs cfg now) k).length = k.length := by
    induction ns with
    | nil => exact fun _ => rfl
    | cons m ms ih => exact fun k => (ih _).trans (applyOffs_length cfg now m k)
  exact (keeps _ _).trans hlen

theorem periodStart_applies {n : Nat} {l : Line} {d : Nat} (hl : getN lines n = some l) (hd : l.pendingDuty = some d)
    (h : d = 0 ∨ partnerLine n cfg = none) : getN (periodStartLines cfg now lines) n = some (applyPending now l) := by
  have hoff : turnedOff cfg now n l = applyPending now l :=
    if_pos (h.imp (fun h0 => by rw [hd, h0]) id)
  refine turnOns_rest u now (l := applyPending now l) ?_ (applyPending_pending now l) (h.symm.imp id fun h0 => ?_) _
  · rw [offs_line cfg now hlen hl, hoff]
  · exact applyPending_zero (by rw [hd, h0])

theorem periodStart_pair {n p : Nat} {l q : Line} {d : Nat} (hl : getN lines n = some l) (hp : partnerLine n cfg = some p)
    (hq : getN lines p = some q) (hd : l.pendingDuty = some d) (h0 : 0 < d)
    (hidle : q.pendingDuty = none ∨ q.pendingDuty = some 0) :
    getN (periodStartLines cfg now lines) n = some (turnedOn cfg now n p l (applyPending now q)).1 ∧
      getN (periodStartLines cfg now lines) p = some (turnedOn cfg now n p l (applyPending now q)).2 := by
  have hl' : turnedOff cfg now n l = l := if_neg (by simp [hd, hp, Nat.ne_of_gt h0])
  have hq' : turnedOff cfg now p q = applyPending now q := by
    rcases hidle with hnone | hzero
    · rw [applyPending_idle hnone]
      simp [turnedOff, applyPending_idle hnone]
    · exact if_pos (.inl hzero)
  have habove : pendingAbove0 l = true := by
    cases d with
    | zero => cases h0
    | succ d => simp [pendingAbove0, hd]
  exact turnOns_pair hp ((offs_line cfg now hlen hl).trans (congrArg some hl'))
    ((offs_line cfg now hlen hq).trans (congrArg some hq')) u (offs_length now hlen) habove (applyPending_pending now q)

end

/-! ## The pin (R157, R161) -/

theorem lineOutput_safe {n : Nat} {s : State} {c : LineCfg} {l : Line} (hc : getN s.cfg.lines n = some c)
    (hl : getN s.dlu.lines n = some l)
    (h : s.svp.mode = .configuring ∨ c.assignment = .unused ∨ c.enabled = false ∨ l.applied = none) :
    lineOutput n s = some (.safe c.safe) := by
  simp only [lineOutput, hc, hl]
  split
  · rfl
  next hno =>
    simp only [configuring, Bool.or_eq_true, decide_eq_true_eq, Bool.not_eq_true', not_or] at hno
    obtain ⟨⟨hmode, hassigned⟩, henabled⟩ := hno
    rw [((h.resolve_left hmode).resolve_left hassigned).resolve_left henabled]

theorem lineOutput_duty {n d : Nat} {s : State} {c : LineCfg} {l : Line} (hc : getN s.cfg.lines n = some c)
    (hl : getN s.dlu.lines n = some l) (hm : s.svp.mode ≠ .configuring) (ha : c.assignment ≠ .unused)
    (he : c.enabled = true) (hd : l.applied = some d) : lineOutput n s = some (.duty d) := by
  simp [lineOutput, hc, hl, configuring, hm, ha, he, hd]

theorem dutyPin_eq {d at_ : Nat} {s : State} (hd : d ≤ 1000) (hat : s.dlu.periodAt = some at_)
    (hstart : at_ * 1000 ≤ s.clock + s.cfg.drivePeriod * 1000) (hend : s.clock < at_ * 1000) : dutyPin d s =
      if s.clock - (at_ * 1000 - s.cfg.drivePeriod * 1000) < d * s.cfg.drivePeriod then .high else .low := by
  have hbegin : periodStartMicros s = at_ * 1000 - s.cfg.drivePeriod * 1000 := by
    simp [periodStartMicros, hat, Nat.sub_mul]
  unfold dutyPin activeMicros
  rw [hbegin]
  refine if_congr (or_iff_right_of_imp fun hfull => ?_) rfl rfl
  obtain rfl : d = 1000 := le_antisymm hd hfull
  omega

theorem cancelPending_eq (l : Line) :
    cancelPending l = if pendingAbove0 l = true then { l with pendingDuty := some 0, holdAt := none } else l := by
  rcases hd : l.pendingDuty with _ | _ | d <;> simp [cancelPending, pendingAbove0, hd]

theorem exec_periodStart {t at_ : Nat} {s : State} (h : s.dlu.periodAt = some at_) (hdue : at_ ≤ max s.clock t / 1000) :
    ∃ u, exec (.periodStart t) s = .next u ∧ u.dlu.periodAt = some (at_ + s.cfg.drivePeriod) ∧
      u = { s with clock := max s.clock t, dlu := u.dlu } ∧ u.now = max s.clock t / 1000 ∧
      u.dlu.lines = periodStartLines s.cfg (max s.clock t / 1000) s.dlu.lines := by
  have hreached : due (setClock t s).now (setClock t s).dlu.periodAt = true := by
    simpa [h, setClock_now] using due_some.2 hdue
  have hexec : exec (.periodStart t) s = .next { setClock t s with
      dlu := { s.dlu with
        lines := periodStartLines s.cfg (max s.clock t / 1000) s.dlu.lines
        periodAt := some (at_ + s.cfg.drivePeriod) } } := by
    show execPeriodStart t s = _
    unfold execPeriodStart
    rw [if_pos hreached]
    simp only [setClock_dlu, setClock_cfg, h, restartTimer, setClock_now]
  exact ⟨_, hexec, rfl, rfl, by simp only [State.now, setClock], by dsimp only⟩

theorem exec_periodStart_early {t : Nat} {s : State} (h : due (max s.clock t / 1000) s.dlu.periodAt = false) :
    exec (.periodStart t) s = .next (setClock t s) := by
  have hnot : ¬ due (setClock t s).now (setClock t s).dlu.periodAt = true := by
    simpa [setClock_now] using h
  exact (if_neg hnot : execPeriodStart t s = _)

/-- Settles O60: each line by its partner, its hold and its off time; the write by its own line; the pin by its output. -/
theorem periodStartApplies : Obligations.PeriodStartApplies := by
  refine ⟨fun t s => ⟨fun hdue => ?_, fun at_ hat hreached honce hlen => ?_⟩,
    fun a d s => ⟨writeDuty_none, fun n l ha hl => ⟨?_, ?_, fun m x hm hx => ?_⟩⟩,
    fun n s c l hc hl => ⟨fun hsafe => ?_, fun at_ d hm ha he hd h1000 hat _ hstart hend => ?_⟩⟩
  · exact exec_periodStart_early hdue
  · obtain ⟨u, hu, hperiod, heq, hnow, hlines⟩ := exec_periodStart hat hreached
    refine ⟨u, hu, hperiod, heq, ?_⟩
    rw [hnow, hlines]
    generalize max s.clock t / 1000 = now, s.dlu.lines = lines, s.cfg = cfg at *
    refine ⟨fun n l d hl hd hcase => ?_, fun n p l q d hl hp hq hd h0 => ?_,
      fun n p l q d hl hp hq hd h0 hhold hoff hidle => ?_⟩
    · refine (periodStart_applies honce now hlen hl hd hcase).trans ?_
      simp only [applyPending, hd]
    all_goals
      have hfresh := applyPending_fresh (now := now) hd h0
      have hpair := fun hidle => periodStart_pair honce now hlen hl hp hq hd h0 hidle
    · refine ⟨fun hhold hdriven hidle => ?_, fun hhold hoff hzero hdq => ?_, fun hhold hoff hzero hdq => ?_,
        fun h hhold hidle => ?_⟩
      · rw [turnedOn_driven hhold hdriven, hfresh hhold] at hpair
        exact (hpair hidle).1
      · have habove : appliedAbove0 q = true := by
          simp only [lineDriven, Bool.and_eq_true] at hdq
          exact hdq.2
        have hpart : applyPending now q = { q with
            applied := some 0, pendingDuty := none, holdAt := none, offTime := some now } := by
          simp [applyPending, hzero, habove]
        have hstill := applyPending_zero (now := now) (n := p) (cfg := cfg) hzero
        have hsince : (applyPending now q).offTime = some now := by rw [hpart]
        have hboth := hpair (.inr hzero)
        by_cases hz : cfg.deadZone = 0
        · rw [turnedOn_over hhold hoff hstill fun o ho => by
            rw [hsince] at ho
            cases ho
            omega] at hboth
          rw [hpart, hfresh hhold] at hboth
          exact ⟨hboth.2, fun hpos => absurd hz (Nat.ne_of_gt hpos), fun _ => hboth.1⟩
        · rw [turnedOn_waits hhold hoff hstill hsince (by omega), hpart] at hboth
          exact ⟨hboth.2, fun _ => hboth.1, fun hz' => absurd hz' hz⟩
      · have hpart : applyPending now q = { q with applied := some 0, pendingDuty := none, holdAt := none } := by
          simp [applyPending, hzero, hdq]
        have hstill := applyPending_zero (now := now) (n := p) (cfg := cfg) hzero
        have hsince : (applyPending now q).offTime = q.offTime := by rw [hpart]
        have hboth := hpair (.inr hzero)
        refine ⟨?_, fun o ho hlt => ?_, fun hover => ?_⟩
        · by_cases hover : ∀ o, q.offTime = some o → o + cfg.deadZone ≤ now
          · rw [turnedOn_over hhold hoff hstill (by rwa [hsince]), hpart] at hboth
            exact hboth.2
          · push Not at hover
            obtain ⟨o, ho, hlt⟩ := hover
            rw [turnedOn_waits hhold hoff hstill (hsince.trans ho) hlt, hpart] at hboth
            exact hboth.2
        · rw [turnedOn_waits hhold hoff hstill (hsince.trans ho) hlt] at hboth
          exact hboth.1
        · rw [turnedOn_over hhold hoff hstill (by rwa [hsince]), hfresh hhold] at hboth
          exact hboth.1
      · have hboth := hpair hidle
        rw [turnedOn_held hhold, applyPending_on hd h0] at hboth
        exact ⟨fun hover => hboth.1.trans (congrArg some (if_pos hover)),
          fun hlt => hboth.1.trans (congrArg some (if_neg (Nat.not_le.2 hlt)))⟩
    · have hboth := hpair (.inl hidle)
      rw [applyPending_idle hidle] at hboth
      refine ⟨fun hoffq => ⟨fun o ho hlt => ?_, fun hover => ?_⟩, fun hdq => ?_⟩
      · rwa [turnedOn_waits hhold hoff hoffq ho hlt] at hboth
      · rwa [turnedOn_over hhold hoff hoffq hover, hfresh hhold] at hboth
      · rw [turnedOn_forced hhold hoff hdq, hfresh hhold] at hboth
        exact ⟨hboth.2, fun hz => hboth.1.trans (congrArg some (if_neg (Nat.ne_of_gt hz))),
          fun hz => hboth.1.trans (congrArg some (if_pos hz))⟩
  · rw [writeDuty_some ha]
  · rw [writeDuty_line d ha, if_pos rfl, hl]
    rfl
  · rw [writeDuty_line d ha, if_neg hm, hx]
    by_cases hpart : lineEnabled n s.cfg = true ∧ 0 < d ∧ partnerLine n s.cfg = some m
    · obtain ⟨he, h0, hp⟩ := id hpart
      rw [if_pos hpart, Option.map_some, cancelPending_eq]
      congr 1
      exact if_congr (by simp [he, h0, hp]) rfl rfl
    · rw [if_neg hpart, if_neg fun h => hpart ⟨h.1, h.2.1, h.2.2.1⟩]
  · simp only [linePin, lineOutput_safe hc hl hsafe]
    cases c.safe <;> rfl
  · simp only [linePin, lineOutput_duty hc hl hm ha he hd, dutyPin_eq h1000 hat hstart hend]

end Sys2Proof.Machine
end

section
/-!
PROOFS. A PANEL request taken, and the panel timeout: the fields handed on in the order of R194 (O21, O22).
-/

namespace Sys2Proof.Machine

/-! ## Orders on their way to the shafts, the rudders and the couplings -/

/-- From `v` to `u` the view has taken D, δ and orders alone, and what they are told to has followed. -/
structure OrdersPassed (v u : State) : Prop extends OrdersTaken v u where
  clock : u.clock = v.clock
  line : AlertsOnly v.lif u.lif

namespace OrdersPassed

variable {v w u : State}

theorem ofNoticed (h : Noticed v u) : OrdersPassed v u := ⟨h.ordersTaken, h.clock, h.line⟩

theorem trans (h : OrdersPassed v w) (k : OrdersPassed w u) : OrdersPassed v u :=
  ⟨h.toOrdersTaken.trans k.toOrdersTaken, k.clock.trans h.clock, h.line.trans k.line⟩

theorem now (h : OrdersPassed v u) : u.now = v.now := by rw [State.now, h.clock, State.now]

theorem mode (h : OrdersPassed v u) : u.svp.mode = v.svp.mode := by rw [h.svp]

theorem panel (h : OrdersPassed v u) : u.svp.panel = v.svp.panel := by rw [h.svp]

theorem panelState (h : OrdersPassed v u) : u.svp.panelState = v.svp.panelState := by rw [h.svp]

theorem followed (h : OrdersPassed v u) : u.cvu.followed = v.cvu.followed := by rw [h.cvu]

theorem claim (h : OrdersPassed v u) : u.cvu.claim = v.cvu.claim := by rw [h.cvu]

theorem helmAt (h : OrdersPassed v u) : u.cvu.helmAt = v.cvu.helmAt := by rw [h.cvu]

theorem lastHelm (h : OrdersPassed v u) : u.cvu.lastHelm = v.cvu.lastHelm := by rw [h.cvu]

theorem ownOrder (h : OrdersPassed v u) : u.cvu.ownOrder = v.cvu.ownOrder := by rw [h.cvu]

theorem slotHelm (h : OrdersPassed v u) : u.lif.slotHelm = v.lif.slotHelm := by rw [h.line.1]

theorem eligible (h : OrdersPassed v u) : Eligible u ↔ Eligible v := by
  rw [Eligible, Eligible, h.cfg, h.panel, h.panelState, h.mode]

theorem helmBytes (h : OrdersPassed v u) {p : List Byte} (hp : HelmBytes p v) : HelmBytes p u := by
  rw [HelmBytes, h.cfg, h.panel, h.ownOrder]
  exact hp

end OrdersPassed

theorem takeEffective_passed (d delta : Int) (v : State) : OrdersPassed v (takeEffective d delta v) := by
  refine ⟨takeEffective_taken d delta v, (takeEffective_reacts d delta v).clock, ?_⟩
  obtain ⟨-, -, heq⟩ | ⟨-, heq⟩ := takeEffective_cases d delta v
  · rw [heq]
    exact .refl _
  · rw [heq]
    exact (noticeOrder_noticed { v with cvu := { v.cvu with effD := d, effDelta := delta } }).line

theorem examineOrders_passed (n : Nat) (w : State) : OrdersPassed w (examineOrders n w) := by
  refine ⟨examineOrders_taken n w, (examineOrders_reacts n w).clock, ?_⟩
  unfold examineOrders
  split
  · split
    · exact .refl _
    next b h _ _ _ => exact (passOrders_noticed w.cfg.station n b (baselineOf n h) (ordersNoted n h w)).line
  · exact .refl _

/-! ## Lever, tiller and local mode handed on (R194) -/

theorem handOnLever_cases (old new : Panel) (own : Bool) (s : State) : ∃ w, Noticed s w ∧
    ((handOnLever old new own s = w ∧ (own = false ∨ s.cvu.followed ≠ some s.cfg.station ∨
        (old.lever = new.lever ∧ old.tiller = new.tiller))) ∨
      (own = true ∧ handOnLever old new own s = takeEffective new.lever new.tiller w)) := by
  let told := if old.lever ≠ new.lever ∨ old.localMode ≠ new.localMode then shuNotice true s else s
  let w := if old.tiller ≠ new.tiller ∨ old.localMode ≠ new.localMode then stcNotice told else told
  have hw : Noticed s w := (Noticed.ite _ (shuNotice_noticed true s)).trans (.ite _ (stcNotice_noticed told))
  have hlever : handOnLever old new own s =
      if own = true ∧ (old.lever ≠ new.lever ∨ old.tiller ≠ new.tiller) ∧ w.cvu.followed = some w.cfg.station then
        takeEffective new.lever new.tiller w else w := rfl
  refine ⟨w, hw, ?_⟩
  rw [hlever, hw.cvu, hw.cfg]
  by_cases h : own = true ∧ (old.lever ≠ new.lever ∨ old.tiller ≠ new.tiller) ∧ s.cvu.followed = some s.cfg.station
  · exact .inr ⟨h.1, if_pos h⟩
  · refine .inl ⟨if_neg h, ?_⟩
    by_cases hown : own = true
    · by_cases hf : s.cvu.followed = some s.cfg.station
      · by_contra hno
        exact h ⟨hown, by_contra fun hsame => hno (.inr (.inr (by simpa [not_or] using hsame))), hf⟩
      · exact .inr (.inl hf)
    · exact .inl (by simpa using hown)

theorem handOnLever_passed (old new : Panel) (own : Bool) (s : State) : OrdersPassed s (handOnLever old new own s) := by
  obtain ⟨w, hw, ⟨heq, -⟩ | ⟨-, heq⟩⟩ := handOnLever_cases old new own s
  · rw [heq]
    exact .ofNoticed hw
  · rw [heq]
    exact (OrdersPassed.ofNoticed hw).trans (takeEffective_passed _ _ w)

/-- Where self is not followed, lever and tiller are told to the SHU and the STC alone (R17, R18). -/
theorem handOnLever_noticed {old new : Panel} {own : Bool} {s : State}
    (h : own = false ∨ s.cvu.followed ≠ some s.cfg.station) : Noticed s (handOnLever old new own s) := by
  unfold handOnLever
  have hw : Noticed s (if old.tiller ≠ new.tiller ∨ old.localMode ≠ new.localMode then
      stcNotice (if old.lever ≠ new.lever ∨ old.localMode ≠ new.localMode then shuNotice true s else s)
      else if old.lever ≠ new.lever ∨ old.localMode ≠ new.localMode then shuNotice true s else s) :=
    (Noticed.ite _ (shuNotice_noticed true s)).trans (.ite _ (stcNotice_noticed _))
  rw [if_neg]
  · exact hw
  · rintro ⟨hown, -, hf⟩
    rw [hw.cvu, hw.cfg] at hf
    rcases h with h | h
    · simp [h] at hown
    · exact h hf

/-! ## The sets handed on (R11, R12) -/

/-- What a change of the sets, or their staying, leaves of the own claim. -/
structure SetsTaken (same : Prop) (y u : State) : Prop where
  now : u.now = y.now
  cfg : u.cfg = y.cfg
  svp : u.svp = { y.svp with flags := u.svp.flags }
  claim : u.cvu.claim = y.cvu.claim
  helmAt : u.cvu.helmAt = y.cvu.helmAt
  followed : u.cvu.followed = y.cvu.followed
  stays : same → u = y
  order : ¬same → u.cvu.ownOrder = (y.cvu.ownOrder + 1) % 256
  silent : y.cvu.claim ≠ .claiming → u.lif.slotHelm = y.lif.slotHelm
  sends : ¬same → y.cvu.claim = .claiming → (y.svp.mode = .joining ∨ y.svp.mode = .running) →
    ∃ p, u.lif.slotHelm = some p ∧ HelmBytes p u

/-- The own order number advanced (R12). -/
def orderAdvanced (y : State) : State := { y with cvu := { y.cvu with ownOrder := (y.cvu.ownOrder + 1) % 256 } }

theorem advanceOrder_passed (y : State) :
    OrdersPassed (if y.cvu.claim = .claiming then sendHelm (orderAdvanced y) else orderAdvanced y) (advanceOrder y) := by
  have hdef : advanceOrder y =
      if (if y.cvu.claim = .claiming then sendHelm (orderAdvanced y) else orderAdvanced y).cvu.followed =
          some (if y.cvu.claim = .claiming then sendHelm (orderAdvanced y) else orderAdvanced y).cfg.station then
        examineOrders (if y.cvu.claim = .claiming then sendHelm (orderAdvanced y) else orderAdvanced y).cfg.station
          (if y.cvu.claim = .claiming then sendHelm (orderAdvanced y) else orderAdvanced y)
      else if y.cvu.claim = .claiming then sendHelm (orderAdvanced y) else orderAdvanced y := rfl
  rw [hdef]
  generalize (if y.cvu.claim = .claiming then sendHelm (orderAdvanced y) else orderAdvanced y) = w
  split
  · exact examineOrders_passed _ w
  · exact .ofNoticed (.refl w)

theorem advanceOrder_taken (y : State) : SetsTaken False y (advanceOrder y) := by
  have hpassed := advanceOrder_passed y
  by_cases hclaim : y.cvu.claim = .claiming
  · rw [if_pos hclaim] at hpassed
    have honly : ClaimOnly (orderAdvanced y) (sendHelm (orderAdvanced y)) := sendHelm_claimOnly _
    have hcvu := sendHelm_cvu (orderAdvanced y)
    have hsvp : (sendHelm (orderAdvanced y)).svp = y.svp := by rw [honly]; rfl
    have hcfg : (sendHelm (orderAdvanced y)).cfg = y.cfg := by rw [honly]; rfl
    refine ⟨?_, hpassed.cfg.trans hcfg, by rw [hpassed.svp, hsvp], ?_, ?_, ?_, nofun, fun _ => ?_, fun h => absurd hclaim h,
      fun _ _ hm => ?_⟩
    · rw [hpassed.now, State.now, honly]; rfl
    · rw [hpassed.claim, hcvu]; rfl
    · rw [hpassed.helmAt, hcvu]; rfl
    · rw [hpassed.followed, hcvu]; rfl
    · rw [hpassed.ownOrder, hcvu]; rfl
    · obtain ⟨p, hslot, hbytes⟩ := sendHelm_slot (w := orderAdvanced y) hm
      refine ⟨p, hpassed.slotHelm.trans hslot, hpassed.helmBytes ?_⟩
      rw [HelmBytes, hcfg, hsvp, hcvu]
      exact hbytes
  · rw [if_neg hclaim] at hpassed
    exact ⟨hpassed.now, hpassed.cfg, hpassed.svp, hpassed.claim, hpassed.helmAt, hpassed.followed, nofun,
      fun _ => hpassed.ownOrder, fun _ => hpassed.slotHelm, fun _ h => absurd h hclaim⟩

theorem handOnSets_taken (old new : Panel) (y : State) :
    SetsTaken (old.releaseSet = new.releaseSet ∧ old.remakeSet = new.remakeSet) y (handOnSets old new y) := by
  unfold handOnSets
  split
  next h => exact ⟨rfl, rfl, rfl, rfl, rfl, rfl, fun _ => rfl, fun hno => absurd h hno, fun _ => rfl, fun hno => absurd h hno⟩
  next h =>
    obtain ⟨h1, h2, h3, h4, h5, h6, -, h8, h9, h10⟩ := advanceOrder_taken y
    exact ⟨h1, h2, h3, h4, h5, h6, fun hs => absurd hs h, fun _ => h8 id, h9, fun _ => h10 id⟩

/-! ## The hand-on of a panel record as a whole -/

/-- The states through which a panel record is handed on: after lever and tiller, after take-command, after the sets. -/
structure PanelHanded (old new : Panel) (fresh x y z u : State) : Prop where
  lever : OrdersPassed fresh x
  same : old.takeCommand = new.takeCommand → y = x
  anew : old.takeCommand ≠ new.takeCommand → y = reselect x
  sets : SetsTaken (old.releaseSet = new.releaseSet ∧ old.remakeSet = new.remakeSet) y z
  couplings : Noticed z u

theorem handOnPanel_handed (old new : Panel) (own : Bool) (fresh : State) :
    PanelHanded old new fresh (handOnLever old new own fresh) (handOnClaim old new (handOnLever old new own fresh))
      (handOnSets old new (handOnClaim old new (handOnLever old new own fresh))) (handOnPanel old new own fresh) where
  lever := handOnLever_passed old new own fresh
  same h := if_pos h
  anew h := if_neg h
  sets := handOnSets_taken old new _
  couplings := handOnCouplings_noticed old new _

namespace PanelHanded

variable {old new : Panel} {fresh x y z u : State} (h : PanelHanded old new fresh x y z u)
include h

theorem selection : y.clock = x.clock ∧ y.cfg = x.cfg ∧ y.svp = { x.svp with flags := y.svp.flags } ∧
    y.cvu.ownOrder = x.cvu.ownOrder := by
  by_cases htake : old.takeCommand = new.takeCommand
  · rw [h.same htake]
    exact ⟨rfl, rfl, rfl, rfl⟩
  · rw [h.anew htake]
    have hreacts := reselect_reacts x
    refine ⟨hreacts.clock, hreacts.cfg, hreacts.svp, ?_⟩
    have hcvu := (chosen_selects x).cvu
    rw [reselect_eq, (evalClaim_claimed (chosen x)).only, hcvu]

theorem frame : u.now = fresh.now ∧ u.cfg = fresh.cfg ∧ u.svp = { fresh.svp with flags := u.svp.flags } := by
  obtain ⟨hclock, hcfg, hsvp, -⟩ := h.selection
  refine ⟨?_, h.couplings.cfg.trans (h.sets.cfg.trans (hcfg.trans h.lever.cfg)), ?_⟩
  · rw [h.couplings.now, h.sets.now, State.now, hclock, h.lever.clock, State.now]
  · rw [h.couplings.svp, h.sets.svp, hsvp, h.lever.svp]

theorem claim_eq : u.cvu.claim = y.cvu.claim ∧ u.cvu.helmAt = y.cvu.helmAt ∧ u.cvu.followed = y.cvu.followed := by
  rw [h.couplings.cvu, h.sets.claim, h.sets.helmAt, h.sets.followed]
  exact ⟨rfl, rfl, rfl⟩

theorem order (hsame : old.releaseSet = new.releaseSet ∧ old.remakeSet = new.remakeSet) :
    u.cvu.ownOrder = fresh.cvu.ownOrder := by
  rw [h.couplings.cvu, h.sets.stays hsame, h.selection.2.2.2, h.lever.ownOrder]

theorem advances (hdiff : ¬(old.releaseSet = new.releaseSet ∧ old.remakeSet = new.remakeSet)) :
    u.cvu.ownOrder = (fresh.cvu.ownOrder + 1) % 256 := by
  rw [h.couplings.cvu, h.sets.order hdiff, h.selection.2.2.2, h.lever.ownOrder]

/-- A change of a set while CLAIMING lasts, or begins, places a HELM with the values in force (R11). -/
theorem sends (hdiff : ¬(old.releaseSet = new.releaseSet ∧ old.remakeSet = new.remakeSet)) (hclaim : y.cvu.claim = .claiming)
    (hm : fresh.svp.mode = .running) : ∃ p, u.lif.slotHelm = some p ∧ HelmBytes p u := by
  have hmode : y.svp.mode = .running := by rw [h.selection.2.2.1, h.lever.svp]; exact hm
  obtain ⟨p, hslot, hbytes⟩ := h.sets.sends hdiff hclaim (.inr hmode)
  refine ⟨p, h.couplings.alike.slotHelm.trans hslot, ?_⟩
  exact (OrdersPassed.ofNoticed h.couplings).helmBytes hbytes

theorem settled (htake : old.takeCommand ≠ new.takeCommand) : ClaimSettled x y := by
  rw [h.anew htake, reselect_eq]
  exact claimSettled_of_selects (chosen_selects x)

/-- The selection made anew, where nothing else changes what it is made of. -/
theorem selectedAnew (htake : old.takeCommand ≠ new.takeCommand)
    (hsame : old.releaseSet = new.releaseSet ∧ old.remakeSet = new.remakeSet) {source : State}
    (halike : SelectsAlike source x) (hok : PeersOk source.cfg.station source.cvu.peers) : SelectedAnew source u := by
  have hpeers : x.cvu.peers = source.cvu.peers := by rw [halike.cvu]
  have hselected : SelectedAnew x y := by
    rw [h.anew htake]
    exact reselect_selects (by rw [halike.cfg, hpeers]; exact hok)
  have hmode : y.svp.mode = source.svp.mode := by rw [h.selection.2.2.1, halike.svp]
  exact (hselected.source halike).target hmode (h.sets.stays hsame ▸ h.couplings)

end PanelHanded

/-- A reply is not what a selection is about. -/
theorem SelectedAnew.replied {s u : State} (d : List Byte) (h : SelectedAnew s u) : SelectedAnew s (replyOk d u) :=
  ⟨h.1.target rfl rfl (fun _ hs => hs.congr rfl rfl rfl rfl rfl rfl rfl rfl)
    (fun hs => hs.congr rfl rfl rfl rfl rfl rfl rfl), h.2⟩

theorem handOnPanel_none (p : Panel) (own : Bool) (s : State) : handOnPanel p p own s = s := by
  cases p.partedAck <;> cases p.remakeOwn <;>
    simp [handOnPanel, handOnLever, handOnClaim, handOnSets, handOnCouplings, handOnRelease]

/-- The state in which a PANEL request is handed on (R194). -/
def panelFresh (t : Nat) (new : Panel) (s : State) : State :=
  { s with
    clock := max s.clock t
    svp := { s.svp with panel := new, panelState := .current, panelAt := some (max s.clock t / 1000 + 500) } }

theorem exec_panel {t : Nat} {lever tiller : BitVec 16} {flags release remake : Byte} {s : State}
    (hm : s.svp.mode ≠ .configuring) : exec (.panel t lever tiller flags release remake) s =
      .next (replyOk [] (handOnPanel s.svp.panel (panelOf lever tiller flags release remake) true
        (panelFresh t (panelOf lever tiller flags release remake) s))) :=
  congrArg Host.Outcome.next (inService_serving (s := setClock t s) hm _)

/-- Settles O21: through the states in which the record is handed on. -/
theorem panelTaken : Obligations.PanelTaken := by
  intro t lever tiller flags release remake s hm
  have hexec := exec_panel (t := t) (lever := lever) (tiller := tiller) (flags := flags) (release := release)
    (remake := remake) hm
  have h := handOnPanel_handed s.svp.panel (panelOf lever tiller flags release remake) true
    (panelFresh t (panelOf lever tiller flags release remake) s)
  have hquiet := handOnLever_noticed (old := s.svp.panel) (new := panelOf lever tiller flags release remake) (own := true)
    (s := panelFresh t (panelOf lever tiller flags release remake) s)
  have hflag : (panelOf lever tiller flags release remake).takeCommand = flags.getLsbD 0 := rfl
  generalize handOnPanel s.svp.panel (panelOf lever tiller flags release remake) true
    (panelFresh t (panelOf lever tiller flags release remake) s) = w at *
  generalize handOnSets s.svp.panel (panelOf lever tiller flags release remake) _ = z at h
  generalize handOnClaim s.svp.panel (panelOf lever tiller flags release remake) _ = y at h
  generalize handOnLever s.svp.panel (panelOf lever tiller flags release remake) true _ = x at h hquiet
  obtain ⟨hnow, hcfg, hsvp⟩ := h.frame
  obtain ⟨hclaim, hhelm, -⟩ := h.claim_eq
  refine ⟨⟨_, hexec, rfl, ?_, ?_, ?_, ?_⟩, fun u hu => ?_, fun hsame => ?_⟩
  · show w.svp.panel = _
    rw [hsvp]
    rfl
  · show w.svp.panelState = _
    rw [hsvp]
    rfl
  · show w.svp.panelAt = some (w.now + 500)
    rw [hsvp, hnow]
    rfl
  · show w.cvu.ownOrder = _
    split
    next hsame => exact h.order hsame
    next hdiff => exact h.advances hdiff
  · obtain rfl : replyOk [] w = u := by
      rw [hexec] at hu
      cases hu
      rfl
    refine ⟨fun hoff hon hnot hok => ?_, fun hon hoff hrun hclaiming => ?_, fun hkeep hrun hclaiming => ?_⟩
    · have htake : s.svp.panel.takeCommand ≠ (panelOf lever tiller flags release remake).takeCommand := by
        rw [hoff, hflag, hon]
        nofun
      refine ⟨fun hsame => (h.selectedAnew htake hsame (hquiet (.inr hnot)).alike hok).replied [], fun hold hnew => ?_⟩
      obtain ⟨hiff, -, henters, -⟩ := h.settled htake
      have hy : y.cvu.claim = .claiming := hclaim.symm.trans hnew
      obtain ⟨hat, p, hslot, hbytes⟩ := henters hy (by rw [h.lever.claim]; exact hold)
      refine ⟨?_, ?_⟩
      · show w.cvu.helmAt = some (w.now + w.cfg.helmUnits * 10)
        rw [hhelm, hat, hnow, hcfg, h.lever.now, h.lever.cfg]
      · have hrunning : (panelFresh t (panelOf lever tiller flags release remake) s).svp.mode = .running := by
          rw [← h.lever.mode]
          exact (hiff.1 hy).1.2.2.2
        by_cases hsame : s.svp.panel.releaseSet = stationSet release ∧ s.svp.panel.remakeSet = stationSet remake
        · have hz := h.sets.stays hsame
          subst hz
          refine ⟨p, h.couplings.alike.slotHelm.trans hslot, ?_⟩
          show HelmBytes p w
          have horder : w.cvu.ownOrder = x.cvu.ownOrder := (h.order hsame).trans h.lever.ownOrder.symm
          have hpanel : w.svp.panel = x.svp.panel := by rw [hsvp, h.lever.panel]
          rw [HelmBytes, hcfg, horder, hpanel, ← h.lever.cfg]
          exact hbytes
        · exact h.sends hsame hy hrunning
    · have htake : s.svp.panel.takeCommand ≠ (panelOf lever tiller flags release remake).takeCommand := by
        rw [hon, hflag, hoff]
        nofun
      obtain ⟨-, hnot, -, hyields, hstopped, -⟩ := h.settled htake
      have hineligible : ¬Eligible x := by
        rw [h.lever.eligible]
        rintro ⟨-, -, hcommand, -⟩
        have hcommand' : flags.getLsbD 0 = true := hcommand
        rw [hoff] at hcommand'
        cases hcommand'
      have hy : y.cvu.claim = .notClaiming := hnot.2 hineligible
      have hyne : y.cvu.claim ≠ .claiming := by rw [hy]; nofun
      refine ⟨hclaim.trans hy, hhelm.trans (hstopped hyne), fun last hlast => ?_⟩
      obtain ⟨p, hslot, hcarries⟩ := hyields (h.lever.claim.trans hclaiming) hy (h.lever.mode.trans hrun) last
        (h.lever.lastHelm.trans hlast)
      exact ⟨p, h.couplings.alike.slotHelm.trans ((h.sets.silent hyne).trans hslot), hcarries⟩
    · have hyx := h.same (hkeep.trans hflag.symm)
      subst hyx
      have hy : y.cvu.claim = .claiming := h.lever.claim.trans hclaiming
      refine ⟨hclaim.trans hy, hhelm.trans h.lever.helmAt, fun hsame => ?_, fun hdiff => h.sends hdiff hy hrun⟩
      have hz := h.sets.stays hsame
      subst hz
      exact h.couplings.alike.slotHelm.trans h.lever.slotHelm
  · rw [exec_panel hm, hsame, handOnPanel_none]
    rfl

/-! ## The panel timeout (R195) -/

/-- The state in which the panel timeout is handed on. -/
def panelLost (t : Nat) (s : State) : State :=
  raiseFlag .panelLost { s with
    clock := max s.clock t
    svp := { s.svp with panel := panelTimedOut s.svp.panel, panelState := .timedOut, panelAt := none } }

theorem exec_panelTimeout (t : Nat) (s : State) : exec (.panelTimeout t) s =
    if s.svp.panelState = .current ∧ due (max s.clock t / 1000) s.svp.panelAt = true then
      .next (handOnPanel s.svp.panel (panelTimedOut s.svp.panel) false (panelLost t s))
    else .next (setClock t s) := rfl

/-- With no candidate left the helm is lost: GRACE, D and δ held (R18). -/
theorem reselect_lost {x : State} (hnone : candidates x = []) (hf : x.cvu.followed ≠ none) :
    (reselect x).cvu.followed = none ∧ (reselect x).cvu.helmState = .grace ∧
      (reselect x).cvu.graceAt = some (x.now + x.cfg.graceTime * 1000) ∧ (reselect x).cvu.effD = x.cvu.effD ∧
      (reselect x).cvu.effDelta = x.cvu.effDelta ∧ flagSet .helmLost (reselect x) = true := by
  have hselected : selected x = none := by simp [selected, hnone, bestOf]
  have hchosen : chosen x = loseHelm x := by
    rw [chosen, hselected, if_neg (Ne.symm hf)]
  have honly := (evalClaim_claimed (loseHelm x)).only
  have hflags : (evalClaim (loseHelm x)).svp = (loseHelm x).svp := by rw [honly]
  rw [reselect_eq, hchosen, flagSet, hflags]
  refine ⟨by rw [honly]; rfl, by rw [honly]; rfl, by rw [honly]; rfl, by rw [honly]; rfl, by rw [honly]; rfl, ?_⟩
  exact loseHelm_lost x

/-- Settles O22: the record handed on without lever and tiller entering the effective order. -/
theorem panelTimesOut : Obligations.PanelTimesOut := by
  intro t s
  refine ⟨fun hcurrent hdue => ?_, fun hother => ?_⟩
  · have hexec : exec (.panelTimeout t) s =
        .next (handOnPanel s.svp.panel (panelTimedOut s.svp.panel) false (panelLost t s)) := by
      rw [exec_panelTimeout, if_pos ⟨hcurrent, hdue⟩]
    have h := handOnPanel_handed s.svp.panel (panelTimedOut s.svp.panel) false (panelLost t s)
    have hquiet := handOnLever_noticed (old := s.svp.panel) (new := panelTimedOut s.svp.panel) (own := false)
      (s := panelLost t s) (.inl rfl)
    have hflags := (handOnPanel_reacts s.svp.panel (panelTimedOut s.svp.panel) false (panelLost t s)).flags
    have hsame : s.svp.panel.releaseSet = (panelTimedOut s.svp.panel).releaseSet ∧
        s.svp.panel.remakeSet = (panelTimedOut s.svp.panel).remakeSet := ⟨rfl, rfl⟩
    have hlost : flagSet .panelLost (panelLost t s) = true := by simp [panelLost, flagSet_raiseFlag]
    generalize handOnPanel s.svp.panel (panelTimedOut s.svp.panel) false (panelLost t s) = u at *
    generalize handOnSets s.svp.panel (panelTimedOut s.svp.panel) _ = z at h
    generalize handOnClaim s.svp.panel (panelTimedOut s.svp.panel) _ = y at h
    generalize handOnLever s.svp.panel (panelTimedOut s.svp.panel) false _ = x at h hquiet
    obtain ⟨hnow, hcfg, hsvp⟩ := h.frame
    obtain ⟨hclaim, -, hfollowed⟩ := h.claim_eq
    have hcouplings : Noticed y u := h.sets.stays hsame ▸ h.couplings
    have htake (hon : s.svp.panel.takeCommand = true) :
        s.svp.panel.takeCommand ≠ (panelTimedOut s.svp.panel).takeCommand := by
      rw [hon]
      nofun
    have hineligible : ¬Eligible x := by
      rw [h.lever.eligible]
      rintro ⟨-, hstate, -⟩
      cases hstate
    have halike : SelectsAlike { s with
        clock := max s.clock t
        svp := { s.svp with panel := panelTimedOut s.svp.panel, panelState := .timedOut, panelAt := none } } x :=
      SelectsAlike.trans (raiseFlag_noticed (f := .panelLost) nofun _).alike hquiet.alike
    refine ⟨u, hexec, ?_, ?_, ?_, hflags _ hlost, h.order hsame, fun hrun hon hclaiming hself hnone => ?_,
      fun hon hok => h.selectedAnew (htake hon) hsame halike hok, fun hon hrun hclaiming => ?_⟩
    · rw [hsvp]; rfl
    · rw [hsvp]; rfl
    · rw [hsvp]; rfl
    · have hpeers : x.cvu.peers = s.cvu.peers := by rw [halike.cvu]
      have hcandidates : candidates x = [] := by
        rw [candidates, if_neg (by rwa [eligible_iff]), hpeers, hnone]
        rfl
      have hf : x.cvu.followed ≠ none := by
        rw [h.lever.followed]
        show s.cvu.followed ≠ none
        rw [hself]
        nofun
      obtain ⟨h1, h2, h3, h4, h5, h6⟩ := reselect_lost hcandidates hf
      obtain ⟨-, hnot, -⟩ := h.settled (htake hon)
      rw [← h.anew (htake hon)] at h1 h2 h3 h4 h5 h6
      refine ⟨hclaim.trans (hnot.2 hineligible), hfollowed.trans h1, ?_, ?_, ?_, ?_, hcouplings.helmLost.trans h6⟩
      · rw [hcouplings.cvu, h2]
      · rw [hcouplings.cvu, h3, hnow, hcfg, h.lever.now, h.lever.cfg]
      · rw [hcouplings.cvu, h4, halike.cvu]
      · rw [hcouplings.cvu, h5, halike.cvu]
    · obtain ⟨-, hnot, -, hyields, -⟩ := h.settled (htake hon)
      have hy : y.cvu.claim = .notClaiming := hnot.2 hineligible
      refine ⟨hclaim.trans hy, fun last hlast => ?_⟩
      obtain ⟨p, hslot, hcarries⟩ := hyields (h.lever.claim.trans hclaiming) hy (h.lever.mode.trans hrun) last
        (h.lever.lastHelm.trans hlast)
      exact ⟨p, hcouplings.alike.slotHelm.trans hslot, hcarries⟩
  · rw [exec_panelTimeout, if_neg]
    rintro ⟨hcurrent, hdue⟩
    rcases hother with h | h
    · exact h hcurrent
    · rw [h] at hdue
      cases hdue

end Sys2Proof.Machine
end

section
/-!
PROOFS. What the operations outside the fuel unit leave of its books, and what every block keeps (O14).
-/

namespace Sys2Proof.Machine

/-! ## The couplings and the shafts tell: the books and the view stay -/

theorem fold_told {α : Type} {f : State → α → State} (h : ∀ s x, Told s (f s x)) (l : List α) (s : State) :
    Told s (l.foldl f s) := foldl_keeps (R := Told) .refl .trans h l s

theorem completePullOff_told (s : State) : Told s (completePullOff s) := .ite _ (finishPullOff_told s)

theorem noticePs_told (ps : List Nat) (s : State) : Told s (noticePs ps s) := by
  unfold noticePs
  split
  · exact .refl s
  · exact completePullOff_told s

theorem noticeDirs_told (ds : List Dir) (s : State) : Told s (noticeDirs ds s) := by
  unfold noticeDirs
  split
  · exact .refl s
  · exact stcNotice_told s

theorem recompute_told (s : State) : Told s (recompute s) := recompute_recomputes.told s

theorem handOn_told (ds : List Dir) (ps : List Nat) (s : State) : Told s (handOn ds ps s) :=
  (noticeDirs_told ds s).trans (noticePs_told ps _)

theorem writeClutchesIf_told (n : Nat) (d : Dir) (force : Bool) (s : State) : Told s (writeClutchesIf n d force s) := by
  have hclutches (e : Dir) (t : State) : Told t (writeClutches n e t) := by
    unfold writeClutches
    split <;> exact (writeDuty_told _ _ _).trans (writeDuty_told _ _ _)
  unfold writeClutchesIf
  split
  · split
    · exact .refl s
    · exact (modShaft_told n _ s).trans (hclutches _ _)
  · exact .refl s

theorem writeGovernor_told (n : Nat) (s : State) : Told s (writeGovernor n s) := by
  unfold writeGovernor
  split
  · split
    · exact .refl s
    · exact (modShaft_told n _ s).trans (writeDuty_told _ _ _)
  · exact .refl s

theorem shaftOutputs_told (n : Nat) (d : Dir) (force : Bool) (s : State) : Told s (shaftOutputs n d force s) :=
  (writeClutchesIf_told n d force s).trans (writeGovernor_told n _)

theorem actShaft_told (n : Nat) (f : Shaft → Shaft) (s : State) : Told s (actShaft n f s) := by
  unfold actShaft
  split
  · exact ((modShaft_told n f s).trans (shaftOutputs_told n _ _ _)).trans (handOn_told _ _ _)
  · exact .refl s

theorem changeWinch_told (n : Nat) (f : Winch → Winch) (s : State) : Told s (changeWinch n f s) :=
  (changeWinch_only_winches n f s).told

theorem changeWinches_told (f : Winch → Winch) (s : State) : Told s (changeWinches f s) :=
  fold_told (fun t n => changeWinch_told n f t) _ s

theorem setOutcome_told (o : CouplingOutcome) (s : State) : Told s (setOutcome o s) := cpc_told _ s

theorem endPullOff_told (o : CouplingOutcome) (s : State) : Told s (endPullOff o s) := by
  unfold endPullOff
  split
  · exact (cpc_told _ s).trans (setOutcome_told o _)
  · exact .refl s

theorem acknowledge_told (s : State) : Told s (acknowledge s) :=
  ((changeWinches_told unpart s).trans (cpc_told _ _)).trans (settle_told false _)

theorem panelAcknowledge_told (s : State) : Told s (panelAcknowledge s) := .ite _ (acknowledge_told s)

theorem haulRequest_told (n : Nat) (s : State) : Told s (haulRequest n s) := by
  unfold haulRequest
  split
  · split
    · split
      · exact raiseFlag_told _ s
      · exact changeWinch_told n _ s
    · exact .refl s
  · exact .refl s

theorem haulAll_told (ns : List Nat) (s : State) : Told s (haulAll ns s) :=
  (fold_told (fun t n => haulRequest_told n t) ns s).trans (setOutcome_told _ _)

theorem remakeOrder_told (s : State) : Told s (remakeOrder s) := by
  unfold remakeOrder
  split
  · exact setOutcome_told _ s
  · split
    · exact setOutcome_told _ s
    next r rest _ =>
      exact ((cpc_told { s.cpc with stack := rest } s).trans (haulAll_told _ _)).trans (settle_told false _)

theorem remakeOwn_told (s : State) : Told s (remakeOwn s) := by
  unfold remakeOwn
  split
  · exact setOutcome_told _ s
  · exact (haulAll_told _ s).trans (settle_told false _)

theorem beginPullOff_told (o : Origin) (s : State) : Told s (beginPullOff o s) :=
  (((cpc_told { s.cpc with pullOff := some { origin := o, expiry := s.now + pullOffWait s } } s).trans
    (changeWinches_told haltHaul _)).trans (shuNotice_told false _)).trans (completePullOff_told _)

theorem releaseRequest_told (o : Origin) (s : State) : Told s (releaseRequest o s) := by
  unfold releaseRequest
  split
  · exact setOutcome_told _ s
  · split
    · exact setOutcome_told _ s
    · exact beginPullOff_told o s

theorem withdrawRelease_told (o : Origin) (s : State) : Told s (withdrawRelease o s) := by
  unfold withdrawRelease
  split
  · exact .ite _ ((endPullOff_told .withdrawn s).trans (shuNotice_told false _))
  · exact .refl s

theorem passOrders_told (own n : Nat) (b c : Baseline) (s : State) : Told s (passOrders own n b c s) := by
  have hafter (t : State) : Told t (if newlyIn own b.releaseSet c.releaseSet then releaseRequest (.helm n) t
      else if newlyIn own b.remakeSet c.remakeSet then remakeOrder t else t) := by
    split
    · exact releaseRequest_told _ t
    · exact .ite _ (remakeOrder_told t)
  exact (Told.ite _ (withdrawRelease_told _ s)).trans (hafter _)

theorem handOnCouplings_told (p q : Panel) (s : State) : Told s (handOnCouplings p q s) := by
  have hrelease (t : State) : Told t (handOnRelease p q t) := by
    unfold handOnRelease
    split
    · exact .refl t
    · split
      · exact releaseRequest_told _ t
      · exact withdrawRelease_told _ t
  have hmake (t : State) : Told t (if !p.remakeOwn && q.remakeOwn then remakeOwn t else t) := .ite _ (remakeOwn_told t)
  exact ((Told.ite _ (panelAcknowledge_told s)).trans (hrelease _)).trans (hmake _)

theorem winchExpiry_told (n : Nat) (p : Winch → Bool) (f : WinchCfg → Winch → Winch) {after : State → State}
    (hafter : ∀ t, Told t (after t)) (s : State) : Told s (winchExpiry n p f after s) := by
  unfold winchExpiry
  split
  · exact .ite _ (((changeWinch_told n _ s).trans (hafter _)).trans (settle_told false _))
  · exact .refl s

theorem pullOffTimeout_told (s : State) : Told s (pullOffTimeout s) :=
  ((endPullOff_told .timedOut s).trans (raiseFlag_told _ _)).trans (shuNotice_told false _)

/-! ## The books -/

/-- The part of an engine's burn record that a booking changes (R115, R116). -/
def burnAmounts (b : Burn) : Nat × Nat × Nat := (b.residue, b.sinceBooked, b.estimated)

/-- The books have not changed: tanks, journal, transfer and bunker records, and what each engine has burned. -/
structure BooksKept (s u : State) : Prop where
  tanks : u.fau.tanks = s.fau.tanks
  journal : u.fau.journal = s.fau.journal
  serial : u.fau.nextSerial = s.fau.nextSerial
  transfer : u.fau.transfer = s.fau.transfer
  bunker : u.fau.bunker = s.fau.bunker
  burns : u.fau.burns.map burnAmounts = s.fau.burns.map burnAmounts

namespace BooksKept

variable {s t u : State}

theorem refl (s : State) : BooksKept s s := ⟨rfl, rfl, rfl, rfl, rfl, rfl⟩

theorem trans (h : BooksKept s t) (k : BooksKept t u) : BooksKept s u :=
  ⟨k.tanks.trans h.tanks, k.journal.trans h.journal, k.serial.trans h.serial, k.transfer.trans h.transfer,
    k.bunker.trans h.bunker, k.burns.trans h.burns⟩

theorem ite (c : Prop) [Decidable c] (h : BooksKept s t) : BooksKept s (if c then t else s) := by
  split
  · exact h
  · exact refl s

theorem ofFau (h : u.fau = s.fau) : BooksKept s u := ⟨by rw [h], by rw [h], by rw [h], by rw [h], by rw [h], by rw [h]⟩

theorem ofTold (h : Told s u) : BooksKept s u := ofFau h.fau

/-- What leaves the books from a state with the same books. -/
theorem since (h : BooksKept t u) (hsame : t.fau = s.fau) : BooksKept s u := (ofFau hsame).trans h

end BooksKept

theorem fuelTotals_books (s : State) : BooksKept s (fuelTotals s) := ⟨rfl, rfl, rfl, rfl, rfl, rfl⟩

theorem modBurn_books (n : Nat) {f : Burn → Burn} (hf : ∀ b, burnAmounts (f b) = burnAmounts b) (s : State) :
    BooksKept s (modBurn n f s) := ⟨rfl, rfl, rfl, rfl, rfl, map_modN burnAmounts f hf _ _⟩

theorem estimateNotice_books (n : Nat) (s : State) : BooksKept s (estimateNotice n s) := by
  have hraise : BooksKept s (if startsEstimating n s then raiseFlag .meterFault s else s) := .ite _ (.ofFau rfl)
  exact (hraise.trans (modBurn_books n (f := estimateBurn (boundDead .flow (some n) s) (engineRuns n s))
    (fun _ => rfl) _)).trans (fuelTotals_books _)

theorem noticeEngine_books (n : Nat) (s : State) : BooksKept s (noticeEngine n s) :=
  (BooksKept.ofTold (recompute_told s)).trans (estimateNotice_books n _)

theorem stopEngine_books (n : Nat) (s : State) : BooksKept s (stopEngine n s) := by
  unfold stopEngine
  split
  next r c _ _ =>
    have hfault : Told s (if r.target ≠ 0 ∨ r.p ≠ 0 then raiseFlag .engineFault s else s) := .ite _ (raiseFlag_told _ s)
    exact (BooksKept.ofTold (hfault.trans (actShaft_told n _ _))).trans (noticeEngine_books n _)
  · exact .refl s

theorem deviationExpired_books (n : Nat) (r : Shaft) (s : State) : BooksKept s (deviationExpired n r s) := by
  unfold deviationExpired
  dsimp only
  split
  · exact .ofFau rfl
  · exact (BooksKept.ofTold (modShaft_told n _ s)).trans (noticeEngine_books n _)

/-! ## The rudders -/

theorem writeValves_told (n : Nat) (first : Bool) (s : State) : Told s (writeValves n first s) := by
  have hport (v w) (b : Bool) (t : State) : Told t (updatePort n v w b t) :=
    .ite _ ((modRudder_told n _ t).trans (writeDuty_told _ _ _))
  have hstbd (v w) (b : Bool) (t : State) : Told t (updateStbd n v w b t) :=
    .ite _ ((modRudder_told n _ t).trans (writeDuty_told _ _ _))
  unfold writeValves
  split
  · exact .refl s
  · dsimp only
    split
    · exact (hstbd _ _ _ s).trans (hport _ _ _ _)
    · exact (hport _ _ _ s).trans (hstbd _ _ _ _)

/-- A rudder taken out of service, or changed otherwise, with its valve lines and the steering told. -/
theorem rudderFault_told (n : Nat) (f : Rudder → Rudder) (first : Bool) (s : State) :
    Told s (stcNotice (raiseFlag .rudderFault (writeValves n first (modRudder n f s)))) :=
  (((modRudder_told n f s).trans (writeValves_told n first _)).trans (raiseFlag_told _ _)).trans (stcNotice_told _)

theorem angleDead_told (n : Nat) (s : State) : Told s (angleDead n s) := by
  unfold angleDead
  split
  · split
    · exact .refl s
    · exact rudderFault_told n _ true s
  · exact .refl s

theorem angleResult_told (n high cycle : Nat) (s : State) : Told s (angleResult n high cycle s) := by
  have huse (a : Int) : Told s (useAngle n a s) := by
    unfold useAngle
    split
    · split
      · exact modRudder_told n _ s
      · exact .refl s
      · exact (modRudder_told n _ s).trans (writeValves_told n false _)
    · exact .refl s
  unfold angleResult
  split
  · exact .refl s
  · split
    · exact .refl s
    · split
      · exact rudderFault_told n _ true s
      · exact huse _

/-! ## The view -/

theorem noticePeers_books (s : State) : BooksKept s (noticePeers s) :=
  (BooksKept.ofTold (((recompute_told s).trans (stcNotice_told _)).trans (settle_told false _))).trans (fuelTotals_books _)

theorem reselect_books (s : State) : BooksKept s (reselect s) := .ofFau (reselect_fau s)

theorem takeEffective_books (d e : Int) (s : State) : BooksKept s (takeEffective d e s) := by
  unfold takeEffective
  split
  · exact .refl s
  · exact (BooksKept.ofTold ((recompute_told _).trans (stcNotice_told _))).since rfl

theorem examineOrders_books (n : Nat) (s : State) : BooksKept s (examineOrders n s) := by
  unfold examineOrders
  split
  · split
    · exact .refl s
    next b h _ _ _ => exact (BooksKept.ofTold (passOrders_told s.cfg.station n b _ (ordersNoted n h s))).since rfl
  · exact .refl s

theorem takeHelm_books (n : Nat) (s : State) : BooksKept s (takeHelm n s) := by
  unfold takeHelm
  split
  · split
    · exact (takeEffective_books _ _ s).trans (examineOrders_books n _)
    · exact .refl s
  · exact .refl s

theorem advanceOrder_books (s : State) : BooksKept s (advanceOrder s) := by
  have hpassed (w : State) (h : w.fau = s.fau) :
      BooksKept s (if w.cvu.followed = some w.cfg.station then examineOrders w.cfg.station w else w) :=
    (BooksKept.ofFau h).trans (.ite _ (examineOrders_books _ w))
  refine hpassed (if s.cvu.claim = .claiming then sendHelm (orderAdvanced s) else orderAdvanced s) ?_
  split
  · rw [sendHelm_claimOnly (orderAdvanced s)]
    rfl
  · rfl

theorem deliverFrame_books (k : FrameKind) (f : RxFrame) (s : State) : BooksKept s (deliverFrame k f s) := by
  have hstored : BooksKept s (storeFrame k f s) := by
    refine .ofFau ?_
    unfold storeFrame admitPeer
    split <;> rfl
  have htold (woken : Bool) (t : State) : BooksKept t (tellArrival k woken t) := by
    have hview : BooksKept t (if carriesStatus k || woken then noticePeers (keepSums t) else t) :=
      .ite _ ((noticePeers_books (keepSums t)).since rfl)
    exact hview.trans (.ite _ (fuelTotals_books _))
  exact ((hstored.trans (htold _ _)).trans (.ite _ (reselect_books _))).trans (.ite _ (takeHelm_books _ _))

theorem removePeer_books (n : Nat) (s : State) : BooksKept s (removePeer n s) := by
  rw [removePeer_eq]
  exact ((reselect_books _).trans (noticePeers_books _)).since rfl

theorem markLost_books (n : Nat) (s : State) : BooksKept s (markLost n s) :=
  ((noticePeers_books (raiseFlag .peerLost (modPeer n (fun p => { p with state := .lost }) s))).trans
    (reselect_books _)).since rfl

/-! ## The panel, the modes and the line -/

theorem handOnPanel_books (old new : Panel) (own : Bool) (s : State) : BooksKept s (handOnPanel old new own s) := by
  have hlever : BooksKept s (handOnLever old new own s) :=
    ((BooksKept.ite _ (.ofTold (shuNotice_told true s))).trans (.ite _ (.ofTold (stcNotice_told _)))).trans
      (.ite _ (takeEffective_books _ _ _))
  have hclaim (t : State) : BooksKept t (handOnClaim old new t) := by
    unfold handOnClaim
    split
    · exact .refl t
    · exact reselect_books t
  have hsets (t : State) : BooksKept t (handOnSets old new t) := by
    unfold handOnSets
    split
    · exact .refl t
    · exact advanceOrder_books t
  exact ((hlever.trans (hclaim _)).trans (hsets _)).trans (.ofTold (handOnCouplings_told old new _))

theorem noticeMode_books (s : State) : BooksKept s (noticeMode s) :=
  (reselect_books s).trans (.ofTold ((shuNotice_told true _).trans (stcNotice_told _)))

theorem receiveFrame_books (kind : Nat) (f : RxFrame) (s : State) : BooksKept s (receiveFrame kind f s) := by
  have hsilent (t : State) : BooksKept t (enterSilent t) :=
    (noticeMode_books (setMode .silent none (stopTransmitter t))).since rfl
  have hduplicate (t : State) : BooksKept t (duplicateFound t) := by
    unfold duplicateFound
    split
    · exact (hsilent (raiseFlag .duplicate t)).since rfl
    · exact .ofFau rfl
  have haccept (k : FrameKind) (t : State) : BooksKept t (acceptFrame k f t) := by
    unfold acceptFrame
    split
    · exact hduplicate t
    · exact (deliverFrame_books k f (countReceived t)).since rfl
  unfold receiveFrame
  split
  · split
    · exact .ofFau rfl
    · split
      · split
        · exact (haccept _ (frameSeen s)).since rfl
        · exact .ofFau rfl
      · exact .ofFau rfl
  · exact .refl s

theorem tryStart_told (s : State) : Told s (tryStart s) := by
  rw [tryStart_eq]
  exact lif_told _ s

theorem statusExpired_told (s : State) : Told s (statusExpired s) :=
  ((placeFrame_told .status _ s).trans (lif_told _ _)).trans (tryStart_told _)

theorem lineBecomesIdle_told (b : Option Nat) (s : State) : Told s (lineBecomesIdle b s) :=
  .ite _ ((lif_told _ s).trans (tryStart_told _))

theorem discardFrame_told (c : RxFault) (s : State) : Told s (discardFrame c s) := by
  unfold discardFrame
  split
  · exact lif_told _ s
  · exact .ite _ (lif_told _ s)

theorem loseArbitration_told (x : Tx) (s : State) : Told s (loseArbitration x s) := by
  unfold loseArbitration
  split
  · exact .refl s
  · exact lif_told _ s

theorem sealFrame_told (x : Tx) (s : State) : Told s (sealFrame x s) := by
  unfold sealFrame
  split
  · exact .refl s
  · exact lif_told _ s

theorem recordSend_told (s : State) : Told s (recordSend s) := by
  have hmute (t : State) : Told t { t with shu := { t.shu with muted := false } } := shu_told _ t
  exact ((lif_told { s.lif with lastSent := some s.now } s).trans (hmute _)).trans (shuNotice_told false _)

theorem finishSend_told (x : Tx) (s : State) : Told s (finishSend x s) := by
  have hended (l : Lif) : Told s (if carriesStatus x.kind then recordSend { s with lif := l } else { s with lif := l }) :=
    (lif_told l s).trans (.ite _ (recordSend_told _))
  exact hended _

theorem abandonFrame_told (x : Tx) (s : State) : Told s (abandonFrame x s) := by
  have hsuspend (t : State) : Told t (suspendIfDue t) := by
    unfold suspendIfDue
    exact .ite _ ((lif_told _ t).trans (raiseFlag_told _ _))
  exact (lif_told _ s).trans (hsuspend _)

/-! ## The commands -/

theorem BooksKept.answered {f : State → State} (hf : ∀ s, BooksKept s (f s)) (s : State) : BooksKept s (inService f s) := by
  unfold inService
  split
  · exact .ofFau rfl
  · exact hf s

theorem BooksKept.replied {s u : State} (d : List Byte) (h : BooksKept s u) : BooksKept s (replyOk d u) :=
  h.trans (.ofFau rfl)

/-- What a command leaves in `u` where its outcome is a choice between a change and nothing. -/
theorem books_of_ite {s a b u : State} {p : Prop} [Decidable p]
    (hu : (if p then Host.Outcome.next a else Host.Outcome.next b : Host.Outcome State Fault Refusal) = .next u)
    (ha : BooksKept s a) (hb : BooksKept s b) : BooksKept s u := by
  split at hu <;> cases hu
  · exact ha
  · exact hb

theorem makeResult_books {e n : Nat} {r : Result} {s : State} {k : ChanCfg} (hk : getN s.cfg.chans n = some k)
    (hkind : k.kind = .angle) : BooksKept s (makeResult e n r s) := by
  cases hc : getN s.pgu.chans n with
  | none =>
    simp only [makeResult, hk, hc]
    exact .refl s
  | some c =>
    have hdelivered (a b : Health) (t : State) : BooksKept t (deliverResult k r a b t) := by
      simp only [deliverResult, hkind, deliverDead, deliverNoPulse, deliverGood]
      split
      · exact .ite _ (.ofTold (angleDead_told _ t))
      · exact .ofTold (angleResult_told _ _ _ t)
    have hfree (t : State) : BooksKept t (freeChan e n t) := by
      obtain ⟨g, hg⟩ := takeAll_withPgu (setEngine e none (modChan n (fun q => { q with req := .idle }) t))
      rw [freeChan, hg]
      exact .ofFau rfl
    have hresult : makeResult e n r s = freeChan e n (deliverResult k r c.health (judgeHealth k.deadCount r.outcome c).health
        (modChan n (fun _ => { judgeHealth k.deadCount r.outcome c with last := some (r.outcome, s.now) }) s)) := by
      simp only [makeResult, hk, hc]
      rfl
    rw [hresult]
    exact ((hdelivered _ _ (modChan n _ s)).trans (hfree _)).since rfl

theorem dutyEvent_books {t n : Nat} {s u : State} :
    (∀ edge, exec (.dutyEdge t n edge) s = .next u → BooksKept (setClock t s) u) ∧
      (exec (.dutyWindowExpiry t n) s = .next u → BooksKept (setClock t s) u) := by
  have hkind {k : ChanCfg} {e : Nat} {m : Meas} (h : underMeasure n (setClock t s) = some (k, e, m)) :
      getN (setClock t s).cfg.chans n = some k := by
    unfold underMeasure at h
    split at h
    · split at h
      · cases h
        assumption
      · cases h
    · cases h
  refine ⟨fun edge hu => ?_, fun hu => ?_⟩
  · have hu : execDutyEdge t n edge s = .next u := hu
    simp only [execDutyEdge] at hu
    split at hu
    next k e m hheld =>
      split at hu
      next hangle =>
        cases hu
        unfold applyEdge
        split
        · exact .ofFau rfl
        · exact makeResult_books (hkind hheld) hangle
      · cases hu
        exact .refl _
    · cases hu
      exact .refl _
  · have hu : execDutyWindowExpiry t n s = .next u := hu
    simp only [execDutyWindowExpiry] at hu
    split at hu
    next k e m hheld =>
      split at hu
      next hangle =>
        cases hu
        exact makeResult_books (hkind hheld) hangle.1
      · cases hu
        exact .refl _
    · cases hu
      exact .refl _

theorem mute_told (s : State) : Told s (mute s) := (shu_told _ s).trans (shuNotice_told false _)

theorem setDeparting_told (s : State) : Told s (setDeparting s) := (shu_told _ s).trans (shuNotice_told false _)

theorem endGrace_books (s : State) : BooksKept s (endGrace s) :=
  (BooksKept.ofTold ((recompute_told _).trans (stcNotice_told _))).since rfl

theorem enterRunning_books (s : State) : BooksKept s (enterRunning s) :=
  ((noticeMode_books (setMode .running none s)).trans (.ofTold (placeAlert_told _))).since rfl

theorem takePanel_books (p : Panel) (s : State) : BooksKept s (takePanel p s) := (handOnPanel_books _ p true _).since rfl

theorem timeOutPanel_books (s : State) : BooksKept s (timeOutPanel s) := (handOnPanel_books _ _ false _).since rfl

theorem placeHelm_books (h : HelmContents) (y : Bool) (s : State) : BooksKept s (placeHelm h y s) :=
  .ofTold (placeFrame_told _ _ s)

/-- A command that does not concern the books leaves them (chapter 6). -/
theorem exec_books {c : Instr} {s u : State} (hu : exec c s = .next u) (hc : touchesBooks c = false)
    (hr : isReset c = false) : ∃ t, BooksKept (setClock t s) u := by
  cases c
  case powerOn => cases hr
  case pinReset => cases hr
  case start => cases hc
  case restart => cases hc
  case transferStart => cases hc
  case transferAbort => cases hc
  case bunkerStart => cases hc
  case bunkerStop => cases hc
  case rebase => cases hc
  case controlStep => cases hc
  case periodEdge => cases hc
  case periodWindowExpiry => cases hc
  case badRequest t b =>
    refine ⟨t, ?_⟩
    cases hu
    unfold badWrite
    split
    · exact .refl _
    · split
      · exact .refl _
      · exact .ofFau rfl
  case configWrite t p d =>
    refine ⟨t, ?_⟩
    cases hu
    unfold configAnswer
    split
    · exact .ofFau rfl
    · split
      · exact .ofFau rfl
      · split
        · exact .ofFau rfl
        · exact .ofFau rfl
  case panel t l r f x y =>
    refine ⟨t, ?_⟩
    cases hu
    exact .answered (fun q => (takePanel_books _ q).replied []) _
  case panelTimeout t => exact ⟨t, books_of_ite hu (timeOutPanel_books _) (.refl _)⟩
  case depart t =>
    refine ⟨t, ?_⟩
    cases hu
    exact .answered (fun q => (BooksKept.ofTold (setDeparting_told q)).replied []) _
  case forgetPeer t n =>
    refine ⟨t, ?_⟩
    cases hu
    refine .answered (fun q => ?_) _
    unfold forgetAnswer
    split
    · exact .ofFau rfl
    · split
      · exact (removePeer_books _ q).replied []
      · exact .ofFau rfl
  case clearParted t =>
    refine ⟨t, ?_⟩
    cases hu
    refine .answered (fun q => ?_) _
    unfold clearPartedAnswer
    split
    · exact (BooksKept.ofTold (acknowledge_told q)).replied []
    · exact .ofFau rfl
  case rudderRetry t n =>
    refine ⟨t, ?_⟩
    cases hu
    refine .answered (fun q => ?_) _
    unfold retryAnswer
    split
    · exact .ofFau rfl
    · split
      · exact .ofFau rfl
      · split
        · exact .ofFau rfl
        · exact .ofFau rfl
  case clearAttention t m =>
    cases hu
    exact ⟨t, .ofFau rfl⟩
  case readLine t n =>
    refine ⟨t, ?_⟩
    cases hu
    unfold lineAnswer
    split <;> exact .ofFau rfl
  case readStation t => cases hu; exact ⟨t, .ofFau rfl⟩
  case readPeers t => cases hu; exact ⟨t, .ofFau rfl⟩
  case readShafts t => cases hu; exact ⟨t, .ofFau rfl⟩
  case readRudders t => cases hu; exact ⟨t, .ofFau rfl⟩
  case readWinches t => cases hu; exact ⟨t, .ofFau rfl⟩
  case readTanks t => cases hu; exact ⟨t, .ofFau rfl⟩
  case readGauges t => cases hu; exact ⟨t, .ofFau rfl⟩
  case readJournal t n => cases hu; exact ⟨t, .ofFau rfl⟩
  case writeBrokenOff t => cases hu; exact ⟨t, .refl _⟩
  case joinTimerExpiry t => exact ⟨t, books_of_ite hu (enterRunning_books _) (.refl _)⟩
  case helmFrame t f => cases hu; exact ⟨t, receiveFrame_books _ f _⟩
  case statusFrame t f => cases hu; exact ⟨t, receiveFrame_books _ f _⟩
  case alertFrame t f => cases hu; exact ⟨t, receiveFrame_books _ f _⟩
  case fuelFrame t f => cases hu; exact ⟨t, receiveFrame_books _ f _⟩
  case malformed t k f => cases hu; exact ⟨t, receiveFrame_books _ f _⟩
  case duplicate t k f => cases hu; exact ⟨t, receiveFrame_books _ f _⟩
  case crcError t x => cases hu; exact ⟨t, .ofTold (discardFrame_told x _)⟩
  case lineIdle i => cases hu; exact ⟨i.since, .ofTold (lineBecomesIdle_told _ _)⟩
  case arbitrationLost t =>
    refine ⟨t, ?_⟩
    simp only [exec, execArbitrationLost] at hu
    split at hu <;> cases hu
    · exact .ofTold (loseArbitration_told _ _)
    · exact .refl _
  case arbitrationComplete t =>
    refine ⟨t, ?_⟩
    simp only [exec, execArbitrationComplete] at hu
    split at hu <;> cases hu
    · exact .ofTold (sealFrame_told _ _)
    · exact .refl _
  case sentSuccessfully t =>
    refine ⟨t, ?_⟩
    simp only [exec, execSentSuccessfully] at hu
    split at hu
    · exact books_of_ite hu (.ofTold (finishSend_told _ _)) (.refl _)
    · cases hu
      exact .refl _
  case transmitError t =>
    refine ⟨t, ?_⟩
    simp only [exec, execTransmitError] at hu
    split at hu <;> cases hu
    · exact .ofTold (abandonFrame_told _ _)
    · exact .refl _
  case suspensionExpiry t => exact ⟨t, books_of_ite hu (.ofTold ((lif_told _ _).trans (tryStart_told _))) (.refl _)⟩
  case statusTimerExpiry t => exact ⟨t, books_of_ite hu (.ofTold (statusExpired_told _)) (.refl _)⟩
  case helmPeriodExpiry t => exact ⟨t, books_of_ite hu ((placeHelm_books _ _ _).since rfl) (.refl _)⟩
  case graceExpiry t => exact ⟨t, books_of_ite hu (endGrace_books _) (.refl _)⟩
  case muteExpiry t => exact ⟨t, books_of_ite hu (.ofTold (mute_told _)) (.refl _)⟩
  case fuelPeriodExpiry t =>
    have hplaced (e : Option Nat) (q : State) : BooksKept q (placeFuel { q with fau := { q.fau with fuelAt := e } }) :=
      BooksKept.trans (t := { q with fau := { q.fau with fuelAt := e } }) ⟨rfl, rfl, rfl, rfl, rfl, rfl⟩
        (.ofTold (placeFrame_told _ _ _))
    exact ⟨t, books_of_ite hu (hplaced _ _) (.refl _)⟩
  case staleExpiry t n =>
    refine ⟨t, ?_⟩
    simp only [exec, execStaleExpiry] at hu
    split at hu
    · exact books_of_ite hu ((noticePeers_books _).since rfl) (.refl _)
    · cases hu
      exact .refl _
  case lostExpiry t n =>
    refine ⟨t, ?_⟩
    simp only [exec, execLostExpiry] at hu
    split at hu
    · refine books_of_ite hu ?_ (.refl _)
      split
      · exact removePeer_books n _
      · exact markLost_books n _
    · cases hu
      exact .refl _
  case helmAgeExpiry t n =>
    refine ⟨t, ?_⟩
    simp only [exec, execHelmAgeExpiry] at hu
    split at hu
    · exact books_of_ite hu ((reselect_books _).since rfl) (.refl _)
    · cases hu
      exact .refl _
  case dwellExpiry t n =>
    refine ⟨t, ?_⟩
    simp only [exec, execDwellExpiry] at hu
    split at hu
    · exact books_of_ite hu (.ofTold (actShaft_told n _ _)) (.refl _)
    · cases hu
      exact .refl _
  case deviationExpiry t n =>
    refine ⟨t, ?_⟩
    simp only [exec, execDeviationExpiry] at hu
    split at hu
    · exact books_of_ite hu (deviationExpired_books n _ _) (.refl _)
    · cases hu
      exact .refl _
  case stallExpiry t n =>
    refine ⟨t, ?_⟩
    simp only [exec, execStallExpiry] at hu
    split at hu
    · exact books_of_ite hu (.ofTold (rudderFault_told n _ true _)) (.refl _)
    · cases hu
      exact .refl _
  case haulTimeoutExpiry t n => cases hu; exact ⟨t, .ofTold (winchExpiry_told n _ _ (raiseFlag_told _) _)⟩
  case haulPulseExpiry t n => cases hu; exact ⟨t, .ofTold (winchExpiry_told n _ _ .refl _)⟩
  case releaseWaitExpiry t n => cases hu; exact ⟨t, .ofTold (winchExpiry_told n _ _ .refl _)⟩
  case releaseHoldExpiry t n => cases hu; exact ⟨t, .ofTold (winchExpiry_told n _ _ .refl _)⟩
  case pullOffTimerExpiry t => exact ⟨t, books_of_ite hu (.ofTold (pullOffTimeout_told _)) (.refl _)⟩
  case intervalExpiry t n =>
    refine ⟨t, ?_⟩
    simp only [exec, execIntervalExpiry] at hu
    split at hu
    next r k _ _ =>
      obtain ⟨g, hg⟩ := intervalExpired_withPgu n k r (setClock t s)
      exact books_of_ite hu (by rw [hg]; exact .ofFau rfl) (.refl _)
    · cases hu
      exact .refl _
  case dutyEdge t n e => exact ⟨t, dutyEvent_books.1 e hu⟩
  case dutyWindowExpiry t n => exact ⟨t, dutyEvent_books.2 hu⟩
  case periodStart t => exact ⟨t, books_of_ite hu (.ofFau rfl) (.refl _)⟩

/-! ## The other blocks -/

theorem touchesPeers_of_frame {c : Instr} (h : isFrame c = true) : touchesPeers c = true := by
  cases c <;> simp_all [isFrame, touchesPeers]

theorem base_samePeers {c : Instr} {s b : State} (h : Base c s b) (hc : touchesPeers c = false) : b.cvu.peers = s.cvu.peers := by
  cases h
  case stored => exact absurd (hc.symm.trans (touchesPeers_of_frame ‹_›)) (by decide)
  case aged => exact absurd (hc.symm.trans ‹touchesPeers c = true›) (by decide)
  case removed => exact absurd (hc.symm.trans ‹touchesPeers c = true›) (by decide)
  case restarted => cases hc
  all_goals rfl

theorem base_panel {c : Instr} {s b : State} (h : Base c s b) (hp : ∀ u l r f x y, c ≠ .panel u l r f x y)
    (ht : ∀ u, c ≠ .panelTimeout u) : b.svp.panel = s.svp.panel ∧ b.svp.panelState = s.svp.panelState ∧
      b.svp.panelAt = s.svp.panelAt := by
  cases h
  case panel => exact absurd rfl (hp _ _ _ _ _ _)
  case panelTimeout => exact absurd rfl (ht _)
  case stored => rw [storeFrame_eq]; exact ⟨rfl, rfl, rfl⟩
  case restarted => rw [withPgu, restartBase_eq]; exact ⟨rfl, rfl, rfl⟩
  all_goals exact ⟨rfl, rfl, rfl⟩

theorem base_lines {c : Instr} {s b : State} (h : Base c s b) (hp : ∀ u, c ≠ .periodStart u) :
    b.dlu.lines = s.dlu.lines := by
  cases h
  case period => exact absurd rfl (hp _)
  case stored => rw [storeFrame_eq]; rfl
  case restarted => rw [withPgu, restartBase_eq]
  all_goals rfl

theorem base_straps {c : Instr} {s b : State} (h : Base c s b) : b.svp.straps = s.svp.straps := by
  cases h
  case stored => rw [storeFrame_eq]; rfl
  case restarted => rw [withPgu, restartBase_eq]
  all_goals rfl

/-- Settles O14: a command's direct change, and what reacts to it, block by block. -/
theorem blockFrames : Obligations.BlockFrames := by
  intro c s u hu hreset
  obtain ⟨_, _, -, hr⟩ | ⟨t, b, v, -, hb, hv, hq⟩ := exec_cases hu
  · exact absurd (hreset.symm.trans hr) (by decide)
  have hreply : u.cvu = v.cvu ∧ u.dlu = v.dlu ∧ u.svp = { v.svp with reply := u.svp.reply } := by
    obtain rfl | ⟨-, r, rfl⟩ := hq <;> exact ⟨rfl, rfl, rfl⟩
  obtain ⟨hcvu, hdlu, hsvp⟩ := hreply
  refine ⟨fun hc => exec_reply hu hc hreset, fun hc => ?_, fun hc => exec_pgu_frame hu hc hreset, fun hc => ?_,
    fun hp ht => ?_, fun hp => ?_, ?_⟩
  · rw [hcvu, hv.peers, base_samePeers hb hc]
    rfl
  · obtain ⟨k, hk⟩ := exec_books hu hc hreset
    exact ⟨hk.tanks, hk.journal, hk.serial, hk.transfer, hk.bunker⟩
  · have hpanel := base_panel hb hp ht
    rw [hsvp, hv.svp]
    exact hpanel
  · rw [hdlu]
    have hlines := base_lines hb hp
    exact hv.carried.trans (congrArg _ hlines)
  · rw [hsvp, hv.svp]
    have hstraps := base_straps hb
    exact hstraps

end Sys2Proof.Machine
end

section
/-!
SUPPORT. The fuel unit: journal entries, movements, the top-up check, the stop of a movement, and what the consequences of a
booking keep (R111, R120 to R127, R131).
-/

namespace Sys2Proof.Machine

/-! ## Lists of records -/

/-- Records that a view does not tell apart, item by item. -/
theorem getN_of_map_eq {α β : Type} {g : α → β} {l k : List α} (h : k.map g = l.map g) {n : Nat} {x : α}
    (hx : getN l n = some x) : ∃ y, getN k n = some y ∧ g y = g x := by
  have hy : (getN k n).map g = some (g x) := by rw [← getN_map, h, getN_map, hx, Option.map_some]
  exact Option.map_eq_some_iff.1 hy

theorem map_of_map_eq {α β γ : Type} {g : α → β} (f : β → γ) {l k : List α} (h : k.map g = l.map g) :
    k.map (fun x => f (g x)) = l.map fun x => f (g x) := by
  have hcomp (m : List α) : m.map (fun x => f (g x)) = (m.map g).map f := (List.map_map ..).symm
  rw [hcomp, hcomp, h]

/-- The first of the numbers that satisfies a test. -/
theorem find_numbers {p : Nat → Bool} {len n : Nat} (hn : n ∈ numbers len) (hp : p n = true)
    (hbelow : ∀ m, m < n → p m = false) : (numbers len).find? p = some n := by
  obtain ⟨h1, h2⟩ := mem_numbers.1 hn
  have hfind : (List.range len).find? (p ∘ (· + 1)) = some (n - 1) := by
    rw [List.find?_range_eq_some]
    refine ⟨?_, List.mem_range.2 (by omega), fun j hj => ?_⟩
    · rw [Function.comp_apply, Nat.sub_add_cancel h1]
      exact hp
    · rw [Function.comp_apply, hbelow (j + 1) (by omega)]
      rfl
  rw [numbers, List.find?_map, hfind]
  simp only [Option.map_some, Nat.sub_add_cancel h1]

theorem find_numbers_none {p : Nat → Bool} {len : Nat} (h : ∀ n, p n = false) : (numbers len).find? p = none := by
  rw [List.find?_eq_none]
  exact fun n _ => by rw [h n]; decide

/-! ## The journal (R131) -/

/-- While the serials last, an entry becomes the last of the journal. -/
theorem writeEntry_last {mk : Nat → Nat → Entry} {s : State} (h : s.fau.nextSerial ≤ 4294967295) :
    (writeEntry mk s).fau.journal = appendEntry (mk s.fau.nextSerial s.stationTime) s.fau.journal ∧
      (writeEntry mk s).fau.nextSerial = s.fau.nextSerial + 1 := by
  have hroom : journalRoom s.fau = (s.fau.journal, s.fau.nextSerial) := if_neg (Nat.not_lt.2 h)
  constructor <;> simp only [writeEntry, hroom]

theorem appendEntry_getLast (e : Entry) (j : List Entry) : (appendEntry e j).getLast? = some e := by
  simp [appendEntry]

/-- The last entry stays when one more is written. -/
theorem mem_appendEntry {e x : Entry} {j : List Entry} (h : j.getLast? = some e) : e ∈ appendEntry x j := by
  obtain ⟨l, rfl⟩ := List.getLast?_eq_some_iff.1 h
  unfold appendEntry
  split
  next hfull =>
    have hmax : (128 : Nat) ≤ (l ++ [e]).length := hfull
    have hlen : 1 ≤ l.length := by
      simp only [List.length_append, List.length_singleton] at hmax
      omega
    rw [List.drop_append_of_le_length hlen]
    simp
  · simp

theorem writeEntry_keepsLast {mk : Nat → Nat → Entry} {s : State} {e : Entry} (hs : s.fau.nextSerial ≤ 4294967295)
    (h : s.fau.journal.getLast? = some e) : e ∈ (writeEntry mk s).fau.journal := by
  rw [(writeEntry_last hs).1]
  exact mem_appendEntry h

/-! ## Movements in flight (R109) -/

theorem movementOf_set {n : Nat} {m : Movement} {s : State} (h : (getN s.fau.tanks n).isSome = true) :
    movementOf n (setMovement m n s) = m := by
  obtain ⟨x, hx⟩ := Option.isSome_iff_exists.1 h
  simp [movementOf, setMovement, hx]

theorem movementOf_ended (n : Nat) (s : State) : movementOf n (setMovement .none n s) = .none := by
  cases h : getN s.fau.tanks n <;> simp [movementOf, setMovement, h]

theorem movementOf_setMovement_ne {n k : Nat} (h : k ≠ n) (m : Movement) (s : State) :
    movementOf k (setMovement m n s) = movementOf k s := by
  simp [movementOf, setMovement, getN_modN_ne (Ne.symm h)]

theorem tank_setMovement {n k : Nat} {m : Movement} {s : State} :
    (getN (setMovement m n s).fau.tanks k).isSome = (getN s.fau.tanks k).isSome := by
  by_cases h : n = k
  · subst h
    simp [setMovement]
  · simp [setMovement, getN_modN_ne h]

/-! ## What no movement changes of a tank -/

/-- The part of a tank's record that only bookings, soundings and REBASE change. -/
def tankBalance (k : Tank) : Int × Option (Nat × Nat) × Nat × Bool := (k.raw, k.sounding, k.run, k.reported)

/-- The balances of the tanks, the bunker record, and what the engines have burned, have not changed. -/
structure BalancesKept (s u : State) : Prop where
  clock : u.clock = s.clock
  cfg : u.cfg = s.cfg
  tanks : u.fau.tanks.map tankBalance = s.fau.tanks.map tankBalance
  bunker : u.fau.bunker = s.fau.bunker
  burns : u.fau.burns.map burnAmounts = s.fau.burns.map burnAmounts

namespace BalancesKept

variable {s t u : State}

theorem refl (s : State) : BalancesKept s s := ⟨rfl, rfl, rfl, rfl, rfl⟩

theorem trans (h : BalancesKept s t) (k : BalancesKept t u) : BalancesKept s u :=
  ⟨k.clock.trans h.clock, k.cfg.trans h.cfg, k.tanks.trans h.tanks, k.bunker.trans h.bunker, k.burns.trans h.burns⟩

theorem raws (h : BalancesKept s u) : u.fau.tanks.map (·.raw) = s.fau.tanks.map (·.raw) := map_of_map_eq (·.1) h.tanks

theorem stationTime (h : BalancesKept s u) : u.stationTime = s.stationTime := by rw [State.stationTime, h.clock, State.stationTime]

theorem tank (h : BalancesKept s u) {n : Nat} {x : Tank} (hx : getN s.fau.tanks n = some x) :
    ∃ y, getN u.fau.tanks n = some y ∧ tankBalance y = tankBalance x := getN_of_map_eq h.tanks hx

theorem raw (h : BalancesKept s u) {n : Nat} {x : Tank} (hx : getN s.fau.tanks n = some x) :
    ∃ y, getN u.fau.tanks n = some y ∧ y.raw = x.raw := getN_of_map_eq h.raws hx

/-- Contents are made of the balances. -/
theorem content (h : BalancesKept s u) (n : Nat) : Machine.content n u = Machine.content n s := by
  have hraw : (getN u.fau.tanks n).map (·.raw) = (getN s.fau.tanks n).map (·.raw) := by
    rw [← getN_map, h.raws, getN_map]
  unfold Machine.content
  rw [h.cfg]
  cases hc : getN s.cfg.tanks n with
  | none => rfl
  | some c =>
    cases hx : getN s.fau.tanks n with
    | none =>
      rw [hx, Option.map_none, Option.map_eq_none_iff] at hraw
      simp only [hraw]
    | some x =>
      obtain ⟨y, hy, hyx⟩ := h.raw hx
      simp only [hy, contentOf, hyx]

end BalancesKept

theorem modTank_balances {n : Nat} {f : Tank → Tank} (hf : ∀ k, tankBalance (f k) = tankBalance k) (s : State) :
    BalancesKept s (modTank n f s) := ⟨rfl, rfl, map_modN tankBalance f hf _ _, rfl, rfl⟩

theorem writeDuty_balances (a : Assignment) (d : Nat) (s : State) : BalancesKept s (writeDuty a d s) := by
  have htold := writeDuty_told a d s
  exact ⟨htold.clock, htold.cfg, by rw [htold.fau], by rw [htold.fau], by rw [htold.fau]⟩

/-! ## A transfer starts (R120) -/

theorem writeDuty_frame (a : Assignment) (d : Nat) (s : State) :
    writeDuty a d s = { s with dlu := (writeDuty a d s).dlu } := by
  unfold writeDuty
  split <;> rfl

/-- The books as a transfer that starts leaves them. -/
def transferBegun (o : TransferOrigin) (src dst : Nat) (req : Option Nat) (s : State) : State :=
  setMovement .transferDst dst (setMovement .transferSrc src
    { s with
      fau :=
        { s.fau with
          transfer :=
            { running := true, origin := some o, source := src, destination := dst, requested := req, moved := 0
              residue := 0 } } })

section
variable (o : TransferOrigin) (src dst : Nat) (req : Option Nat) (s : State)

theorem startTransfer_frame : startTransfer o src dst req s = { s with
    fau := (transferBegun o src dst req s).fau, dlu := (startTransfer o src dst req s).dlu } :=
  writeDuty_frame .transferPump 1000 (transferBegun o src dst req s)

theorem startTransfer_fau : (startTransfer o src dst req s).fau = (transferBegun o src dst req s).fau := by
  rw [startTransfer_frame]

theorem startTransfer_balances : BalancesKept s (startTransfer o src dst req s) := by
  have hbegun : BalancesKept s (transferBegun o src dst req s) :=
    BalancesKept.trans (t := { s with fau := { s.fau with transfer := (transferBegun o src dst req s).fau.transfer } })
      ⟨rfl, rfl, rfl, rfl, rfl⟩
      ((modTank_balances (n := src) (f := fun t => { t with movement := .transferSrc }) (fun _ => rfl) _).trans
        (modTank_balances (n := dst) (f := fun t => { t with movement := .transferDst }) (fun _ => rfl) _))
  exact hbegun.trans (writeDuty_balances _ _ _)

theorem startTransfer_pump : Written .transferPump 1000 s (startTransfer o src dst req s) :=
  writeDuty_written .transferPump 1000 (transferBegun o src dst req s)

theorem startTransfer_record : (startTransfer o src dst req s).fau.transfer =
    { running := true, origin := some o, source := src, destination := dst, requested := req, moved := 0
      residue := 0 } := by
  rw [startTransfer_fau]
  rfl

theorem startTransfer_journal : (startTransfer o src dst req s).fau.journal = s.fau.journal ∧
    (startTransfer o src dst req s).fau.nextSerial = s.fau.nextSerial := by
  rw [startTransfer_fau]
  exact ⟨rfl, rfl⟩

theorem startTransfer_destination (h : (getN s.fau.tanks dst).isSome = true) :
    movementOf dst (startTransfer o src dst req s) = .transferDst := by
  have hbegun : movementOf dst (transferBegun o src dst req s) = .transferDst := by
    refine movementOf_set ?_
    rw [tank_setMovement]
    exact h
  simpa only [movementOf, startTransfer_fau] using hbegun

theorem startTransfer_source (hne : src ≠ dst) (h : (getN s.fau.tanks src).isSome = true) :
    movementOf src (startTransfer o src dst req s) = .transferSrc := by
  have hbegun : movementOf src (transferBegun o src dst req s) = .transferSrc :=
    (movementOf_setMovement_ne hne _ _).trans (movementOf_set (s := { s with fau := { s.fau with transfer :=
      (transferBegun o src dst req s).fau.transfer } }) h)
  simpa only [movementOf, startTransfer_fau] using hbegun

end

/-! ## The top-up check (R125) -/

theorem asksTopUp_iff (s : State) (d : Nat) : asksTopUp s d = true ↔ ∃ a, wantsTopUp s d a := by
  unfold asksTopUp wantsTopUp
  cases hc : getN s.cfg.tanks d with
  | none => simp
  | some c =>
    cases hk : getN s.fau.tanks d with
    | none => simp
    | some k =>
      cases hsrc : c.source with
      | none => simp [hsrc]
      | some a =>
        simp only [hsrc, Bool.and_eq_true, decide_eq_true_eq, Bool.not_eq_true']
        constructor
        · rintro ⟨⟨⟨⟨⟨h1, h2⟩, h3⟩, h4⟩, h5⟩, h6⟩
          exact ⟨a, c, k, rfl, rfl, h1, hsrc, h2, h3, h4, h5, h6⟩
        · rintro ⟨b, c', k', hc', hk', h1, hb, h2, h3, h4, h5, h6⟩
          cases hc'
          cases hk'
          obtain rfl := Option.some.inj (hsrc.symm.trans hb)
          exact ⟨⟨⟨⟨⟨h1, h2⟩, h3⟩, h4⟩, h5⟩, h6⟩

theorem wantsTopUp_source {s : State} {d a b : Nat} (h : wantsTopUp s d a) {c : TankCfg} (hc : getN s.cfg.tanks d = some c)
    (hb : c.source = some b) : b = a := by
  obtain ⟨c', -, hc', -, -, ha, -⟩ := h
  obtain rfl := Option.some.inj (hc.symm.trans hc')
  exact Option.some.inj (hb.symm.trans ha)

/-- The top-up check does nothing, or starts an AUTO transfer. -/
theorem topUp_cases (s : State) : topUp s = s ∨
    (canTransfer s = true ∧ s.fau.transfer.running = false ∧ ∃ d a, wantsTopUp s d a ∧ topUp s = startTransfer .auto a d none s) := by
  by_cases h : (canTransfer s && !s.fau.transfer.running) = true
  · have hcheck : topUp s = match (numbers s.fau.tanks.length).find? (asksTopUp s) with
      | some n =>
        match getN s.cfg.tanks n with
        | some c =>
          match c.source with
          | some src => startTransfer .auto src n none s
          | none => s
        | none => s
      | none => s := by
      unfold topUp
      rw [if_pos h] <;> rfl
    rw [hcheck]
    cases hfind : (numbers s.fau.tanks.length).find? (asksTopUp s) with
    | none => exact .inl rfl
    | some d =>
      obtain ⟨a, hwants⟩ := (asksTopUp_iff s d).1 (List.find?_some hfind)
      obtain ⟨c, k, hc, hk, hrole, hsrc, hrest⟩ := id hwants
      simp only [Bool.and_eq_true, Bool.not_eq_true'] at h
      refine .inr ⟨h.1, h.2, d, a, hwants, ?_⟩
      simp only [hc, hsrc]
  · exact .inl (if_neg h)

/-- The lowest-numbered DAY tank that asks is served. -/
theorem topUp_serves {s : State} {d a : Nat} (hcan : canTransfer s = true) (hidle : s.fau.transfer.running = false)
    (hwants : wantsTopUp s d a) (hfirst : ∀ e b, e < d → ¬wantsTopUp s e b) : topUp s = startTransfer .auto a d none s := by
  obtain ⟨c, k, hc, hk, hrole, hsrc, -⟩ := id hwants
  have hfind : (numbers s.fau.tanks.length).find? (asksTopUp s) = some d :=
    find_numbers (mem_numbers_of_getN hk) ((asksTopUp_iff s d).2 ⟨a, hwants⟩) fun e he =>
      Bool.eq_false_iff.2 fun hasks => by
        obtain ⟨b, hb⟩ := (asksTopUp_iff s e).1 hasks
        exact hfirst e b he hb
  unfold topUp
  rw [if_pos (by simp [hcan, hidle]), hfind]
  simp only [hc, hsrc]

theorem topUp_running {s : State} (h : s.fau.transfer.running = true) : topUp s = s := if_neg (by simp [h])

theorem topUp_balances (s : State) : BalancesKept s (topUp s) := by
  obtain h | ⟨-, -, d, a, -, h⟩ := topUp_cases s
  · rw [h]
    exact .refl s
  · rw [h]
    exact startTransfer_balances _ _ _ _ s

theorem topUp_journal (s : State) : (topUp s).fau.journal = s.fau.journal ∧ (topUp s).fau.nextSerial = s.fau.nextSerial := by
  obtain h | ⟨-, -, d, a, -, h⟩ := topUp_cases s
  · rw [h]
    exact ⟨rfl, rfl⟩
  · rw [h]
    exact startTransfer_journal _ _ _ _ s

theorem topUp_frame (s : State) : topUp s = { s with fau := (topUp s).fau, dlu := (topUp s).dlu } := by
  obtain h | ⟨-, -, d, a, -, h⟩ := topUp_cases s
  · rw [h]
  · rw [h, startTransfer_frame]

/-! ## The stop of a transfer (R122) -/

/-- The journal entry of a transfer that stops. -/
def transferEntry (reason : EndReason) (tr : Transfer) (serial time : Nat) : Entry :=
  { serial := serial, time := time, kind := .transfer, tank := tr.source, other := some tr.destination, volume := tr.moved
    reason := some reason }

/-- The books as the record of a transfer that stops is ended, before its entry. -/
def transferEnded (s : State) : State :=
  setMovement .none s.fau.transfer.destination (setMovement .none s.fau.transfer.source
    (writeDuty .transferPump 0
      { s with fau := { s.fau with transfer := { s.fau.transfer with running := false, residue := 0 } } }))

/-- A transfer stopped, before the top-up check. -/
def transferStopped (reason : EndReason) (s : State) : State :=
  settleHold reason s.fau.transfer (faultIfDead reason (writeEntry (transferEntry reason s.fau.transfer) (transferEnded s)))

theorem stopTransfer_eq (reason : EndReason) (s : State) : stopTransfer reason s = topUp (transferStopped reason s) := rfl

theorem transferEnded_frame (s : State) : transferEnded s = { s with
    fau := { s.fau with
      transfer := { s.fau.transfer with running := false, residue := 0 }, tanks := (transferEnded s).fau.tanks }
    dlu := (transferEnded s).dlu } := by
  unfold transferEnded
  rw [writeDuty_frame]
  rfl

theorem transferEnded_pump (s : State) : Written .transferPump 0 s (transferEnded s) :=
  writeDuty_written .transferPump 0
    { s with fau := { s.fau with transfer := { s.fau.transfer with running := false, residue := 0 } } }

theorem settleHold_frame (reason : EndReason) (tr : Transfer) (s : State) : settleHold reason tr s = { s with
    fau := { s.fau with tanks := (settleHold reason tr s).fau.tanks } } := by
  unfold settleHold
  split <;> rfl

theorem faultIfDead_frame (reason : EndReason) (s : State) : faultIfDead reason s = { s with
    svp := { s.svp with flags := (faultIfDead reason s).svp.flags } } := by
  unfold faultIfDead
  split <;> rfl

theorem faultIfDead_flags (reason : EndReason) (s : State) (f : Flag) :
    flagSet f (faultIfDead reason s) = (flagSet f s || decide (f = .meterFault ∧ reason = .meterDead)) := by
  unfold faultIfDead
  by_cases h : reason = .meterDead
  · rw [if_pos h, flagSet_raiseFlag]
    simp [h]
  · rw [if_neg h]
    simp [h]

theorem tankKept_mod {n : Nat} {f : Tank → Tank} {l : List Tank} (hf : ∀ k, tankBalance (f k) = tankBalance k) :
    (modN l n f).map tankBalance = l.map tankBalance := map_modN tankBalance f hf l n

section
variable (reason : EndReason) (s : State)

theorem transferStopped_frame : transferStopped reason s = { s with
    svp := { s.svp with flags := (transferStopped reason s).svp.flags }
    fau := (transferStopped reason s).fau, dlu := (transferStopped reason s).dlu } := by
  unfold transferStopped
  rw [settleHold_frame, faultIfDead_frame]
  unfold writeEntry
  rw [transferEnded_frame]

/-- The records a stopped transfer leaves: its own IDLE, one entry more, everything else but the tanks as it was. -/
theorem transferStopped_records : (transferStopped reason s).fau.transfer =
      { s.fau.transfer with running := false, residue := 0 } ∧
    (transferStopped reason s).fau.bunker = s.fau.bunker ∧
    (transferStopped reason s).fau.burns = s.fau.burns ∧
    (transferStopped reason s).fau.journal = (writeEntry (transferEntry reason s.fau.transfer) s).fau.journal ∧
    (transferStopped reason s).fau.nextSerial = (writeEntry (transferEntry reason s.fau.transfer) s).fau.nextSerial := by
  unfold transferStopped
  rw [settleHold_frame, faultIfDead_frame]
  unfold writeEntry
  rw [transferEnded_frame]
  exact ⟨rfl, rfl, rfl, rfl, rfl⟩

theorem transferStopped_flags (f : Flag) :
    flagSet f (transferStopped reason s) = (flagSet f s || decide (f = .meterFault ∧ reason = .meterDead)) := by
  unfold transferStopped
  rw [settleHold_frame, ← faultIfDead_flags reason s f]
  unfold faultIfDead
  split
  · rw [flagSet, flagSet]
    unfold writeEntry
    rw [transferEnded_frame]
    rfl
  · rw [flagSet, flagSet]
    unfold writeEntry
    rw [transferEnded_frame]

theorem transferStopped_pump : Written .transferPump 0 s (transferStopped reason s) := by
  have hlines : (transferStopped reason s).dlu = (transferEnded s).dlu := by
    unfold transferStopped
    rw [settleHold_frame, faultIfDead_frame]
    rfl
  unfold Written
  rw [hlines]
  exact transferEnded_pump s

theorem transferEnded_balances : BalancesKept s (transferEnded s) := by
  have hwrite := writeDuty_balances .transferPump 0
    { s with fau := { s.fau with transfer := { s.fau.transfer with running := false, residue := 0 } } }
  have hended : BalancesKept s
      { s with fau := { s.fau with transfer := { s.fau.transfer with running := false, residue := 0 } } } :=
    ⟨rfl, rfl, rfl, rfl, rfl⟩
  exact (hended.trans hwrite).trans
    ((modTank_balances (f := fun t => { t with movement := .none }) (fun _ => rfl) _).trans
      (modTank_balances (f := fun t => { t with movement := .none }) (fun _ => rfl) _))

theorem settleHold_balances (tr : Transfer) : BalancesKept s (settleHold reason tr s) := by
  unfold settleHold
  split
  · exact modTank_balances (by exact fun _ => rfl) s
  · exact .refl s

theorem faultIfDead_balances : BalancesKept s (faultIfDead reason s) := by
  rw [faultIfDead_frame]
  exact ⟨rfl, rfl, rfl, rfl, rfl⟩

theorem transferStopped_balances : BalancesKept s (transferStopped reason s) := by
  have hnoted (t : State) : BalancesKept t (writeEntry (transferEntry reason s.fau.transfer) t) := ⟨rfl, rfl, rfl, rfl, rfl⟩
  exact (((transferEnded_balances s).trans (hnoted _)).trans (faultIfDead_balances reason _)).trans
    (settleHold_balances reason _ _)

theorem settleHold_movements (tr : Transfer) (m : Nat) : movementOf m (settleHold reason tr s) = movementOf m s := by
  unfold settleHold
  split
  next c _ _ =>
    by_cases h : tr.destination = m
    · subst h
      cases hk : getN s.fau.tanks tr.destination <;> simp [movementOf, hk]
    · simp [movementOf, getN_modN_ne h]
  · rfl

theorem transferStopped_movements (m : Nat) : movementOf m (transferStopped reason s) =
    if m = s.fau.transfer.source ∨ m = s.fau.transfer.destination then .none else movementOf m s := by
  have hsame : movementOf m (transferStopped reason s) = movementOf m (transferEnded s) := by
    unfold transferStopped
    rw [settleHold_movements, faultIfDead_frame]
    rfl
  have hbefore : movementOf m (writeDuty .transferPump 0
      { s with fau := { s.fau with transfer := { s.fau.transfer with running := false, residue := 0 } } }) =
      movementOf m s := by
    rw [writeDuty_frame]
    rfl
  rw [hsame]
  by_cases hd : m = s.fau.transfer.destination
  · rw [if_pos (.inr hd), hd]
    exact movementOf_ended _ _
  · have hdest : movementOf m (transferEnded s) = movementOf m (setMovement .none s.fau.transfer.source (writeDuty .transferPump 0
        { s with fau := { s.fau with transfer := { s.fau.transfer with running := false, residue := 0 } } })) :=
      movementOf_setMovement_ne hd _ _
    rw [hdest]
    by_cases ha : m = s.fau.transfer.source
    · rw [if_pos (.inl ha), ha]
      exact movementOf_ended _ _
    · rw [if_neg (by rintro (h | h); exacts [ha h, hd h]), movementOf_setMovement_ne ha, hbefore]

/-- An AUTO destination takes its top-up hold by its low mark (R122). -/
theorem transferStopped_hold {c : TankCfg} {k : Tank} (ho : s.fau.transfer.origin = some .auto)
    (hc : getN s.cfg.tanks s.fau.transfer.destination = some c)
    (hk : getN s.fau.tanks s.fau.transfer.destination = some k) (hr : reason = .aborted ∨ reason = .meterDead) :
    ∃ q, getN (transferStopped reason s).fau.tanks s.fau.transfer.destination = some q ∧
      q.hold = decide (contentOf c k < c.low) := by
  have hnoted : BalancesKept s (faultIfDead reason (writeEntry (transferEntry reason s.fau.transfer) (transferEnded s))) :=
    ((transferEnded_balances s).trans
      (BalancesKept.mk (u := writeEntry (transferEntry reason s.fau.transfer) (transferEnded s)) rfl rfl rfl rfl rfl)).trans
      (faultIfDead_balances reason _)
  obtain ⟨x, hx, hraw⟩ := hnoted.raw hk
  have hc' : getN (faultIfDead reason (writeEntry (transferEntry reason s.fau.transfer) (transferEnded s))).cfg.tanks
      s.fau.transfer.destination = some c := by rw [hnoted.cfg]; exact hc
  have hcontent : contentOf c x = contentOf c k := by rw [contentOf, hraw, contentOf]
  unfold transferStopped
  simp only [settleHold, ho, hc', modTank_tanks, getN_modN_self, hx, Option.map_some, Option.some.injEq, exists_eq_left',
    hcontent, holdAfter, hr, if_true]
  by_cases hlow : contentOf c k < c.low <;> simp [hlow]

end

/-! ## The end of a bunkering (R127) -/

/-- The journal entry of a bunkering that ends. -/
def bunkerEntry (reason : EndReason) (b : Bunker) (serial time : Nat) : Entry :=
  { serial := serial, time := time, kind := .bunker, tank := b.tank, volume := b.volume, reason := some reason }

/-- A bunkering ended, before the top-up check. -/
def bunkerEnded (reason : EndReason) (s : State) : State :=
  faultIfDead reason (writeEntry (bunkerEntry reason s.fau.bunker) (setMovement .none s.fau.bunker.tank
    { s with fau := { s.fau with bunker := { s.fau.bunker with running := false, residue := 0 } } }))

theorem endBunker_eq (reason : EndReason) (s : State) : endBunker reason s = topUp (bunkerEnded reason s) := rfl

section
variable (reason : EndReason) (s : State)

theorem bunkerEnded_frame : bunkerEnded reason s = { s with
    svp := { s.svp with flags := (bunkerEnded reason s).svp.flags }, fau := (bunkerEnded reason s).fau } := by
  unfold bunkerEnded
  rw [faultIfDead_frame]
  rfl

theorem bunkerEnded_records : (bunkerEnded reason s).fau.bunker =
      { s.fau.bunker with running := false, residue := 0 } ∧
    (bunkerEnded reason s).fau.transfer = s.fau.transfer ∧
    (bunkerEnded reason s).fau.journal = (writeEntry (bunkerEntry reason s.fau.bunker) s).fau.journal ∧
    (bunkerEnded reason s).fau.nextSerial = (writeEntry (bunkerEntry reason s.fau.bunker) s).fau.nextSerial := by
  unfold bunkerEnded
  rw [faultIfDead_frame]
  exact ⟨rfl, rfl, rfl, rfl⟩

theorem bunkerEnded_flags (f : Flag) :
    flagSet f (bunkerEnded reason s) = (flagSet f s || decide (f = .meterFault ∧ reason = .meterDead)) :=
  faultIfDead_flags reason _ f

theorem bunkerEnded_tanks : (bunkerEnded reason s).fau.tanks.map tankBalance = s.fau.tanks.map tankBalance := by
  unfold bunkerEnded
  rw [faultIfDead_frame]
  exact tankKept_mod fun _ => rfl

theorem bunkerEnded_movements (m : Nat) : movementOf m (bunkerEnded reason s) =
    if m = s.fau.bunker.tank then .none else movementOf m s := by
  have hsame : movementOf m (bunkerEnded reason s) = movementOf m (setMovement .none s.fau.bunker.tank
      { s with fau := { s.fau with bunker := { s.fau.bunker with running := false, residue := 0 } } }) := by
    unfold bunkerEnded
    rw [faultIfDead_frame]
    rfl
  rw [hsame]
  by_cases h : m = s.fau.bunker.tank
  · rw [if_pos h, h]
    exact movementOf_ended _ _
  · rw [if_neg h, movementOf_setMovement_ne h]
    rfl

end

/-! ## The consequences of a booking (R111 to R113, R122, R125) -/

/-- The books but the bands and the top-up holds have not changed. -/
structure FiguresKept (s u : State) : Prop extends BalancesKept s u where
  journal : u.fau.journal = s.fau.journal
  serial : u.fau.nextSerial = s.fau.nextSerial
  transfer : u.fau.transfer = s.fau.transfer

namespace FiguresKept

variable {s t u : State}

theorem refl (s : State) : FiguresKept s s := ⟨.refl s, rfl, rfl, rfl⟩

theorem trans (h : FiguresKept s t) (k : FiguresKept t u) : FiguresKept s u :=
  ⟨h.toBalancesKept.trans k.toBalancesKept, k.journal.trans h.journal, k.serial.trans h.serial, k.transfer.trans h.transfer⟩

theorem ofBooks (h : BooksKept s u) (hr : Reacts s u) : FiguresKept s u :=
  ⟨⟨hr.clock, hr.cfg, by rw [h.tanks], h.bunker, h.burns⟩, h.journal, h.serial, h.transfer⟩

/-- The stop conditions are judged by the figures. -/
theorem stopReason (h : FiguresKept s u) : stopReason u = stopReason s := by
  unfold Machine.stopReason
  simp only [h.transfer, h.cfg, h.toBalancesKept.content, cutoffOf] <;> rfl

end FiguresKept

theorem modTank_figures {n : Nat} {f : Tank → Tank} (hf : ∀ k, tankBalance (f k) = tankBalance k) (s : State) :
    FiguresKept s (modTank n f s) := ⟨modTank_balances hf s, rfl, rfl, rfl⟩

theorem bandReport_books (n : Nat) (b : Band) (s : State) : BooksKept s (bandReport n b s) := by
  unfold bandReport
  split
  · split
    · split
      · exact .refl s
      · exact (BooksKept.ofTold (actShaft_told n _ s)).trans (noticeEngine_books n _)
    · split
      · exact (BooksKept.ofTold (modShaft_told n _ s)).trans (noticeEngine_books n _)
      · exact .refl s
    · exact .refl s
  · exact .refl s

theorem reportBand_books (n : Nat) (b : Band) (s : State) : BooksKept s (reportBand n b s) := by
  refine foldl_keeps (R := BooksKept) .refl .trans (fun q i => ?_) _ s
  split
  · exact .ite _ (bandReport_books i b q)
  · exact .refl q

theorem bandStep_figures (n : Nat) (s : State) : FiguresKept s (bandStep n s) := by
  unfold bandStep
  split
  next c t _ _ =>
    dsimp only
    split
    · exact .refl s
    · have hreport (q : State) : FiguresKept q (recompute (reportBand n (bandOf c (contentOf c t)) q)) :=
        .ofBooks ((reportBand_books n _ q).trans (.ofTold (recompute_told _)))
          ((reportBand_reacts n _ q).trans (recompute_reacts _))
      have hflag (q : State) : FiguresKept q (if t.band = .normal then raiseFlag .fuelReserve q else q) := by
        split
        · exact ⟨⟨rfl, rfl, rfl, rfl, rfl⟩, rfl, rfl, rfl⟩
        · exact .refl q
      exact ((modTank_figures (by exact fun _ => rfl) s).trans (hflag _)).trans (hreport _)
  · exact .refl s

theorem weightStep_figures (s : State) : FiguresKept s (weightStep s) := by
  have htotals : FiguresKept s (fuelTotals s) := ⟨⟨rfl, rfl, rfl, rfl, rfl⟩, rfl, rfl, rfl⟩
  have hphi (q : State) (p : Nat) : FiguresKept q (recompute { q with shu := { q.shu with phi := p } }) :=
    .ofBooks ((BooksKept.ofTold (recompute_told _)).since rfl) ((shu_reacts _ q).trans (recompute_reacts _))
  unfold weightStep
  dsimp only
  split
  · exact htotals
  · exact htotals.trans (hphi _ _)

theorem clearHold_figures (n : Nat) (s : State) : FiguresKept s (clearHold n s) := by
  unfold clearHold
  split
  · exact modTank_figures (by exact fun _ => rfl) s
  · exact .refl s

/-- The state in which the stop checks of a booking to tank `n` are made (R111). -/
def booked (n : Nat) (s : State) : State := clearHold n (weightStep (bandStep n s))

theorem consequences_eq (n : Nat) (s : State) : consequences n s = topUp (stopCheck n (booked n s)) := rfl

theorem booked_figures (n : Nat) (s : State) : FiguresKept s (booked n s) :=
  ((bandStep_figures n s).trans (weightStep_figures _)).trans (clearHold_figures n _)

theorem stopCheck_cases (n : Nat) (s : State) : stopCheck n s = s ∨
    (s.fau.transfer.running = true ∧ (s.fau.transfer.source = n ∨ s.fau.transfer.destination = n) ∧
      ∃ reason, stopReason s = some reason ∧ stopCheck n s = stopTransfer reason s) := by
  by_cases h : (s.fau.transfer.running && decide (s.fau.transfer.source = n ∨ s.fau.transfer.destination = n)) = true
  · cases hreason : stopReason s with
    | none => exact .inl (by simp [stopCheck, hreason])
    | some reason =>
      simp only [Bool.and_eq_true, decide_eq_true_eq] at h
      exact .inr ⟨h.1, h.2, reason, rfl, by simp [stopCheck, hreason, h.1, h.2]⟩
  · exact .inl (if_neg h)

theorem stopTransfer_balances (reason : EndReason) (s : State) : BalancesKept s (stopTransfer reason s) :=
  (transferStopped_balances reason s).trans (topUp_balances _)

theorem consequences_balances (n : Nat) (s : State) : BalancesKept s (consequences n s) := by
  have hstop : BalancesKept (booked n s) (stopCheck n (booked n s)) := by
    obtain h | ⟨-, -, reason, -, h⟩ := stopCheck_cases n (booked n s)
    · rw [h]
      exact .refl _
    · rw [h]
      exact stopTransfer_balances reason _
  exact ((booked_figures n s).toBalancesKept.trans hstop).trans (topUp_balances _)

/-- While no transfer runs, or the one that runs has no reason to stop, a booking enters nothing in the journal. -/
theorem consequences_quiet {n : Nat} {s : State} (h : s.fau.transfer.running = false ∨ stopReason s = none) :
    (consequences n s).fau.journal = s.fau.journal ∧ (consequences n s).fau.nextSerial = s.fau.nextSerial ∧
      (s.fau.transfer.running = true → FiguresKept s (consequences n s)) := by
  have hbooked := booked_figures n s
  have hstop : stopCheck n (booked n s) = booked n s := by
    obtain hsame | ⟨hrun, -, reason, hreason, -⟩ := stopCheck_cases n (booked n s)
    · exact hsame
    · rw [hbooked.stopReason] at hreason
      rw [hbooked.transfer] at hrun
      rcases h with h | h
      · exact absurd (h.symm.trans hrun) (by decide)
      · cases h.symm.trans hreason
  obtain ⟨hjournal, hserial⟩ := topUp_journal (booked n s)
  rw [consequences_eq, hstop]
  refine ⟨hjournal.trans hbooked.journal, hserial.trans hbooked.serial, fun hrun => ?_⟩
  rw [topUp_running (by rw [hbooked.transfer]; exact hrun)]
  exact hbooked

/-- A booking to a tank of a transfer that has a reason to stop enters the transfer's entry (R122). -/
theorem consequences_stops {n : Nat} {s : State} {reason : EndReason} (hrun : s.fau.transfer.running = true)
    (hn : s.fau.transfer.source = n ∨ s.fau.transfer.destination = n) (hr : stopReason s = some reason)
    (hserial : s.fau.nextSerial ≤ 4294967295) :
    (consequences n s).fau.journal.getLast? = some (transferEntry reason s.fau.transfer s.fau.nextSerial s.stationTime) ∧
      (consequences n s).fau.nextSerial = s.fau.nextSerial + 1 := by
  have hbooked := booked_figures n s
  have hstop : stopCheck n (booked n s) = topUp (transferStopped reason (booked n s)) := by
    unfold stopCheck
    rw [hbooked.transfer, hbooked.stopReason, hr, if_pos (by simp [hrun, hn])]
    rfl
  obtain ⟨hj1, hs1⟩ := topUp_journal (topUp (transferStopped reason (booked n s)))
  obtain ⟨hj2, hs2⟩ := topUp_journal (transferStopped reason (booked n s))
  obtain ⟨-, -, -, hj3, hs3⟩ := transferStopped_records reason (booked n s)
  obtain ⟨hj4, hs4⟩ := writeEntry_last (mk := transferEntry reason (booked n s).fau.transfer) (s := booked n s)
    (by rw [hbooked.serial]; exact hserial)
  rw [consequences_eq, hstop, hj1, hj2, hj3, hj4, hs1, hs2, hs3, hs4, hbooked.serial, hbooked.transfer, hbooked.stationTime]
  exact ⟨appendEntry_getLast _ _, rfl⟩

/-- At most one entry is made by the consequences of a booking, and the last entry before it stays. -/
theorem consequences_keepsLast (n : Nat) {s : State} {e : Entry} (hserial : s.fau.nextSerial ≤ 4294967295)
    (he : s.fau.journal.getLast? = some e) : e ∈ (consequences n s).fau.journal := by
  have hmem : e ∈ s.fau.journal := List.mem_of_getLast? he
  have hbooked := booked_figures n s
  rw [consequences_eq, (topUp_journal _).1]
  obtain h | ⟨-, -, reason, -, h⟩ := stopCheck_cases n (booked n s)
  · rw [h, hbooked.journal]
    exact hmem
  · obtain ⟨-, -, -, hj, -⟩ := transferStopped_records reason (booked n s)
    rw [h, stopTransfer_eq, (topUp_journal _).1, hj]
    exact writeEntry_keepsLast (by rw [hbooked.serial]; exact hserial) (by rw [hbooked.journal]; exact he)

end Sys2Proof.Machine
end

section
/-!
PROOFS. Fuel movements: how they start, end, and what the meter results move (O52, O53); soundings and REBASE (O54).
-/

namespace Sys2Proof.Machine

/-! ## The requests that start a movement (R123, R126) -/

section
variable {src dst : Nat} {req : Option Nat} {q : State}

theorem transferAnswer_noTank (h : ¬((getN q.cfg.tanks src).isSome = true ∧ (getN q.cfg.tanks dst).isSome = true ∧ src ≠ dst)) :
    transferAnswer src dst req q = refuse .noTank q := by
  refine if_pos ?_
  by_contra hno
  simp only [tankConfigured, Bool.or_eq_true, Bool.not_eq_true', decide_eq_true_eq, not_or, Bool.not_eq_false] at hno
  exact h ⟨hno.1.1, hno.1.2, hno.2⟩

variable (h : (getN q.cfg.tanks src).isSome = true ∧ (getN q.cfg.tanks dst).isSome = true ∧ src ≠ dst)
include h

theorem transferAnswer_noPump (hcan : canTransfer q = false) : transferAnswer src dst req q = refuse .noPump q := by
  obtain ⟨h1, h2, h3⟩ := h
  simp [transferAnswer, tankConfigured, h1, h2, h3, hcan]

variable (hcan : canTransfer q = true)
include hcan

theorem transferAnswer_busy (hrun : q.fau.transfer.running = true) :
    transferAnswer src dst req q = replyStatus .busy q := by
  obtain ⟨h1, h2, h3⟩ := h
  simp [transferAnswer, tankConfigured, h1, h2, h3, hcan, hrun]

variable (hrun : q.fau.transfer.running = false)
include hrun

theorem transferAnswer_conflict (hm : movementOf src q ≠ .none ∨ movementOf dst q ≠ .none) :
    transferAnswer src dst req q = replyStatus .conflict q := by
  obtain ⟨h1, h2, h3⟩ := h
  simp [transferAnswer, tankConfigured, h1, h2, h3, hcan, hrun, hm]

variable (hms : movementOf src q = .none) (hmd : movementOf dst q = .none)
include hms hmd

theorem transferAnswer_sourceLow (hlow : content src q ≤ cutoffOf src q) :
    transferAnswer src dst req q = refuse .sourceLow q := by
  obtain ⟨h1, h2, h3⟩ := h
  simp [transferAnswer, tankConfigured, h1, h2, h3, hcan, hrun, hms, hmd, hlow]

variable (hlow : cutoffOf src q < content src q)
include hlow

theorem transferAnswer_destFull (hreq : req = none) (hfull : capacityOf dst q ≤ content dst q) :
    transferAnswer src dst req q = refuse .destFull q := by
  obtain ⟨h1, h2, h3⟩ := h
  simp [transferAnswer, tankConfigured, h1, h2, h3, hcan, hrun, hms, hmd, Nat.not_le.2 hlow, hreq, hfull]

theorem transferAnswer_ok (hroom : req ≠ none ∨ content dst q < capacityOf dst q) :
    transferAnswer src dst req q = replyOk [] (startTransfer .host src dst req q) := by
  obtain ⟨h1, h2, h3⟩ := h
  have hnotFull : (req.isNone && decide (capacityOf dst q ≤ content dst q)) = false := by
    rcases hroom with hsome | hroom
    · cases req
      · exact absurd rfl hsome
      · rfl
    · simp [Nat.not_le.2 hroom]
  simp only [transferAnswer, tankConfigured, h1, h2, h3, hcan, hrun, hms, hmd, Nat.not_le.2 hlow, hnotFull]
  rfl

end

theorem exec_transferStart {t : Nat} {src dst : Byte} {v : BitVec 32} {s : State} (hm : s.svp.mode ≠ .configuring) :
    exec (.transferStart t src dst v) s =
      .next (transferAnswer src.toNat dst.toNat (requestedOf v.toNat) (setClock t s)) :=
  congrArg Host.Outcome.next (inService_serving (s := setClock t s) hm _)

theorem exec_bunkerStart {t : Nat} {n : Byte} {s : State} (hm : s.svp.mode ≠ .configuring) :
    exec (.bunkerStart t n) s = .next (bunkerAnswer n.toNat (setClock t s)) :=
  congrArg Host.Outcome.next (inService_serving (s := setClock t s) hm _)

/-- A transfer asked for by the host and started (R120, R123). -/
theorem transferStarted {a b v : Nat} {s q : State} (hne : a ≠ b) (hq : q = replyOk [] (startTransfer .host a b (requestedOf v) s)) :
    q.svp.reply = { status := .ok, reason := none, data := [] } ∧
      q.fau.transfer =
        { running := true, origin := some .host, source := a, destination := b
          requested := if v = 0 then none else some (min v 200000000), moved := 0, residue := 0 } ∧
      ((getN s.fau.tanks a).isSome = true → movementOf a q = .transferSrc) ∧
      ((getN s.fau.tanks b).isSome = true → movementOf b q = .transferDst) ∧
      Written .transferPump 1000 s q ∧
      q.fau.tanks.map (·.raw) = s.fau.tanks.map (·.raw) ∧ q.fau.journal = s.fau.journal ∧
      q.sfc = s.sfc ∧ q.stc = s.stc ∧ q.cpc = s.cpc ∧ q.svp.flags = s.svp.flags := by
  subst hq
  have hframe := startTransfer_frame .host a b (requestedOf v) s
  have hsource := startTransfer_source .host a b (requestedOf v) s hne
  have hdest := startTransfer_destination .host a b (requestedOf v) s
  have hpump := startTransfer_pump .host a b (requestedOf v) s
  have hrecord := startTransfer_record .host a b (requestedOf v) s
  have hraws := (startTransfer_balances .host a b (requestedOf v) s).raws
  have hjournal := (startTransfer_journal .host a b (requestedOf v) s).1
  generalize startTransfer .host a b (requestedOf v) s = w at *
  exact ⟨rfl, hrecord, hsource, hdest, hpump, hraws, hjournal, by show w.sfc = _; rw [hframe], by show w.stc = _; rw [hframe],
    by show w.cpc = _; rw [hframe], by show w.svp.flags = _; rw [hframe]⟩

/-- Settles O52: row by row. -/
theorem movementStarts : Obligations.MovementStarts := by
  intro t src dst v s hm a b known
  have hv : requestedOf v.toNat = none ↔ v.toNat = 0 := by
    unfold requestedOf
    split <;> simp [*]
  have hstart : exec (.transferStart t src dst v) s = .next (transferAnswer a b (requestedOf v.toNat) (setClock t s)) :=
    exec_transferStart hm
  have hbunker : exec (.bunkerStart t src) s = .next (bunkerAnswer a (setClock t s)) := exec_bunkerStart hm
  rw [hstart, hbunker]
  refine ⟨fun h => congrArg _ (transferAnswer_noTank h), fun h hcan => congrArg _ (transferAnswer_noPump h hcan),
    fun h hcan hrun => congrArg _ (transferAnswer_busy h hcan hrun),
    fun h hcan hrun => ⟨fun hmoving => congrArg _ (transferAnswer_conflict h hcan hrun hmoving), fun hms hmd => ⟨fun hlow => ?_,
      fun hlow h0 hfull => ?_, fun hlow hroom => ?_⟩⟩, fun hnone => ?_, fun hsome => ⟨fun hmeter => ?_, fun hmeter => ⟨fun hrun => ?_,
      fun hrun hmoving => ?_, fun hrun hfree => ?_⟩⟩⟩
  · exact congrArg _ (transferAnswer_sourceLow (q := setClock t s) h hcan hrun hms hmd hlow)
  · exact congrArg _ (transferAnswer_destFull (q := setClock t s) h hcan hrun hms hmd hlow (hv.2 h0) hfull)
  · have hroom' : requestedOf v.toNat ≠ none ∨ content b (setClock t s) < capacityOf b (setClock t s) :=
      hroom.imp_left fun h0 => fun hnone => h0 (hv.1 hnone)
    refine ⟨_, congrArg _ (transferAnswer_ok (q := setClock t s) h hcan hrun hms hmd hlow hroom'), ?_⟩
    exact transferStarted (s := setClock t s) h.2.2 rfl
  · have hconfigured : (!tankConfigured a (setClock t s)) = true := by
      have hnone' : tankConfigured a (setClock t s) = false := hnone
      rw [hnone']
      rfl
    exact congrArg _ (if_pos hconfigured)
  all_goals
    have hconfigured : ¬(!tankConfigured a (setClock t s)) = true := by
      have hsome' : tankConfigured a (setClock t s) = true := hsome
      rw [hsome']
      decide
  · have hmeter' : (chanOf .bunkerMeter none (setClock t s)).isNone = true := by
      have hmeter' : chanOf .bunkerMeter none (setClock t s) = none := hmeter
      rw [hmeter']
      rfl
    exact congrArg _ ((if_neg hconfigured).trans (if_pos hmeter'))
  all_goals
    have hmeter' : ¬(chanOf .bunkerMeter none (setClock t s)).isNone = true := by
      have hmeter' : (chanOf .bunkerMeter none (setClock t s)).isSome = true := hmeter
      rw [Option.isNone_iff_eq_none]
      intro hnone
      rw [hnone] at hmeter'
      cases hmeter'
  · exact congrArg _ ((if_neg hconfigured).trans ((if_neg hmeter').trans (if_pos hrun)))
  all_goals
    have hrun' : ¬(setClock t s).fau.bunker.running = true := by
      have hrun' : (setClock t s).fau.bunker.running = false := hrun
      rw [hrun']
      decide
  · exact congrArg _ ((if_neg hconfigured).trans ((if_neg hmeter').trans ((if_neg hrun').trans (if_pos hmoving))))
  · have hfree' : ¬movementOf a (setClock t s) ≠ .none := not_not.2 hfree
    refine ⟨_, congrArg _ ((if_neg hconfigured).trans ((if_neg hmeter').trans ((if_neg hrun').trans (if_neg hfree')))), rfl, rfl,
      fun htank => ?_, ?_, rfl, rfl, rfl, rfl, rfl, rfl⟩
    · exact movementOf_set (s := { setClock t s with fau := { s.fau with
        bunker := { running := true, tank := a, volume := 0, residue := 0 } } }) htank
    · exact map_modN (·.raw) (fun k => { k with movement := .bunker }) (fun _ => rfl) s.fau.tanks a

/-! ## The requests and the meters that end a movement (R122, R124, R127) -/

theorem transferStopped_svp {reason : EndReason} (h : reason ≠ .meterDead) (s : State) :
    (transferStopped reason s).svp = s.svp := by
  unfold transferStopped faultIfDead
  rw [if_neg h, settleHold_frame]
  unfold writeEntry
  rw [transferEnded_frame]

theorem bunkerEnded_svp {reason : EndReason} (h : reason ≠ .meterDead) (s : State) : (bunkerEnded reason s).svp = s.svp := by
  unfold bunkerEnded faultIfDead
  rw [if_neg h]
  rfl

theorem stop_entered {mk : Nat → Nat → Entry} {s w : State} (hserial : s.fau.nextSerial ≤ 4294967295)
    (hj : w.fau.journal = (writeEntry mk s).fau.journal) (hs : w.fau.nextSerial = (writeEntry mk s).fau.nextSerial) :
    w.fau.journal.getLast? = some (mk s.fau.nextSerial s.stationTime) ∧ w.fau.nextSerial = s.fau.nextSerial + 1 := by
  obtain ⟨hj', hs'⟩ := writeEntry_last (mk := mk) hserial
  rw [hj, hs, hj', hs']
  exact ⟨appendEntry_getLast _ _, rfl⟩

theorem exec_transferAbort {t : Nat} {s : State} (hm : s.svp.mode ≠ .configuring) :
    exec (.transferAbort t) s = .next (abortAnswer (setClock t s)) :=
  congrArg Host.Outcome.next (inService_serving (s := setClock t s) hm _)

theorem exec_bunkerStop {t : Nat} {s : State} (hm : s.svp.mode ≠ .configuring) :
    exec (.bunkerStop t) s = .next (bunkerStopAnswer (setClock t s)) :=
  congrArg Host.Outcome.next (inService_serving (s := setClock t s) hm _)

theorem topUp_bunker (s : State) : (topUp s).fau.bunker = s.fau.bunker := (topUp_balances s).bunker

theorem transferStopped_others {reason : EndReason} {s : State} {m : Nat} (ha : m ≠ s.fau.transfer.source)
    (hd : m ≠ s.fau.transfer.destination) : movementOf m (transferStopped reason s) = movementOf m s := by
  rw [transferStopped_movements, if_neg (by rintro (h | h); exacts [ha h, hd h])]

/-- A transfer aborted by the host (R122, R124). -/
theorem transferAborted {s u : State} (hserial : s.fau.nextSerial ≤ 4294967295) (hu : u = transferStopped .aborted s) :
    u.fau.transfer = { s.fau.transfer with running := false, residue := 0 } ∧
      movementOf s.fau.transfer.source u = .none ∧ movementOf s.fau.transfer.destination u = .none ∧
      (∀ m, m ≠ s.fau.transfer.source → m ≠ s.fau.transfer.destination → movementOf m u = movementOf m s) ∧
      Written .transferPump 0 s u ∧
      u.fau.journal.getLast? = some (transferEntry .aborted s.fau.transfer s.fau.nextSerial s.stationTime) ∧
      u.fau.nextSerial = s.fau.nextSerial + 1 ∧
      (∀ c k, s.fau.transfer.origin = some .auto → getN s.cfg.tanks s.fau.transfer.destination = some c →
        getN s.fau.tanks s.fau.transfer.destination = some k →
        ∃ q, getN u.fau.tanks s.fau.transfer.destination = some q ∧ q.hold = decide (contentOf c k < c.low)) ∧
      u = { s with fau := u.fau, dlu := u.dlu } ∧
      (topUp u).fau.journal = u.fau.journal ∧ (topUp u).fau.nextSerial = u.fau.nextSerial ∧
      (topUp u).fau.tanks.map (·.raw) = s.fau.tanks.map (·.raw) := by
  subst hu
  obtain ⟨hrecord, -, -, hj, hs⟩ := transferStopped_records .aborted s
  obtain ⟨hlast, hnext⟩ := stop_entered hserial hj hs
  refine ⟨hrecord, by rw [transferStopped_movements, if_pos (.inl rfl)], by rw [transferStopped_movements, if_pos (.inr rfl)],
    fun m => transferStopped_others, transferStopped_pump _ s, hlast, hnext,
    fun c k ho hc hk => transferStopped_hold .aborted s ho hc hk (.inl rfl), ?_, (topUp_journal _).1, (topUp_journal _).2, ?_⟩
  · have hframe := transferStopped_frame .aborted s
    rw [transferStopped_svp (reason := .aborted) nofun] at hframe
    exact hframe
  · exact ((transferStopped_balances .aborted s).trans (topUp_balances _)).raws

/-- A bunkering stopped by the host (R127). -/
theorem bunkerStopped {s u : State} (hserial : s.fau.nextSerial ≤ 4294967295) (hu : u = bunkerEnded .stopped s) :
    u.fau.bunker = { s.fau.bunker with running := false, residue := 0 } ∧ movementOf s.fau.bunker.tank u = .none ∧
      (∀ m, m ≠ s.fau.bunker.tank → movementOf m u = movementOf m s) ∧
      u.fau.journal.getLast? = some (bunkerEntry .stopped s.fau.bunker s.fau.nextSerial s.stationTime) ∧
      u.fau.nextSerial = s.fau.nextSerial + 1 ∧ u = { s with fau := u.fau } ∧
      (topUp u).fau.bunker = u.fau.bunker ∧ (topUp u).fau.journal = u.fau.journal ∧
      (topUp u).fau.nextSerial = u.fau.nextSerial ∧ (topUp u).fau.tanks.map (·.raw) = s.fau.tanks.map (·.raw) := by
  subst hu
  obtain ⟨hrecord, -, hj, hs⟩ := bunkerEnded_records .stopped s
  obtain ⟨hlast, hnext⟩ := stop_entered hserial hj hs
  refine ⟨hrecord, by rw [bunkerEnded_movements, if_pos rfl], fun m hm => by rw [bunkerEnded_movements, if_neg hm], hlast, hnext,
    ?_, topUp_bunker _, (topUp_journal _).1, (topUp_journal _).2, ?_⟩
  · have hframe := bunkerEnded_frame .stopped s
    rw [bunkerEnded_svp (reason := .stopped) nofun] at hframe
    exact hframe
  · exact (topUp_balances _).raws.trans (map_of_map_eq (·.1) (bunkerEnded_tanks .stopped s))

theorem transferMeterDead_idle {s : State} (h : s.fau.transfer.running = false) : transferMeterDead s = s :=
  if_neg (by simp [h])

theorem bunkerMeterDead_idle {s : State} (h : s.fau.bunker.running = false) : bunkerMeterDead s = s :=
  if_neg (by simp [h])

theorem transferStopped_dead {s : State} (hserial : s.fau.nextSerial ≤ 4294967295) :
    MovementStopped .meterDead (transferEntry .meterDead s.fau.transfer s.fau.nextSerial s.stationTime) s
      (transferStopped .meterDead s) := by
  obtain ⟨-, -, -, hj, hs⟩ := transferStopped_records .meterDead s
  obtain ⟨hlast, hnext⟩ := stop_entered hserial hj hs
  exact ⟨hlast, hnext, transferStopped_flags .meterDead s, fun _ _ hx => (transferStopped_balances .meterDead s).raw hx,
    transferStopped_frame .meterDead s⟩

theorem bunkerEnded_dead {s : State} (hserial : s.fau.nextSerial ≤ 4294967295) :
    MovementStopped .meterDead (bunkerEntry .meterDead s.fau.bunker s.fau.nextSerial s.stationTime) s
      (bunkerEnded .meterDead s) := by
  obtain ⟨-, -, hj, hs⟩ := bunkerEnded_records .meterDead s
  obtain ⟨hlast, hnext⟩ := stop_entered hserial hj hs
  refine ⟨hlast, hnext, bunkerEnded_flags .meterDead s, fun _ _ hx => ?_, bunkerEnded_frame .meterDead s⟩
  exact getN_of_map_eq (map_of_map_eq (·.1) (bunkerEnded_tanks .meterDead s)) hx

/-! ## What the meter results move (R121, R127) -/

theorem hold48_within {x : Int} (h1 : -(2 ^ 47) ≤ x) (h2 : x < 2 ^ 47) : hold48 x = x := if_pos ⟨h1, h2⟩

/-- The balances of the two tanks, and the transfer's record, after a result of the transfer meter (R121). -/
def transferMoved (count : Nat) (s : State) : State :=
  let ml := wholeMl s.fau.transfer.residue (count * s.cfg.kx)
  addRaw s.fau.transfer.destination ml (addRaw s.fau.transfer.source (-(ml : Int))
    { s with fau := { s.fau with transfer := { s.fau.transfer with
        residue := leftover s.fau.transfer.residue (count * s.cfg.kx), moved := s.fau.transfer.moved + ml } } })

theorem transferResult_running {count : Nat} {s : State} (h : s.fau.transfer.running = true) : transferResult count s =
    consequences s.fau.transfer.destination (consequences s.fau.transfer.source (transferMoved count s)) := if_pos h

theorem contentOf_eq (c : TankCfg) (k : Tank) : contentOf c k = (max 0 (min (c.capacity : Int) k.raw)).toNat := rfl

/-- The stop reason of a transfer whose tanks hold these balances (R122). -/
theorem stopReason_due {s : State} {x y : Tank} {cs cd : TankCfg} (hx : getN s.fau.tanks s.fau.transfer.source = some x)
    (hy : getN s.fau.tanks s.fau.transfer.destination = some y) (hcs : getN s.cfg.tanks s.fau.transfer.source = some cs)
    (hcd : getN s.cfg.tanks s.fau.transfer.destination = some cd) :
    stopReason s = stopDue s.fau.transfer cs cd x.raw y.raw := by
  have hsource : content s.fau.transfer.source s = (max 0 (min (cs.capacity : Int) x.raw)).toNat := by
    simp only [content, hcs, hx]
    rfl
  have hdest : content s.fau.transfer.destination s = (max 0 (min (cd.capacity : Int) y.raw)).toNat := by
    simp only [content, hcd, hy]
    rfl
  have hcutoff : cutoffOf s.fau.transfer.source s = cs.cutoff := by simp only [cutoffOf, hcs]
  unfold stopReason stopDue
  simp only [hsource, hdest, hcutoff, hcd]
  cases s.fau.transfer.requested <;> rcases s.fau.transfer.origin with _ | _ | _ <;> simp

theorem tank_addRaw_ne {n m : Nat} (h : m ≠ n) (v : Int) (s : State) :
    getN (addRaw n v s).fau.tanks m = getN s.fau.tanks m := getN_modN_ne (Ne.symm h) _ _

theorem tank_addRaw {n : Nat} {v : Int} {s : State} {k : Tank} (hk : getN s.fau.tanks n = some k) (h1 : -(2 ^ 47) ≤ k.raw + v)
    (h2 : k.raw + v < 2 ^ 47) : getN (addRaw n v s).fau.tanks n = some { k with raw := k.raw + v } := by
  simp only [addRaw, modTank_tanks, getN_modN_self, hk, Option.map_some, hold48_within h1 h2]

/-- Settles O53: the requests, the DEAD meters, the top-up check, and the results. -/
theorem movementEnds : Obligations.MovementEnds := by
  refine ⟨fun t s hm hserial => ⟨fun hidle => ?_, fun hidle => ?_, fun hrun => ?_, fun hrun => ?_⟩,
    fun s => ⟨transferMeterDead_idle, bunkerMeterDead_idle, fun hrun hserial => ?_, fun hrun hserial => ?_⟩,
    fun w => ⟨fun hnothing => ?_, fun d a hcan hidle hwants hfirst => ?_⟩,
    fun count s => ⟨fun hidle => if_neg (by simp [hidle]), fun hidle => if_neg (by simp [hidle]), ?_, ?_⟩⟩
  · rw [exec_transferAbort hm]
    exact congrArg _ (if_neg (by simp [hidle]))
  · rw [exec_bunkerStop hm]
    exact congrArg _ (if_neg (by simp [hidle]))
  · rw [exec_transferAbort hm]
    exact ⟨transferStopped .aborted (setClock t s), congrArg _ (if_pos hrun), transferAborted (s := setClock t s) hserial rfl⟩
  · rw [exec_bunkerStop hm]
    exact ⟨bunkerEnded .stopped (setClock t s), congrArg _ (if_pos hrun), bunkerStopped (s := setClock t s) hserial rfl⟩
  · obtain ⟨hrecord, hbunker, -⟩ := transferStopped_records .meterDead s
    refine ⟨transferStopped .meterDead s, if_pos hrun, transferStopped_dead hserial, hrecord, hbunker, ?_, ?_,
      fun m => transferStopped_others, transferStopped_pump _ s,
      fun c k ho hc hk => transferStopped_hold .meterDead s ho hc hk (.inr rfl)⟩
    · rw [transferStopped_movements, if_pos (.inl rfl)]
    · rw [transferStopped_movements, if_pos (.inr rfl)]
  · obtain ⟨hrecord, htransfer, -⟩ := bunkerEnded_records .meterDead s
    refine ⟨bunkerEnded .meterDead s, if_pos hrun, bunkerEnded_dead hserial, hrecord, htransfer, ?_,
      fun m hm => by rw [bunkerEnded_movements, if_neg hm], by rw [bunkerEnded_frame]⟩
    rw [bunkerEnded_movements, if_pos rfl]
  · obtain h | ⟨hcan, hidle, d, a, hwants, -⟩ := topUp_cases w
    · exact h
    · rcases hnothing with h | h | h
      · exact absurd (h.symm.trans hcan) (by decide)
      · exact absurd (hidle.symm.trans h) (by decide)
      · exact absurd hwants (h d a)
  · obtain ⟨c, k, -, hk, -⟩ := id hwants
    rw [topUp_serves hcan hidle hwants hfirst]
    exact ⟨startTransfer_record _ _ _ _ w, startTransfer_destination _ _ _ _ w (by rw [hk]; rfl),
      fun hne htank => startTransfer_source _ _ _ _ w hne htank, startTransfer_pump _ _ _ _ w⟩
  · intro ks kd cs cd hrun hne hks hkd hcs hcd ml tr hs1 hs2 hd1 hd2
    have hml : (0 : Int) ≤ (ml : Int) := Int.natCast_nonneg ml
    rw [transferResult_running hrun]
    have hbalances := (consequences_balances s.fau.transfer.source (transferMoved count s)).trans
      (consequences_balances s.fau.transfer.destination _)
    have hlow : -(2 ^ 47) ≤ ks.raw + -(ml : Int) := by omega
    have hhigh : ks.raw + -(ml : Int) < 2 ^ 47 := by omega
    have hfloor : -(2 ^ 47) ≤ kd.raw + (ml : Int) := by omega
    have hsource : getN (transferMoved count s).fau.tanks s.fau.transfer.source = some { ks with raw := ks.raw + -(ml : Int) } :=
      (tank_addRaw_ne hne _ _).trans (tank_addRaw hks hlow hhigh)
    have hdest : getN (transferMoved count s).fau.tanks s.fau.transfer.destination = some { kd with raw := kd.raw + (ml : Int) } :=
      tank_addRaw ((tank_addRaw_ne (Ne.symm hne) _ _).trans hkd) hfloor hd2
    have hreason : stopReason (transferMoved count s) = stopDue tr cs cd (ks.raw - (ml : Int)) (kd.raw + (ml : Int)) :=
      stopReason_due hsource hdest hcs hcd
    refine ⟨?_, fun m x hms hmd hx => ?_, fun hnone => ?_, fun reason hsome hserial => ?_⟩
    · obtain ⟨x, hx, hxr⟩ := hbalances.raw hsource
      obtain ⟨y, hy, hyr⟩ := hbalances.raw hdest
      exact ⟨x, y, hx, hxr.trans (by ring), hy, hyr⟩
    · exact hbalances.raw (((tank_addRaw_ne hmd _ _).trans (tank_addRaw_ne hms _ _)).trans hx)
    · have hfirst := (consequences_quiet (n := s.fau.transfer.source) (s := transferMoved count s)
        (.inr (hreason.trans hnone))).2.2 hrun
      have hsecond := (consequences_quiet (n := s.fau.transfer.destination)
        (.inr ((hfirst.stopReason.trans hreason).trans hnone))).2.2 (by rw [hfirst.transfer]; exact hrun)
      exact ⟨hsecond.transfer.trans hfirst.transfer, hsecond.journal.trans hfirst.journal⟩
    · obtain ⟨hlast, hnext⟩ := consequences_stops (n := s.fau.transfer.source) (s := transferMoved count s) hrun (.inl rfl)
        (hreason.trans hsome) (hserial.trans (by decide))
      refine ⟨_, consequences_keepsLast s.fau.transfer.destination ?_ hlast, rfl⟩
      rw [hnext]
      have hsame : (transferMoved count s).fau.nextSerial = s.fau.nextSerial := rfl
      omega
  · intro k hrun hk ml hk1 hk2
    have hml : (0 : Int) ≤ (ml : Int) := Int.natCast_nonneg ml
    have hresult : bunkerResult count s = consequences s.fau.bunker.tank (addRaw s.fau.bunker.tank ml
        { s with fau := { s.fau with bunker := { s.fau.bunker with
            residue := leftover s.fau.bunker.residue (count * s.cfg.kb), volume := s.fau.bunker.volume + ml } } }) :=
      if_pos hrun
    have hbalances := consequences_balances s.fau.bunker.tank (addRaw s.fau.bunker.tank ml
        { s with fau := { s.fau with bunker := { s.fau.bunker with
            residue := leftover s.fau.bunker.residue (count * s.cfg.kb), volume := s.fau.bunker.volume + ml } } })
    rw [hresult]
    refine ⟨hbalances.bunker, ?_, fun m x hm hx => ?_⟩
    · exact hbalances.raw (tank_addRaw hk (by omega) (by omega))
    · exact hbalances.raw ((tank_addRaw_ne hm _ _).trans hx)

end Sys2Proof.Machine
end

section
/-!
PROOFS. Soundings and REBASE (O54).
-/

namespace Sys2Proof.Machine

/-! ## The discrepancy check (R129) -/

section
variable {n v : Nat} {c : TankCfg} {k : Tank} {s : State}

theorem discrepancyCheck_moving (h : k.movement ≠ .none) : discrepancyCheck n v c k s = s := if_pos h

theorem discrepancyCheck_within (h : k.movement = .none) (hin : ((v : Int) - contentOf c k).natAbs ≤ c.tolerance) :
    discrepancyCheck n v c k s = modTank n (fun q => { q with run := 0, reported := false }) s :=
  (if_neg (not_not.2 h)).trans (if_neg (by simp only [outOfTolerance, decide_eq_true_eq]; exact Nat.not_lt.2 hin))

theorem discrepancyCheck_out (h : k.movement = .none) (hout : c.tolerance < ((v : Int) - contentOf c k).natAbs) :
    discrepancyCheck n v c k s =
      if 3 ≤ sat16 (k.run + 1) ∧ k.reported = false then
        modTank n (fun q => { q with run := sat16 (k.run + 1), reported := true })
          (writeEntry (fun serial time =>
            { serial := serial, time := time, kind := .discrepancy, tank := n, volume := (v : Int) - contentOf c k })
            (raiseFlag .discrepancy s))
      else modTank n (fun q => { q with run := sat16 (k.run + 1) }) s :=
  (if_neg (not_not.2 h)).trans (if_pos (by simpa only [outOfTolerance, decide_eq_true_eq] using hout))

end

theorem three_le_sat16 {x : Nat} : 3 ≤ sat16 x ↔ 3 ≤ x := by
  unfold sat16
  omega

theorem tank_modTank {n : Nat} {f : Tank → Tank} {s : State} {k : Tank} (h : getN s.fau.tanks n = some k) :
    getN (modTank n f s).fau.tanks n = some (f k) := by
  rw [modTank_tanks, getN_modN_self, h, Option.map_some]

theorem tank_modTank_ne {n m : Nat} (h : m ≠ n) (f : Tank → Tank) (s : State) :
    getN (modTank n f s).fau.tanks m = getN s.fau.tanks m := getN_modN_ne (Ne.symm h) _ _

/-- A level result (R128), with the sounding of R128 written out. -/
theorem levelResult_eq {n count elapsed : Nat} {s : State} {c : TankCfg} {k : Tank} (hc : getN s.cfg.tanks n = some c)
    (hk : getN s.fau.tanks n = some k) : levelResult n count elapsed s =
      discrepancyCheck n (soundingOf c (centiHertz count elapsed)) c k
        (modTank n (fun q => { q with sounding := some (soundingOf c (centiHertz count elapsed), s.stationTime) }) s) := by
  simp only [levelResult, hc, hk]

/-! ## REBASE (R130) -/

theorem exec_rebase {t : Nat} {n : Byte} {s : State} (hm : s.svp.mode ≠ .configuring) :
    exec (.rebase t n) s = .next (rebaseAnswer n.toNat (setClock t s)) :=
  congrArg Host.Outcome.next (inService_serving (s := setClock t s) hm _)

/-- The raw balance becomes the sounding, and one entry carries the adjustment. -/
theorem rebaseTank_sets {n v : Nat} {k : Tank} {s : State} (hk : getN s.fau.tanks n = some k)
    (hidle : s.fau.transfer.running = false) (hserial : s.fau.nextSerial ≤ 4294967295) :
    (∃ q, getN (rebaseTank n v k s).fau.tanks n = some q ∧ q.raw = (v : Int) ∧ q.run = 0 ∧ q.reported = false ∧
      q.sounding = k.sounding) ∧
    (rebaseTank n v k s).fau.journal.getLast? = some
      { serial := s.fau.nextSerial, time := s.stationTime, kind := .rebase, tank := n, volume := (v : Int) - k.raw } ∧
    ∀ m x, m ≠ n → getN s.fau.tanks m = some x → ∃ y, getN (rebaseTank n v k s).fau.tanks m = some y ∧ y.raw = x.raw := by
  unfold rebaseTank
  obtain ⟨hj, -⟩ := writeEntry_last (mk := fun serial time =>
    { serial := serial, time := time, kind := .rebase, tank := n, volume := (v : Int) - k.raw }) hserial
  generalize hw : writeEntry _ s = w at hj
  have htanks : w.fau.tanks = s.fau.tanks := by rw [← hw]; rfl
  have hrunning : w.fau.transfer.running = false := by rw [← hw]; exact hidle
  generalize hset : modTank n (fun q => { q with raw := (v : Int), run := 0, reported := false }) w = z
  have hz : getN z.fau.tanks n = some { k with raw := (v : Int), run := 0, reported := false } := by
    rw [← hset]
    exact tank_modTank (by rw [htanks]; exact hk)
  have hbalances := consequences_balances n z
  refine ⟨?_, ?_, fun m x hm hx => hbalances.raw ?_⟩
  · obtain ⟨q, hq, hkept⟩ := hbalances.tank hz
    simp only [tankBalance, Prod.mk.injEq] at hkept
    obtain ⟨hraw, hsounding, hrun, hreported⟩ := hkept
    exact ⟨q, hq, hraw, hrun, hreported, hsounding⟩
  · have hquiet := (consequences_quiet (n := n) (s := z) (.inl (by rw [← hset]; exact hrunning))).1
    rw [hquiet, ← hset]
    show w.fau.journal.getLast? = _
    rw [hj]
    exact appendEntry_getLast _ _
  · rw [← hset, tank_modTank_ne hm, htanks]
    exact hx

/-- Settles O54: the level result by its tolerance, REBASE by its table. -/
theorem rebaseSetsBalance : Obligations.RebaseSetsBalance := by
  refine ⟨?_, fun t n s hm => ⟨fun hnone => ?_, fun c k hc hk =>
    ⟨fun hsounding => ?_, fun v hv => ⟨fun hmoving => ?_, fun hfree hidle hserial => ?_⟩⟩⟩⟩
  · intro n count elapsed s c k hc hk hspan f v u
    have hu : u = discrepancyCheck n v c k (modTank n (fun q => { q with sounding := some (v, s.stationTime) }) s) :=
      levelResult_eq hc hk
    clear_value u v
    subst hu
    generalize hw : modTank n (fun q => { q with sounding := some (v, s.stationTime) }) s = w
    have hstored : getN w.fau.tanks n = some { k with sounding := some (v, s.stationTime) } := by
      rw [← hw]
      exact tank_modTank hk
    have hothers : ∀ m, m ≠ n → getN w.fau.tanks m = getN s.fau.tanks m := fun m hm => by
      rw [← hw]
      exact tank_modTank_ne hm _ _
    by_cases hmoving : k.movement = .none
    · by_cases hin : ((v : Int) - contentOf c k).natAbs ≤ c.tolerance
      · rw [discrepancyCheck_within hmoving hin]
        refine ⟨_, tank_modTank hstored, rfl, rfl, rfl, fun m hne => (tank_modTank_ne hne _ _).trans (hothers m hne), by rw [← hw]; rfl,
          fun h => absurd hmoving h, fun _ _ => ⟨rfl, rfl, by rw [← hw]; rfl, by rw [← hw]; rfl⟩,
          fun _ hout => absurd hout (Nat.not_lt.2 hin)⟩
      · rw [discrepancyCheck_out hmoving (Nat.not_le.1 hin)]
        by_cases hreport : 3 ≤ sat16 (k.run + 1) ∧ k.reported = false
        · rw [if_pos hreport]
          refine ⟨{ k with sounding := some (v, s.stationTime), run := sat16 (k.run + 1), reported := true }, tank_modTank hstored, rfl,
            rfl, rfl, fun m hne => (tank_modTank_ne hne _ _).trans (hothers m hne), by rw [← hw]; rfl,
            fun h => absurd hmoving h, fun _ h => absurd h hin, fun _ _ => ⟨rfl, fun hnot => ?_, fun _ _ hserial => ⟨rfl, ?_, ?_⟩⟩⟩
          · obtain ⟨hrun, hreported⟩ := hreport
            rcases hnot with h | h
            · exact absurd (three_le_sat16.1 hrun) (Nat.not_le.2 h)
            · cases hreported.symm.trans h
          · exact (flagSet_raiseFlag .discrepancy .discrepancy w).trans (by simp)
          · have hlast := (writeEntry_last (mk := fun serial time =>
              { serial := serial, time := time, kind := .discrepancy, tank := n, volume := (v : Int) - contentOf c k })
              (s := raiseFlag .discrepancy w) (by rw [← hw]; exact hserial)).1
            refine (congrArg List.getLast? hlast).trans ?_
            rw [appendEntry_getLast, ← hw]
            rfl
        · rw [if_neg hreport]
          refine ⟨{ k with sounding := some (v, s.stationTime), run := sat16 (k.run + 1) }, tank_modTank hstored, rfl, rfl, rfl,
            fun m hne => (tank_modTank_ne hne _ _).trans (hothers m hne), by rw [← hw]; rfl, fun h => absurd hmoving h,
            fun _ h => absurd h hin, fun _ _ => ⟨rfl, fun _ => ⟨rfl, by rw [← hw]; rfl, by rw [← hw]; rfl⟩, fun h3 hr => ?_⟩⟩
          exact absurd ⟨three_le_sat16.2 h3, hr⟩ hreport
    · rw [discrepancyCheck_moving hmoving]
      exact ⟨_, hstored, rfl, rfl, rfl, hothers, by rw [← hw]; rfl, fun _ => ⟨rfl, rfl, by rw [← hw]; rfl, by rw [← hw]; rfl⟩,
        fun h => absurd h hmoving, fun h => absurd h hmoving⟩
  · rw [exec_rebase hm]
    refine congrArg _ ?_
    unfold rebaseAnswer
    rcases hnone with h | h
    · simp only [setClock_cfg, h]
    · cases hc : getN s.cfg.tanks n.toNat <;> simp only [setClock_cfg, setClock_fau, h, hc]
  · rw [exec_rebase hm]
    simp only [rebaseAnswer, setClock_cfg, setClock_fau, hc, hk, hsounding]
  · rw [exec_rebase hm]
    refine congrArg _ ?_
    simp only [rebaseAnswer, setClock_cfg, setClock_fau, hc, hk, hv]
    exact if_pos hmoving
  · have hanswer : rebaseAnswer n.toNat (setClock t s) = replyOk [] (rebaseTank n.toNat v.1 k (setClock t s)) := by
      simp only [rebaseAnswer, setClock_cfg, setClock_fau, hc, hk, hv]
      exact if_neg (not_not.2 hfree)
    obtain ⟨⟨q, hq, hraw, hrun, hreported, hsounding⟩, hlast, hothers⟩ :=
      rebaseTank_sets (n := n.toNat) (v := v.1) (s := setClock t s) hk hidle hserial
    rw [exec_rebase hm, hanswer]
    exact ⟨_, q, rfl, rfl, hq, hraw, hrun, hreported, hsounding, hlast, hothers⟩

end Sys2Proof.Machine
end

section
/-!
SUPPORT. What bookings leave of the shafts, of the burn records and of FUEL_RESERVE (R50 to R53, R58, R112, R118).
-/

namespace Sys2Proof.Machine

/-! ## The gear of a shaft through deliveries (R50, R51) -/

/-- A shaft goes out of gear by DWELL alone, at P 0 with its timer started, and stays in DWELL; engine, deviation and control step are kept. -/
structure GearKept (now : Nat) (c : ShaftCfg) (x y : Shaft) : Prop where
  engine : y.engine = x.engine
  deviation : y.deviation = x.deviation
  deviationAt : y.deviationAt = x.deviationAt
  stepAt : y.stepAt = x.stepAt
  engaged : (x.dir = .ahead ∨ x.dir = .astern) →
    y.dir = x.dir ∨ (y.dir = .dwell ∧ y.p = 0 ∧ y.dwellAt = some (now + c.dwell))
  dwell : x.dir = .dwell → y.dir = .dwell ∧ y.p = x.p ∧ y.dwellAt = x.dwellAt

theorem GearKept.refl (now : Nat) (c : ShaftCfg) (x : Shaft) : GearKept now c x x :=
  ⟨rfl, rfl, rfl, rfl, fun _ => .inl rfl, fun h => ⟨h, rfl, rfl⟩⟩

theorem GearKept.trans {now : Nat} {c : ShaftCfg} {x y z : Shaft} (h : GearKept now c x y) (k : GearKept now c y z) :
    GearKept now c x z := by
  refine ⟨k.engine.trans h.engine, k.deviation.trans h.deviation, k.deviationAt.trans h.deviationAt, k.stepAt.trans h.stepAt,
    fun hx => ?_, fun hx => ?_⟩
  · obtain hy | ⟨hy, hp, hd⟩ := h.engaged hx
    · rw [← hy] at hx ⊢
      exact k.engaged hx
    · obtain ⟨hz, hpz, hdz⟩ := k.dwell hy
      exact .inr ⟨hz, hpz.trans hp, hdz.trans hd⟩
  · obtain ⟨hy, hp, hd⟩ := h.dwell hx
    obtain ⟨hz, hpz, hdz⟩ := k.dwell hy
    exact ⟨hz, hpz.trans hp, hdz.trans hd⟩

/-- From `s` to `u` shaft `n` has kept its gear so. -/
def GearAt (n : Nat) (s u : State) : Prop :=
  u.cfg = s.cfg ∧ u.clock = s.clock ∧ ∀ x c, getN s.sfc n = some x → getN s.cfg.shafts n = some c →
    ∃ y, getN u.sfc n = some y ∧ GearKept s.now c x y

/-- Every shaft has kept its gear so. -/
def GearFollows (s u : State) : Prop := ∀ n, GearAt n s u

theorem GearAt.trans {n : Nat} {s t u : State} (h : GearAt n s t) (k : GearAt n t u) : GearAt n s u := by
  obtain ⟨hcfg, hclock, h⟩ := h
  obtain ⟨kcfg, kclock, k⟩ := k
  refine ⟨kcfg.trans hcfg, kclock.trans hclock, fun x c hx hc => ?_⟩
  obtain ⟨y, hy, hxy⟩ := h x c hx hc
  obtain ⟨z, hz, hyz⟩ := k y c hy (hcfg ▸ hc)
  have hnow : t.now = s.now := by rw [State.now, hclock, State.now]
  exact ⟨z, hz, hxy.trans (hnow ▸ hyz)⟩

theorem GearAt.same {n : Nat} {s u : State} (hcfg : u.cfg = s.cfg) (hclock : u.clock = s.clock)
    (hsfc : getN u.sfc n = getN s.sfc n) : GearAt n s u :=
  ⟨hcfg, hclock, fun x c hx _ => ⟨x, hsfc.trans hx, .refl s.now c x⟩⟩

theorem GearAt.refl (n : Nat) (s : State) : GearAt n s s := .same rfl rfl rfl

namespace GearFollows

variable {s t u : State}

theorem trans (h : GearFollows s t) (k : GearFollows t u) : GearFollows s u := fun n => (h n).trans (k n)

theorem quiet (hcfg : u.cfg = s.cfg) (hclock : u.clock = s.clock) (hsfc : u.sfc = s.sfc) : GearFollows s u :=
  fun _ => .same hcfg hclock (by rw [hsfc])

theorem refl (s : State) : GearFollows s s := .quiet rfl rfl rfl

theorem ofTold (h : Told s u) (hsfc : u.sfc = s.sfc) : GearFollows s u := .quiet h.cfg h.clock hsfc

end GearFollows

/-- A delivery lets a shaft out of gear by DWELL alone. -/
theorem takeDelivery_gear (now : Nat) (m : Mode) (c : ShaftCfg) (t : Nat) (w : Option Way) (a : Nat × Nat) (r : Shaft) :
    GearKept now c r (takeDelivery now m c t w a r) := by
  obtain ⟨-, -, -, -, hp, -, -, heq⟩ := takeDelivery_eq now m c t w a r
  obtain ⟨-, -, hreverses, hkeeps⟩ := takeDelivery_settled now m c t w a r
  refine ⟨by rw [heq], by rw [heq], by rw [heq], by rw [heq], fun hdir => ?_, fun hdir => ?_⟩
  · have hgear : r.dir ≠ .neutral := by obtain h | h := hdir <;> rw [h] <;> decide
    by_cases hrev : (takeDelivery now m c t w a r).p = 0 ∧ (takeDelivery now m c t w a r).target ≠ 0 ∧
        ((r.dir = .ahead ∧ (takeDelivery now m c t w a r).targetWay = some .astern) ∨
          (r.dir = .astern ∧ (takeDelivery now m c t w a r).targetWay = some .ahead))
    · obtain ⟨hd, hat⟩ := hreverses hrev
      exact .inr ⟨hd, hrev.1, hat⟩
    · exact .inl (hkeeps (.inl fun h => hgear h.1) hrev).1
  · obtain ⟨hd, hat⟩ := hkeeps (.inl fun h => by simp [hdir] at h) fun h => by simp [hdir] at h
    exact ⟨hd.trans hdir, by rw [hp, hdir], hat⟩

theorem deliverTo_gear (res : ShareResult) (av : List (Nat × Nat)) (s : State) (m : Nat) :
    GearFollows s (deliverTo res av s m) := by
  obtain ⟨hother, hframe⟩ := deliverTo_rest res av s m
  have hcfg : (deliverTo res av s m).cfg = s.cfg := by rw [hframe]
  have hclock : (deliverTo res av s m).clock = s.clock := by rw [hframe]
  intro n
  by_cases hn : n = m
  · subst hn
    obtain ⟨r, c, t, a, hr, hc, ht, ha, -⟩ | heq := deliverTo_cases res av s n
    · obtain ⟨q, hq, hqe, -⟩ := deliverTo_shaft hr hc ht ha
      refine ⟨hcfg, hclock, fun x c' hx hc' => ⟨q, hq, ?_⟩⟩
      obtain rfl := Option.some.inj (hr.symm.trans hx)
      obtain rfl := Option.some.inj (hc.symm.trans hc')
      have hgear := takeDelivery_gear s.now s.svp.mode c t res.targetWay a r
      exact ⟨by rw [hqe]; exact hgear.engine, by rw [hqe]; exact hgear.deviation, by rw [hqe]; exact hgear.deviationAt,
        by rw [hqe]; exact hgear.stepAt, by rw [hqe]; exact hgear.engaged, by rw [hqe]; exact hgear.dwell⟩
    · rw [heq]
      exact .refl n s
  · exact .same hcfg hclock (hother n hn)

theorem recomputeShare_gear (s : State) : GearFollows s (recomputeShare s) := by
  by_cases hm : s.svp.mode = .configuring
  · rw [recomputeShare_configuring hm]
    exact .refl s
  · have hkept : GearFollows s (shareKept s) := .quiet (by rw [shareKept_eq]) (by rw [shareKept_eq]) (by rw [shareKept_eq])
    have hall : GearFollows (shareKept s) (deliverAll (shareResult s) (availabilities s) (shareKept s)) :=
      foldl_keeps (R := GearFollows) GearFollows.refl GearFollows.trans (deliverTo_gear _ _) _ _
    have hdirs : GearFollows (deliverAll (shareResult s) (availabilities s) (shareKept s)) (recomputeShare s) := by
      rw [recomputeShare_eq hm]
      exact .quiet (by rw [noticeDirs_eq]) (by rw [noticeDirs_eq]) (by rw [noticeDirs_eq])
    exact (hkept.trans hall).trans hdirs

theorem placeAlert_gear (s : State) : GearFollows s (placeAlert s) :=
  .quiet (by rw [placeAlert_eq]) (by rw [placeAlert_eq]) (by rw [placeAlert_eq])

theorem settleWith_gear {rc : State → State} (hrc : ∀ s, GearFollows s (rc s)) {s : State} (parted : Bool) :
    GearFollows s (settleWith rc parted s) := by
  have hnotice (force : Bool) (q : State) : GearFollows q (shuNoticeWith rc force q) :=
    shuNoticeWith_cases (GearFollows q) (fun _ _ => .refl q) (fun _ _ => hrc q) fun _ =>
      (((GearFollows.quiet rfl rfl rfl : GearFollows q (withContributing q)).trans (hrc _)).trans
        (GearFollows.quiet rfl rfl rfl : GearFollows _ (stcNotice _))).trans (placeAlert_gear _)
  exact settleWith_of_notice (GearFollows s) parted
    ((GearFollows.quiet rfl rfl rfl : GearFollows s (withCoupling s)).trans (hnotice _ _)) fun v hv => hv.trans (placeAlert_gear v)

theorem finishPullOff_gear (s : State) : GearFollows s (finishPullOff s) :=
  (GearFollows.ofTold (released_told s) (by rw [released_eq])).trans
    (settleWith_gear (s := released s) recomputeShare_gear false)

theorem noticePs_gear (ps : List Nat) (s : State) : GearFollows s (noticePs ps s) := by
  unfold noticePs completePullOff
  split
  · exact .refl s
  · split
    · exact finishPullOff_gear s
    · exact .refl s

theorem handOn_gear (ds : List Dir) (ps : List Nat) (s : State) : GearFollows s (handOn ds ps s) :=
  (GearFollows.quiet (by rw [noticeDirs_eq]) (by rw [noticeDirs_eq]) (by rw [noticeDirs_eq]) :
    GearFollows s (noticeDirs ds s)).trans (noticePs_gear ps _)

theorem recompute_gear (s : State) : GearFollows s (recompute s) :=
  recompute_induct (GearFollows s) (recomputeShare_gear s) fun _ _ => (recomputeShare_gear s).trans (finishPullOff_gear _)

theorem noticeEngine_gear (n : Nat) (s : State) : GearFollows s (noticeEngine n s) :=
  (recompute_gear s).trans (.quiet (u := estimateNotice n (recompute s)) (by rw [estimateNotice_eq])
    (by rw [estimateNotice_eq]) (by rw [estimateNotice_eq]))

/-! ## A burn that is not estimated (R118) -/

/-- From `s` to `u` an engine's burn record stays where its flow channel is not DEAD and its burn not estimated, and so does
FUEL_RESERVE. -/
structure BurnsKept (s u : State) : Prop where
  cfg : u.cfg = s.cfg
  pgu : u.pgu = s.pgu
  flag : flagSet .fuelReserve u = flagSet .fuelReserve s
  burns : ∀ n b, boundDead .flow (some n) s = false → b.estimating = false → getN s.fau.burns n = some b →
    getN u.fau.burns n = some b

theorem boundDead_congr {k : GaugeKind} {o : Option Nat} {s u : State} (hcfg : u.cfg = s.cfg) (hpgu : u.pgu = s.pgu) :
    boundDead k o u = boundDead k o s := by
  unfold boundDead chanOf chanDead
  rw [hcfg, hpgu]

namespace BurnsKept

variable {s t u : State}

theorem refl (s : State) : BurnsKept s s := ⟨rfl, rfl, rfl, fun _ _ _ _ h => h⟩

theorem trans (h : BurnsKept s t) (k : BurnsKept t u) : BurnsKept s u :=
  ⟨k.cfg.trans h.cfg, k.pgu.trans h.pgu, k.flag.trans h.flag, fun n b hd he hb =>
    k.burns n b ((boundDead_congr h.cfg h.pgu).trans hd) he (h.burns n b hd he hb)⟩

/-- A step that leaves the burn records to the engines' notices. -/
theorem same (hcfg : u.cfg = s.cfg) (hpgu : u.pgu = s.pgu) (hflags : ShortfallOnly s u) (hburns : u.fau.burns = s.fau.burns) :
    BurnsKept s u := ⟨hcfg, hpgu, hflags .fuelReserve nofun, fun _ _ _ _ h => by rw [hburns]; exact h⟩

theorem ofTold (h : Told s u) (hflags : ShortfallOnly s u) : BurnsKept s u := .same h.cfg h.pgu hflags (by rw [h.fau])

end BurnsKept

theorem recompute_burns (s : State) : BurnsKept s (recompute s) := .ofTold (recompute_told s) (recompute_flags s)

theorem estimateNotice_burns (n : Nat) (s : State) : BurnsKept s (estimateNotice n s) := by
  refine ⟨by rw [estimateNotice_eq], by rw [estimateNotice_eq], estimateNotice_flag (f := .fuelReserve) nofun n s,
    fun m b hd he hb => ?_⟩
  have hburns : (estimateNotice n s).fau.burns =
      modN s.fau.burns n (estimateBurn (boundDead .flow (some n) s) (engineRuns n s)) := by
    unfold estimateNotice
    dsimp only
    split <;> rfl
  rw [hburns]
  by_cases hn : n = m
  · subst hn
    rw [getN_modN_self, hb, hd, Option.map_some]
    obtain ⟨_, _, _, _, _⟩ := b
    simp only at he
    subst he
    rfl
  · rw [getN_modN_ne hn, hb]

theorem noticeEngine_burns (n : Nat) (s : State) : BurnsKept s (noticeEngine n s) :=
  (recompute_burns s).trans (estimateNotice_burns n _)

theorem handOn_burns (ds : List Dir) (ps : List Nat) (s : State) : BurnsKept s (handOn ds ps s) :=
  .ofTold (handOn_told ds ps s) (handOn_flags ds ps s)

end Sys2Proof.Machine
end

section
/-!
SUPPORT. The band of a DAY tank, the fuel weight and the rest of a booking's consequences (R57, R111 to R113).
-/

namespace Sys2Proof.Machine

/-! ## A band reported to a shaft controller (R57) -/

/-- What a report of the band `b` makes of a shaft, `x` before and `y` after. -/
structure BandTaken (now : Nat) (c : ShaftCfg) (b : Band) (x y : Shaft) : Prop where
  stepAt : y.stepAt = x.stepAt
  out : b = .cutoff → x.engine ≠ .fuelOut → y.engine = .fuelOut ∧ y.deviation = none ∧ y.deviationAt = none ∧
    ((x.dir = .ahead ∨ x.dir = .astern) → y.dir = .dwell ∧ y.p = 0 ∧ y.dwellAt = some (now + c.dwell)) ∧
    (x.dir = .dwell → y.dir = .dwell ∧ y.p = x.p ∧ y.dwellAt = x.dwellAt)
  refuelled : b = .normal → x.engine = .fuelOut → y.engine = .stopped
  kept : (b = .reserve ∨ (b = .cutoff ↔ x.engine = .fuelOut)) → y.engine = x.engine

theorem BandTaken.before {now : Nat} {c : ShaftCfg} {b : Band} {x y z : Shaft} (h : GearKept now c x y)
    (k : BandTaken now c b y z) : BandTaken now c b x z := by
  have he := h.engine
  refine ⟨k.stepAt.trans h.stepAt, fun hb hx => ?_, fun hb hx => k.refuelled hb (he.trans hx), fun hk => (k.kept (by rwa [he])).trans he⟩
  obtain ⟨h1, h2, h3, h4, h5⟩ := k.out hb (by rwa [he])
  refine ⟨h1, h2, h3, fun hx => ?_, fun hx => ?_⟩
  · obtain hd | ⟨hd, hp, hat⟩ := h.engaged hx
    · exact h4 (by rwa [hd])
    · obtain ⟨kd, kp, kat⟩ := h5 hd
      exact ⟨kd, kp.trans hp, kat.trans hat⟩
  · obtain ⟨hd, hp, hat⟩ := h.dwell hx
    obtain ⟨kd, kp, kat⟩ := h5 hd
    exact ⟨kd, kp.trans hp, kat.trans hat⟩

theorem BandTaken.after {now : Nat} {c : ShaftCfg} {b : Band} {x y z : Shaft} (h : BandTaken now c b x y)
    (k : GearKept now c y z) : BandTaken now c b x z := by
  refine ⟨k.stepAt.trans h.stepAt, fun hb hx => ?_, fun hb hx => k.engine.trans (h.refuelled hb hx), fun hk => k.engine.trans (h.kept hk)⟩
  obtain ⟨h1, h2, h3, h4, h5⟩ := h.out hb hx
  refine ⟨k.engine.trans h1, k.deviation.trans h2, k.deviationAt.trans h3, fun hx => ?_, fun hx => ?_⟩
  · obtain ⟨hd, hp, hat⟩ := h4 hx
    obtain ⟨kd, kp, kat⟩ := k.dwell hd
    exact ⟨kd, kp.trans hp, kat.trans hat⟩
  · obtain ⟨hd, hp, hat⟩ := h5 hx
    obtain ⟨kd, kp, kat⟩ := k.dwell hd
    exact ⟨kd, kp.trans hp, kat.trans hat⟩

/-- The engine of a shaft put in FUEL_OUT, with the notices (R57). -/
def fuelOut (n : Nat) (c : ShaftCfg) (s : State) : State := noticeEngine n (actShaft n (haltEngine s.now c .fuelOut) s)

/-- The engine of a shaft in FUEL_OUT found STOPPED, with the notices (R57). -/
def refuelled (n : Nat) (s : State) : State := noticeEngine n (modShaft n (fun q => { q with engine := .stopped }) s)

/-- A band reported puts an engine in FUEL_OUT, finds one STOPPED, or does nothing. -/
theorem bandReport_cases {n : Nat} {b : Band} {s : State} {r : Shaft} {c : ShaftCfg} (hr : getN s.sfc n = some r)
    (hc : getN s.cfg.shafts n = some c) :
    (b = .cutoff ∧ r.engine ≠ .fuelOut ∧ bandReport n b s = fuelOut n c s) ∨
    (b = .normal ∧ r.engine = .fuelOut ∧ bandReport n b s = refuelled n s) ∨
    ((b = .reserve ∨ (b = .cutoff ↔ r.engine = .fuelOut)) ∧ bandReport n b s = s) := by
  by_cases he : r.engine = .fuelOut
  · cases b
    · exact .inr (.inl ⟨rfl, he, by simp only [bandReport, hr, hc, if_pos he, refuelled]⟩)
    · exact .inr (.inr ⟨.inl rfl, by simp only [bandReport, hr, hc]⟩)
    · exact .inr (.inr ⟨.inr (by simp [he]), by simp only [bandReport, hr, hc, if_pos he]⟩)
  · cases b
    · exact .inr (.inr ⟨.inr (by simp [he]), by simp only [bandReport, hr, hc, if_neg he]⟩)
    · exact .inr (.inr ⟨.inl rfl, by simp only [bandReport, hr, hc]⟩)
    · exact .inl ⟨rfl, he, by simp only [bandReport, hr, hc, if_neg he, fuelOut]⟩

theorem fuelOut_eq {n : Nat} {c : ShaftCfg} {s : State} {r : Shaft} (hr : getN s.sfc n = some r) : fuelOut n c s =
    noticeEngine n (handOn (shaftDirs s) (shaftPs s) (shaftSet n (haltEngine s.now c .fuelOut) r.dir false s)) := by
  rw [fuelOut, actShaft_eq _ hr]

theorem fuelOut_stepAt {n : Nat} {s : State} {r q : Shaft} {c : ShaftCfg} (hr : getN s.sfc n = some r)
    (hc : getN s.cfg.shafts n = some c) (hq : getN (fuelOut n c s).sfc n = some q) : q.stepAt = r.stepAt := by
  obtain ⟨hd, hw⟩ := haltEngine_written s.now c .fuelOut r
  obtain ⟨x, hx, hxe, -, -, hframe⟩ := shaftSet_lines (haltEngine s.now c .fuelOut) false hr hd hw
  have hfollows : GearFollows (shaftSet n (haltEngine s.now c .fuelOut) r.dir false s) (fuelOut n c s) := by
    rw [fuelOut_eq hr]
    exact (handOn_gear _ _ _).trans (noticeEngine_gear n _)
  obtain ⟨-, -, hgear⟩ := hfollows n
  obtain ⟨y, hy, hkept⟩ := hgear x c hx (by rw [hframe]; exact hc)
  obtain rfl := Option.some.inj (hy.symm.trans hq)
  rw [hkept.stepAt, hxe]
  obtain ⟨-, h⟩ | ⟨-, h⟩ := haltEngine_cases s.now c .fuelOut r <;> rw [h]

theorem bandReport_takes {n : Nat} {b : Band} {s : State} {r : Shaft} {c : ShaftCfg} (hr : getN s.sfc n = some r)
    (hc : getN s.cfg.shafts n = some c) :
    ∃ y, getN (bandReport n b s).sfc n = some y ∧ BandTaken s.now c b r y := by
  obtain ⟨hb, he, heq⟩ | ⟨hb, he, heq⟩ | ⟨hkept, heq⟩ := bandReport_cases (b := b) hr hc
  · subst hb
    obtain ⟨q, hq, hhalt⟩ := halt_noticed (e := .fuelOut) rfl hr hc
    refine ⟨q, by rw [heq]; exact hq, ⟨fuelOut_stepAt hr hc hq, fun _ _ => ⟨hhalt.engine, hhalt.deviation, hhalt.deviationAt, fun hd => ?_, fun hd => ?_⟩,
      nofun, fun hk => ?_⟩⟩
    · obtain ⟨h1, h2, h3, -, -⟩ := hhalt.engaged hd
      exact ⟨h1, h2, h3⟩
    · obtain ⟨h1, h2, h3⟩ := hhalt.idle (.inr hd)
      exact ⟨h1.trans hd, h2, h3⟩
    · simp [he] at hk
  · subst hb
    have hset : getN (modShaft n (fun q => { q with engine := .stopped }) s).sfc n = some { r with engine := .stopped } :=
      getN_modShaft _ hr
    obtain ⟨-, -, hfollows⟩ := noticeEngine_gear n (modShaft n (fun q => { q with engine := .stopped }) s) n
    obtain ⟨y, hy, hgear⟩ := hfollows _ c hset hc
    exact ⟨y, by rw [heq]; exact hy, hgear.stepAt, nofun, fun _ _ => hgear.engine, fun hk => by simp [he] at hk⟩
  · rw [heq]
    refine ⟨r, hr, rfl, fun hb hne => ?_, fun hb he => ?_, fun _ => rfl⟩
    · subst hb
      simp [hne] at hkept
    · subst hb
      simp [he] at hkept

/-- A report to one shaft's controller leaves the others their gear. -/
theorem bandReport_others {n m : Nat} (h : m ≠ n) (b : Band) (s : State) : GearAt m s (bandReport n b s) := by
  cases hr : getN s.sfc n with
  | none =>
    have hsame : bandReport n b s = s := by simp only [bandReport, hr]
    rw [hsame]
    exact .refl m s
  | some r =>
    cases hc : getN s.cfg.shafts n with
    | none =>
      have hsame : bandReport n b s = s := by simp only [bandReport, hr, hc]
      rw [hsame]
      exact .refl m s
    | some c =>
      obtain ⟨-, -, heq⟩ | ⟨-, -, heq⟩ | ⟨-, heq⟩ := bandReport_cases (b := b) hr hc
      · obtain ⟨hd, hw⟩ := haltEngine_written s.now c .fuelOut r
        obtain ⟨-, -, -, hother, -, hframe⟩ := shaftSet_lines (haltEngine s.now c .fuelOut) false hr hd hw
        have hset : GearAt m s (shaftSet n (haltEngine s.now c .fuelOut) r.dir false s) :=
          .same (by rw [hframe]) (by rw [hframe]) (hother m h)
        rw [heq, fuelOut_eq hr]
        exact (hset.trans (handOn_gear _ _ _ m)).trans (noticeEngine_gear n _ m)
      · have hset : GearAt m s (modShaft n (fun q => { q with engine := .stopped }) s) :=
          .same rfl rfl (getN_modShaft_ne h _ s)
        rw [heq]
        exact hset.trans (noticeEngine_gear n _ m)
      · rw [heq]
        exact .refl m s

theorem bandReport_burns (n : Nat) (b : Band) (s : State) : BurnsKept s (bandReport n b s) := by
  cases hr : getN s.sfc n with
  | none =>
    have hsame : bandReport n b s = s := by simp only [bandReport, hr]
    rw [hsame]
    exact .refl s
  | some r =>
    cases hc : getN s.cfg.shafts n with
    | none =>
      have hsame : bandReport n b s = s := by simp only [bandReport, hr, hc]
      rw [hsame]
      exact .refl s
    | some c =>
      obtain ⟨-, -, heq⟩ | ⟨-, -, heq⟩ | ⟨-, heq⟩ := bandReport_cases (b := b) hr hc
      · obtain ⟨hd, hw⟩ := haltEngine_written s.now c .fuelOut r
        obtain ⟨-, -, -, -, -, hframe⟩ := shaftSet_lines (haltEngine s.now c .fuelOut) false hr hd hw
        have hset : BurnsKept s (shaftSet n (haltEngine s.now c .fuelOut) r.dir false s) :=
          .same (by rw [hframe]) (by rw [hframe]) (.same (by rw [hframe])) (by rw [hframe])
        rw [heq, fuelOut_eq hr]
        exact (hset.trans (handOn_burns _ _ _)).trans (noticeEngine_burns n _)
      · have hset : BurnsKept s (modShaft n (fun q => { q with engine := .stopped }) s) := .same rfl rfl (.same rfl) rfl
        rw [heq]
        exact hset.trans (noticeEngine_burns n _)
      · rw [heq]
        exact .refl s

/-! ## The report of a changed band (R112) -/

/-- The report as it reaches the controller of shaft `i`. -/
def reportTo (n : Nat) (b : Band) (s : State) (i : Nat) : State :=
  match getN s.cfg.shafts i with
  | some c => if c.dayTank = n then bandReport i b s else s
  | none => s

theorem reportBand_eq (n : Nat) (b : Band) (s : State) :
    reportBand n b s = (numbers s.sfc.length).foldl (reportTo n b) s := rfl

theorem reportTo_others {n i m : Nat} (h : m ≠ i) (b : Band) (s : State) : GearAt m s (reportTo n b s i) := by
  unfold reportTo
  split
  · split
    · exact bandReport_others h b s
    · exact .refl m s
  · exact .refl m s

theorem reportBand_burns (n : Nat) (b : Band) (s : State) : BurnsKept s (reportBand n b s) := by
  refine foldl_keeps (R := BurnsKept) .refl .trans (fun q i => ?_) _ s
  split
  · split
    · exact bandReport_burns i b q
    · exact .refl q
  · exact .refl q

/-- A shaft whose engine is on another tank keeps its gear; one on the tank takes the band. -/
def BandOnShaft (now n : Nat) (c : ShaftCfg) (b : Band) (x y : Shaft) : Prop :=
  y.stepAt = x.stepAt ∧ (c.dayTank ≠ n → y.engine = x.engine) ∧ (c.dayTank = n → BandTaken now c b x y)

theorem BandOnShaft.after {now n : Nat} {c : ShaftCfg} {b : Band} {x y z : Shaft} (h : BandOnShaft now n c b x y)
    (k : GearKept now c y z) : BandOnShaft now n c b x z :=
  ⟨k.stepAt.trans h.1, fun hn => k.engine.trans (h.2.1 hn), fun hn => (h.2.2 hn).after k⟩

theorem reportBand_shaft {n i : Nat} {b : Band} {s : State} {x : Shaft} {c : ShaftCfg} (hx : getN s.sfc i = some x)
    (hc : getN s.cfg.shafts i = some c) :
    ∃ y, getN (reportBand n b s).sfc i = some y ∧ BandOnShaft s.now n c b x y := by
  rw [reportBand_eq]
  obtain ⟨a, ⟨hacfg, haclock, hbefore⟩, ⟨hrcfg, hrclock, hafter⟩⟩ := foldl_visits (R := GearAt i) (GearAt.refl i)
    (fun h k => h.trans k) (f := reportTo n b) (n := i) (fun t m hm => reportTo_others (Ne.symm hm) b t)
    (numbers_nodup s.sfc.length) (mem_numbers_of_getN hx) s
  obtain ⟨x1, hx1, hgear⟩ := hbefore x c hx hc
  have hca : getN a.cfg.shafts i = some c := by rw [hacfg]; exact hc
  have hnow : a.now = s.now := by rw [State.now, haclock, State.now]
  by_cases hn : c.dayTank = n
  · have hvisit : reportTo n b a i = bandReport i b a := by simp only [reportTo, hca, if_pos hn]
    obtain ⟨y, hy, htaken⟩ := bandReport_takes (b := b) hx1 hca
    have hreacts := bandReport_reacts i b a
    rw [hvisit] at hafter
    obtain ⟨z, hz, hkept⟩ := hafter y c hy (by rw [hreacts.cfg]; exact hca)
    have hnow' : (bandReport i b a).now = s.now := by rw [State.now, hreacts.clock, ← hnow, State.now]
    rw [hnow'] at hkept
    rw [hnow] at htaken
    exact ⟨z, hz, ((htaken.before hgear).after hkept).stepAt, fun h => absurd hn h, fun _ => (htaken.before hgear).after hkept⟩
  · have hvisit : reportTo n b a i = a := by simp only [reportTo, hca, if_neg hn]
    rw [hvisit] at hafter
    obtain ⟨z, hz, hkept⟩ := hafter x1 c hx1 hca
    exact ⟨z, hz, hkept.stepAt.trans hgear.stepAt, fun _ => hkept.engine.trans hgear.engine, fun h => absurd h hn⟩

end Sys2Proof.Machine
end

section
/-!
SUPPORT. The consequences of a booking one by one: band, fuel weight, top-up hold, stop check and top-up check (R111 to R113).
-/

namespace Sys2Proof.Machine

/-! ## The share depends on the bands alone of the tanks -/

theorem bandAt_congr {s u : State} (h : u.fau.tanks.map (·.band) = s.fau.tanks.map (·.band)) (n : Nat) :
    (getN u.fau.tanks n).map (·.band) = (getN s.fau.tanks n).map (·.band) := by
  rw [← getN_map, h, getN_map]

theorem ruleAvail_congr {s u : State} (hcfg : u.cfg = s.cfg) (hcpc : u.cpc = s.cpc)
    (hbands : u.fau.tanks.map (·.band) = s.fau.tanks.map (·.band)) : ruleAvail u = ruleAvail s := by
  funext w c r
  have hband := bandAt_congr hbands c.dayTank
  unfold ruleAvail
  rw [hcfg, hcpc]
  cases hu : getN u.fau.tanks c.dayTank with
  | none =>
    rw [hu, Option.map_none, eq_comm, Option.map_eq_none_iff] at hband
    rw [hband]
  | some x =>
    rw [hu, Option.map_some, eq_comm, Option.map_eq_some_iff] at hband
    obtain ⟨y, hy, hyx⟩ := hband
    rw [hy]
    cases getN s.cfg.tanks c.dayTank with
    | none => rfl
    | some k => simp only [hyx]

theorem ShareInForce.ofBands {s u : State} (h : ShareInForce s) (hcfg : u.cfg = s.cfg) (hsvp : u.svp = s.svp)
    (hcvu : u.cvu = s.cvu) (hshu : u.shu = s.shu) (hsfc : u.sfc = s.sfc) (hcpc : u.cpc = s.cpc)
    (hbands : u.fau.tanks.map (·.band) = s.fau.tanks.map (·.band)) : ShareInForce u := by
  have havail := ruleAvail_congr hcfg hcpc hbands
  simpa only [ShareInForce, Targets, NoShare, ruleAvails, ruleMembers, havail, hcfg, hsvp, hcvu, hshu, hsfc] using h

theorem ownAboard_congr {s u : State} (hcfg : u.cfg = s.cfg) (hraws : u.fau.tanks.map (·.raw) = s.fau.tanks.map (·.raw)) :
    ownAboard u = ownAboard s := by
  have hzip (q : State) : ownAboard q = (List.zipWith (fun c x => (clampInt 0 (c.capacity : Int) x).toNat) q.cfg.tanks
      (q.fau.tanks.map (·.raw))).sum / 1000 := by
    rw [ownAboard, List.zip, List.map_zipWith, List.zipWith_map_right]
    rfl
  rw [hzip, hzip, hcfg, hraws]

/-! ## What the checks of a movement leave (R111, R122, R125) -/

/-- From `s` to `u` only movements, holds and the journal have changed. -/
structure MovementsOnly (s u : State) : Prop where
  cfg : u.cfg = s.cfg
  clock : u.clock = s.clock
  pgu : u.pgu = s.pgu
  svp : u.svp = s.svp
  cvu : u.cvu = s.cvu
  shu : u.shu = s.shu
  sfc : u.sfc = s.sfc
  cpc : u.cpc = s.cpc
  aboard : u.fau.aboard = s.fau.aboard
  burns : u.fau.burns = s.fau.burns
  tanks : u.fau.tanks.map (fun k => (k.raw, k.band)) = s.fau.tanks.map fun k => (k.raw, k.band)

namespace MovementsOnly

variable {s t u : State}

theorem refl (s : State) : MovementsOnly s s := ⟨rfl, rfl, rfl, rfl, rfl, rfl, rfl, rfl, rfl, rfl, rfl⟩

theorem trans (h : MovementsOnly s t) (k : MovementsOnly t u) : MovementsOnly s u :=
  ⟨k.cfg.trans h.cfg, k.clock.trans h.clock, k.pgu.trans h.pgu, k.svp.trans h.svp, k.cvu.trans h.cvu, k.shu.trans h.shu,
    k.sfc.trans h.sfc, k.cpc.trans h.cpc, k.aboard.trans h.aboard, k.burns.trans h.burns, k.tanks.trans h.tanks⟩

theorem share (h : MovementsOnly s u) (hs : ShareInForce s) : ShareInForce u :=
  hs.ofBands h.cfg h.svp h.cvu h.shu h.sfc h.cpc (map_of_map_eq (·.2) h.tanks)

theorem ownAboard (h : MovementsOnly s u) : Machine.ownAboard u = Machine.ownAboard s := by
  have hraws : u.fau.tanks.map (·.raw) = s.fau.tanks.map (·.raw) := map_of_map_eq (·.1) h.tanks
  exact ownAboard_congr h.cfg hraws

end MovementsOnly

theorem modTank_movements {n : Nat} {f : Tank → Tank} (hf : ∀ k, ((f k).raw, (f k).band) = (k.raw, k.band)) (s : State) :
    MovementsOnly s (modTank n f s) :=
  ⟨rfl, rfl, rfl, rfl, rfl, rfl, rfl, rfl, rfl, rfl, map_modN (fun k => (k.raw, k.band)) f hf _ _⟩

theorem writeDuty_movements (a : Assignment) (d : Nat) (s : State) : MovementsOnly s (writeDuty a d s) := by
  rw [writeDuty_frame]
  exact ⟨rfl, rfl, rfl, rfl, rfl, rfl, rfl, rfl, rfl, rfl, rfl⟩

theorem startTransfer_movements (o : TransferOrigin) (src dst : Nat) (req : Option Nat) (s : State) :
    MovementsOnly s (startTransfer o src dst req s) := by
  have hbegun : MovementsOnly s (transferBegun o src dst req s) :=
    MovementsOnly.trans (t := { s with fau := { s.fau with transfer := (transferBegun o src dst req s).fau.transfer } })
      ⟨rfl, rfl, rfl, rfl, rfl, rfl, rfl, rfl, rfl, rfl, rfl⟩
      ((modTank_movements (n := src) (f := fun t => { t with movement := .transferSrc }) (fun _ => rfl) _).trans
        (modTank_movements (n := dst) (f := fun t => { t with movement := .transferDst }) (fun _ => rfl) _))
  exact hbegun.trans (writeDuty_movements _ _ _)

theorem topUp_movements (s : State) : MovementsOnly s (topUp s) := by
  obtain h | ⟨-, -, d, a, -, h⟩ := topUp_cases s
  · rw [h]
    exact .refl s
  · rw [h]
    exact startTransfer_movements _ _ _ _ s

theorem transferStopped_movementsOnly {reason : EndReason} (h : reason ≠ .meterDead) (s : State) :
    MovementsOnly s (transferStopped reason s) := by
  have hended : MovementsOnly s (transferEnded s) := by
    refine MovementsOnly.trans (t := { s with fau := { s.fau with
      transfer := { s.fau.transfer with running := false, residue := 0 } } })
      ⟨rfl, rfl, rfl, rfl, rfl, rfl, rfl, rfl, rfl, rfl, rfl⟩ ?_
    exact (writeDuty_movements .transferPump 0 _).trans
      ((modTank_movements (f := fun t => { t with movement := .none }) (fun _ => rfl) _).trans
        (modTank_movements (f := fun t => { t with movement := .none }) (fun _ => rfl) _))
  have hnoted (t : State) : MovementsOnly t (writeEntry (transferEntry reason s.fau.transfer) t) :=
    ⟨rfl, rfl, rfl, rfl, rfl, rfl, rfl, rfl, rfl, rfl, rfl⟩
  have hfault (t : State) : faultIfDead reason t = t := if_neg h
  have hhold (t : State) : MovementsOnly t (settleHold reason s.fau.transfer t) := by
    unfold settleHold
    split
    · exact modTank_movements (by exact fun _ => rfl) t
    · exact .refl t
  unfold transferStopped
  rw [hfault]
  exact (hended.trans (hnoted _)).trans (hhold _)

/-- A check finds no meter DEAD. -/
theorem stopReason_ne_meterDead {s : State} {reason : EndReason} (h : stopReason s = some reason) : reason ≠ .meterDead := by
  have hrows (done high low : Prop) [Decidable done] [Decidable high] [Decidable low] :
      (if done then some EndReason.done else if high then some .destHigh else if low then some .sourceLow else none) ≠
        some .meterDead := by
    by_cases h1 : done <;> by_cases h2 : high <;> by_cases h3 : low <;> simp [h1, h2, h3]
  rintro rfl
  exact hrows _ _ _ h

theorem stopCheck_movements (n : Nat) (s : State) : MovementsOnly s (stopCheck n s) := by
  obtain h | ⟨-, -, reason, hreason, h⟩ := stopCheck_cases n s
  · rw [h]
    exact .refl s
  · rw [h, stopTransfer_eq]
    exact (transferStopped_movementsOnly (stopReason_ne_meterDead hreason) s).trans (topUp_movements _)

theorem clearHold_movements (n : Nat) (s : State) : MovementsOnly s (clearHold n s) := by
  unfold clearHold
  split
  · exact modTank_movements (by exact fun _ => rfl) s
  · exact .refl s

/-- After band and fuel weight a booking changes movements, holds and the journal alone. -/
theorem consequences_movements (n : Nat) (s : State) : MovementsOnly (weightStep (bandStep n s)) (consequences n s) :=
  ((clearHold_movements n _).trans (stopCheck_movements n _)).trans (topUp_movements _)

/-! ## The fuel weight (R34, R113) -/

theorem weightStep_cases (s : State) :
    (fuelWeight (ownAboard s) s.cfg.balance s.cfg.reserveLevel = s.shu.phi ∧ weightStep s = fuelTotals s) ∨
      weightStep s = recompute { fuelTotals s with
        shu := { s.shu with phi := fuelWeight (ownAboard s) s.cfg.balance s.cfg.reserveLevel } } := by
  unfold weightStep
  dsimp only
  split
  next h => exact .inl ⟨h, rfl⟩
  next h => exact .inr rfl

theorem weightStep_figure (s : State) : (weightStep s).fau.aboard = ownAboard s ∧
    (weightStep s).shu.phi = fuelWeight (ownAboard s) s.cfg.balance s.cfg.reserveLevel := by
  obtain ⟨hphi, h⟩ | h := weightStep_cases s
  · rw [h]
    exact ⟨rfl, hphi.symm⟩
  · obtain ⟨-, -, hphi, -⟩ := recompute_recomputes.kept { fuelTotals s with
      shu := { s.shu with phi := fuelWeight (ownAboard s) s.cfg.balance s.cfg.reserveLevel } }
    rw [h]
    exact ⟨by rw [(recompute_told _).fau]; rfl, hphi⟩

theorem weightStep_gear (s : State) : GearFollows s (weightStep s) := by
  obtain ⟨-, h⟩ | h := weightStep_cases s
  · rw [h]
    exact .quiet rfl rfl rfl
  · rw [h]
    exact (GearFollows.quiet rfl rfl rfl : GearFollows s { fuelTotals s with shu := _ }).trans (recompute_gear _)

theorem weightStep_burns (s : State) : BurnsKept s (weightStep s) := by
  obtain ⟨-, h⟩ | h := weightStep_cases s
  · rw [h]
    exact .same rfl rfl (.same rfl) rfl
  · rw [h]
    exact (BurnsKept.same rfl rfl (.same rfl) rfl : BurnsKept s { fuelTotals s with shu := _ }).trans (recompute_burns _)

theorem weightStep_share {s : State} (hm : s.svp.mode ≠ .configuring) (h : ShareInForce s) : ShareInForce (weightStep s) := by
  obtain ⟨-, hw⟩ | hw := weightStep_cases s
  · rw [hw]
    exact fuelTotals_share h
  · rw [hw]
    exact recompute_recomputes.share (s := { fuelTotals s with shu := _ }) hm

theorem weightStep_tanks (s : State) : (weightStep s).fau.tanks = s.fau.tanks := by
  obtain ⟨-, h⟩ | h := weightStep_cases s
  · rw [h]
    rfl
  · rw [h, (recompute_told _).fau]
    rfl

/-! ## The band (R112) -/

/-- FUEL_RESERVE raised where the band leaves NORMAL. -/
def reserveRaised (b : Band) (s : State) : State := if b = .normal then raiseFlag .fuelReserve s else s

theorem reserveRaised_eq (b : Band) (s : State) :
    reserveRaised b s = { s with svp := { s.svp with flags := (reserveRaised b s).svp.flags } } := by
  unfold reserveRaised
  split <;> rfl

theorem reserveRaised_flag (b : Band) (s : State) :
    flagSet .fuelReserve (reserveRaised b s) = (flagSet .fuelReserve s || decide (b = .normal)) := by
  unfold reserveRaised
  split
  next h => simp [flagSet_raiseFlag, h]
  next h => simp [h]

/-- A band that has changed is taken, and reported. -/
theorem bandStep_changed {n : Nat} {s : State} {c : TankCfg} {k : Tank} (hc : getN s.cfg.tanks n = some c)
    (hk : getN s.fau.tanks n = some k) (hrole : c.role = .day) (hband : bandOf c (contentOf c k) ≠ k.band) :
    bandStep n s = recompute (reportBand n (bandOf c (contentOf c k))
      (reserveRaised k.band (modTank n (fun q => { q with band := bandOf c (contentOf c k) }) s))) := by
  simp only [bandStep, hc, hk, hrole, hband, reserveRaised, reduceCtorEq, or_self, if_false]

/-- Otherwise nothing is done. -/
theorem bandStep_same {n : Nat} {s : State} (h : ∀ c k, getN s.cfg.tanks n = some c → getN s.fau.tanks n = some k →
    c.role = .day → bandOf c (contentOf c k) = k.band) : bandStep n s = s := by
  unfold bandStep
  split
  next c k hc hk =>
    refine if_pos ?_
    cases hrole : c.role with
    | storage => exact .inl rfl
    | day => exact .inr (h c k hc hk hrole)
  · rfl

theorem bandStep_burn {n m : Nat} {b : Burn} {s : State} (hd : boundDead .flow (some m) s = false) (he : b.estimating = false)
    (hb : getN s.fau.burns m = some b) : (bandStep n s).pgu = s.pgu ∧ getN (bandStep n s).fau.burns m = some b := by
  unfold bandStep
  split
  next c k hc hk =>
    dsimp only
    split
    · exact ⟨rfl, hb⟩
    · have hset (q : State) (hcfg : q.cfg = s.cfg) (hpgu : q.pgu = s.pgu) (hq : getN q.fau.burns m = some b) :
          (recompute (reportBand n (bandOf c (contentOf c k)) q)).pgu = s.pgu ∧
            getN (recompute (reportBand n (bandOf c (contentOf c k)) q)).fau.burns m = some b := by
        have hburns := (reportBand_burns n (bandOf c (contentOf c k)) q).trans (recompute_burns _)
        exact ⟨hburns.pgu.trans hpgu, hburns.burns m b ((boundDead_congr hcfg hpgu).trans hd) he hq⟩
      split
      · exact hset _ rfl rfl hb
      · exact hset _ rfl rfl hb
  · exact ⟨rfl, hb⟩

/-- What a DAY tank's band step leaves: the band of the content, FUEL_RESERVE, the share, and the shafts on the tank (R57, R112). -/
theorem bandStep_day {n : Nat} {s : State} {c : TankCfg} {k : Tank} (hc : getN s.cfg.tanks n = some c)
    (hk : getN s.fau.tanks n = some k) (hrole : c.role = .day) :
    let b := bandOf c (contentOf c k)
    getN (bandStep n s).fau.tanks n = some { k with band := b } ∧
    (flagSet .fuelReserve (bandStep n s) = true ↔ (flagSet .fuelReserve s = true ∨ (k.band = .normal ∧ b ≠ .normal))) ∧
    (b ≠ k.band → s.svp.mode ≠ .configuring → ShareInForce (bandStep n s)) ∧
    ∀ i x ci, getN s.sfc i = some x → getN s.cfg.shafts i = some ci → ∃ y, getN (bandStep n s).sfc i = some y ∧
      (b = k.band → y = x) ∧ (b ≠ k.band → BandOnShaft s.now n ci b x y) := by
  intro b
  by_cases hband : b = k.band
  · have hsame : bandStep n s = s := bandStep_same fun c' k' hc' hk' _ => by
      obtain rfl := Option.some.inj (hc.symm.trans hc')
      obtain rfl := Option.some.inj (hk.symm.trans hk')
      exact hband
    rw [hsame]
    refine ⟨by rw [hband, hk], ?_, fun h => absurd hband h, fun i x ci hx _ => ⟨x, hx, fun _ => rfl, fun h => absurd hband h⟩⟩
    refine ⟨fun h => .inl h, fun h => h.elim id fun ⟨h1, h2⟩ => absurd (hband.trans h1) h2⟩
  · have heq := bandStep_changed hc hk hrole hband
    generalize hset : modTank n (fun q => { q with band := bandOf c (contentOf c k) }) s = q at heq
    have hq : reserveRaised k.band q = { s with
        svp := { s.svp with flags := (reserveRaised k.band q).svp.flags }, fau := q.fau } := by
      rw [reserveRaised_eq, ← hset]
      rfl
    have hbooks := (reportBand_books n b (reserveRaised k.band q)).trans (.ofTold (recompute_told _))
    have hburns := (reportBand_burns n b (reserveRaised k.band q)).trans (recompute_burns _)
    have hreacts := reportBand_reacts n b (reserveRaised k.band q)
    rw [heq]
    refine ⟨?_, ?_, fun _ hm => recompute_recomputes.share ?_, fun i x ci hx hci => ?_⟩
    · rw [hbooks.tanks, hq, ← hset]
      exact tank_modTank hk
    · rw [hburns.flag, reserveRaised_flag, ← hset]
      simp only [Bool.or_eq_true, decide_eq_true_eq]
      refine or_congr Iff.rfl ⟨fun h => ⟨h, fun hb => hband (hb.trans h.symm)⟩, fun h => h.1⟩
    · rw [hreacts.mode, hq]
      exact hm
    · have hx' : getN (reserveRaised k.band q).sfc i = some x := by rw [hq]; exact hx
      have hci' : getN (reserveRaised k.band q).cfg.shafts i = some ci := by rw [hq]; exact hci
      have hnow : (reserveRaised k.band q).now = s.now := by rw [hq]; rfl
      obtain ⟨y, hy, hon⟩ := reportBand_shaft (n := n) (b := b) hx' hci'
      rw [hnow] at hon
      obtain ⟨-, -, hgear⟩ := recompute_gear (reportBand n b (reserveRaised k.band q)) i
      obtain ⟨z, hz, hkept⟩ := hgear y ci hy (by rw [hreacts.cfg]; exact hci')
      have hnow' : (reportBand n b (reserveRaised k.band q)).now = s.now := by rw [State.now, hreacts.clock, hq, State.now]
      rw [hnow'] at hkept
      exact ⟨z, hz, fun h => absurd h hband, fun _ => hon.after hkept⟩

end Sys2Proof.Machine
end

section
/-!
SUPPORT. Bookings of burn: the quanta that leave since-booked, and their BURN entries (R115, R116, R131).
-/

namespace Sys2Proof.Machine

/-! ## Entries appended to the journal (R131) -/

/-- The last entries of a journal stay the last ones, up to its 128, when one more is appended. -/
theorem appendEntry_suffix {l j : List Entry} (h : l <:+ j) (hl : l.length ≤ 128) (e : Entry) :
    (l ++ [e]).drop (l.length + 1 - 128) <:+ appendEntry e j := by
  obtain ⟨p, rfl⟩ := h
  have hdrop : (l ++ [e]).drop (l.length + 1 - 128) <:+ l ++ [e] := List.drop_suffix _ _
  unfold appendEntry
  split
  next hfull =>
    have hmax : 128 ≤ (p ++ l).length := hfull
    cases p with
    | nil =>
      rw [List.nil_append] at hmax
      have hlen : l.length = 128 := le_antisymm hl hmax
      rw [List.nil_append, hlen, List.drop_append_of_le_length (by omega)]
    | cons a p =>
      refine hdrop.trans ⟨p, ?_⟩
      simp
  · exact hdrop.trans ⟨p, by simp⟩

/-- The entries from serial `first` on, the last 128 of them. -/
def lastEntries (mk : Nat → Entry) (k : Nat) : List Entry := ((List.range k).map mk).drop (k - 128)

theorem lastEntries_length (mk : Nat → Entry) (k : Nat) : (lastEntries mk k).length = k - (k - 128) := by
  simp [lastEntries]

theorem lastEntries_succ (mk : Nat → Entry) (k : Nat) :
    lastEntries mk (k + 1) = (lastEntries mk k ++ [mk k]).drop ((lastEntries mk k).length + 1 - 128) := by
  have hall : (List.range (k + 1)).map mk = (List.range k).map mk ++ [mk k] := by
    rw [List.range_succ, List.map_append, List.map_singleton]
  have hkept : lastEntries mk k ++ [mk k] = ((List.range k).map mk ++ [mk k]).drop (k - 128) := by
    rw [lastEntries, List.drop_append_of_le_length (by simp)]
  have hlen : k - 128 + (k - (k - 128) + 1 - 128) = k + 1 - 128 := by omega
  rw [hkept, List.drop_drop, lastEntries_length, ← hall, lastEntries, hlen]

/-! ## The quanta that leave since-booked (R116) -/

section
variable {n : Nat} {c : ShaftCfg} {s : State} {b : Burn}

/-- The burn record after `k` BURN entries. -/
def afterEntries (size k : Nat) (b : Burn) : Burn :=
  { b with sinceBooked := b.sinceBooked - k * size, estimated := b.estimated - k * size }

/-- The `i`-th of the BURN entries, from serial `first` on. -/
def burnLine (c : ShaftCfg) (first time estimated i : Nat) : Entry :=
  { serial := first + i, time := time, kind := .burn, tank := c.dayTank, volume := (c.quantum * 1000 : Nat)
    estimated := decide (i * (c.quantum * 1000) < estimated) }

theorem burnEntry_frame (n : Nat) (c : ShaftCfg) (s : State) : burnEntry n c s = { s with fau := { s.fau with
    burns := (burnEntry n c s).fau.burns, journal := (burnEntry n c s).fau.journal
    nextSerial := (burnEntry n c s).fau.nextSerial } } := by
  unfold burnEntry
  split <;> rfl

theorem burnEntry_burn (hb : getN s.fau.burns n = some b) :
    getN (burnEntry n c s).fau.burns n = some (afterEntries (c.quantum * 1000) 1 b) := by
  simp only [burnEntry, hb, afterEntries, one_mul]
  exact (getN_modN_self ..).trans (congrArg (Option.map _) hb)

theorem burnEntry_entered (hb : getN s.fau.burns n = some b) (hserial : s.fau.nextSerial ≤ 4294967295) :
    (burnEntry n c s).fau.journal = appendEntry
      { serial := s.fau.nextSerial, time := s.stationTime, kind := .burn, tank := c.dayTank
        volume := (c.quantum * 1000 : Nat), estimated := decide (0 < b.estimated) } s.fau.journal ∧
    (burnEntry n c s).fau.nextSerial = s.fau.nextSerial + 1 := by
  obtain ⟨hj, hs⟩ := writeEntry_last (mk := fun serial time =>
    { serial := serial, time := time, kind := .burn, tank := c.dayTank, volume := (c.quantum * 1000 : Nat)
      estimated := decide (0 < b.estimated) }) hserial
  simp only [burnEntry, hb]
  exact ⟨hj, hs⟩

theorem burnRepeat_frame (n : Nat) (c : ShaftCfg) (s : State) (k : Nat) : Nat.repeat (burnEntry n c) k s =
    { s with fau := { s.fau with
      burns := (Nat.repeat (burnEntry n c) k s).fau.burns, journal := (Nat.repeat (burnEntry n c) k s).fau.journal
      nextSerial := (Nat.repeat (burnEntry n c) k s).fau.nextSerial } } := by
  induction k with
  | zero => rfl
  | succ k ih =>
    show burnEntry n c (Nat.repeat (burnEntry n c) k s) = { s with fau := { s.fau with
      burns := (burnEntry n c (Nat.repeat (burnEntry n c) k s)).fau.burns
      journal := (burnEntry n c (Nat.repeat (burnEntry n c) k s)).fau.journal
      nextSerial := (burnEntry n c (Nat.repeat (burnEntry n c) k s)).fau.nextSerial } }
    rw [burnEntry_frame]
    generalize (burnEntry n c (Nat.repeat (burnEntry n c) k s)).fau.burns = x
    generalize (burnEntry n c (Nat.repeat (burnEntry n c) k s)).fau.journal = y
    generalize (burnEntry n c (Nat.repeat (burnEntry n c) k s)).fau.nextSerial = z
    rw [ih]

theorem burnRepeat_burn (hb : getN s.fau.burns n = some b) (k : Nat) :
    getN (Nat.repeat (burnEntry n c) k s).fau.burns n = some (afterEntries (c.quantum * 1000) k b) := by
  induction k with
  | zero => simpa [Nat.repeat, afterEntries] using hb
  | succ k ih =>
    have hstep := burnEntry_burn (c := c) ih
    refine hstep.trans (congrArg some ?_)
    simp only [afterEntries, Nat.sub_sub, Nat.add_mul, one_mul]

theorem burnRepeat_entered (hb : getN s.fau.burns n = some b) (k : Nat) (hserial : s.fau.nextSerial + k ≤ 4294967296) :
    (Nat.repeat (burnEntry n c) k s).fau.nextSerial = s.fau.nextSerial + k ∧
      lastEntries (burnLine c s.fau.nextSerial s.stationTime b.estimated) k <:+ (Nat.repeat (burnEntry n c) k s).fau.journal := by
  induction k with
  | zero => exact ⟨rfl, List.nil_suffix⟩
  | succ k ih =>
    obtain ⟨hnext, hsuffix⟩ := ih (by omega)
    have hroom : (Nat.repeat (burnEntry n c) k s).fau.nextSerial ≤ 4294967295 := by omega
    obtain ⟨hj, hs⟩ := burnEntry_entered (c := c) (burnRepeat_burn hb k) hroom
    have htime : (Nat.repeat (burnEntry n c) k s).stationTime = s.stationTime := by
      rw [burnRepeat_frame]
      rfl
    have hentry : burnLine c s.fau.nextSerial s.stationTime b.estimated k =
        { serial := (Nat.repeat (burnEntry n c) k s).fau.nextSerial
          time := (Nat.repeat (burnEntry n c) k s).stationTime, kind := .burn, tank := c.dayTank
          volume := (c.quantum * 1000 : Nat)
          estimated := decide (0 < (afterEntries (c.quantum * 1000) k b).estimated) } := by
      simp only [burnLine, afterEntries, hnext, htime, Nat.sub_pos_iff_lt]
    refine ⟨?_, ?_⟩
    · exact hs.trans (by rw [hnext, Nat.add_assoc])
    · have hlen : (lastEntries (burnLine c s.fau.nextSerial s.stationTime b.estimated) k).length ≤ 128 := by
        rw [lastEntries_length]
        omega
      show _ <:+ (burnEntry n c (Nat.repeat (burnEntry n c) k s)).fau.journal
      rw [lastEntries_succ, hj, hentry]
      exact appendEntry_suffix hsuffix hlen _

theorem burnEntries_eq (hb : getN s.fau.burns n = some b) :
    burnEntries n c s = Nat.repeat (burnEntry n c) (b.sinceBooked / (c.quantum * 1000)) s := by
  simp only [burnEntries, hb]

theorem burnEntries_frame (n : Nat) (c : ShaftCfg) (s : State) : burnEntries n c s = { s with fau := { s.fau with
    burns := (burnEntries n c s).fau.burns, journal := (burnEntries n c s).fau.journal
    nextSerial := (burnEntries n c s).fau.nextSerial } } := by
  unfold burnEntries
  split
  · exact burnRepeat_frame ..
  · rfl

/-! ## A booking of burn (R115) -/

/-- The state after the whole millilitres of a burn have been booked to the day tank. -/
def burnTaken (n v : Nat) (c : ShaftCfg) (b : Burn) (s : State) : State :=
  book c.dayTank (-(wholeMl b.residue v : Int)) (modBurn n (fun q => { q with residue := leftover q.residue v }) s)

/-- The millilitres noted in since-booked, and where estimated in the estimated part. -/
def burnNoted (ml : Nat) (isEstimate : Bool) (b : Burn) : Burn :=
  { b with
    sinceBooked := b.sinceBooked + ml
    estimated := if isEstimate then b.estimated + ml else b.estimated }

theorem bookBurn_eq (v : Nat) (isEstimate : Bool) (hb : getN s.fau.burns n = some b) : bookBurn n v c isEstimate s =
    burnEntries n c (modBurn n (burnNoted (wholeMl b.residue v) isEstimate) (burnTaken n v c b s)) := by
  simp only [bookBurn, hb]
  rfl

/-- The record of the engine between the two parts of a booking. -/
theorem burnTaken_burn (v : Nat) (hb : getN s.fau.burns n = some b) : ∃ x, getN (burnTaken n v c b s).fau.burns n = some x ∧
    burnAmounts x = (leftover b.residue v, b.sinceBooked, b.estimated) := by
  have hset : getN (addRaw c.dayTank (-(wholeMl b.residue v : Int))
      (modBurn n (fun q => { q with residue := leftover q.residue v }) s)).fau.burns n =
        some { b with residue := leftover b.residue v } := (getN_modN_self ..).trans (congrArg (Option.map _) hb)
  exact getN_of_map_eq (consequences_balances c.dayTank _).burns hset

/-- The raw balance of the day tank between the two parts. -/
theorem burnTaken_tank {v : Nat} {k : Tank} (hk : getN s.fau.tanks c.dayTank = some k)
    (hlow : -(2 ^ 47) ≤ k.raw + -(wholeMl b.residue v : Int)) (hhigh : k.raw < 2 ^ 47) :
    ∃ y, getN (burnTaken n v c b s).fau.tanks c.dayTank = some y ∧ y.raw = k.raw + -(wholeMl b.residue v : Int) := by
  have hwhole : (0 : Int) ≤ (wholeMl b.residue v : Int) := Int.natCast_nonneg _
  have htop : k.raw + -(wholeMl b.residue v : Int) < 2 ^ 47 := by omega
  have hset := tank_addRaw (s := modBurn n (fun q => { q with residue := leftover q.residue v }) s) hk hlow htop
  exact (consequences_balances c.dayTank _).raw hset

/-- What a booking of burn leaves of the engine's record and of the day tank, `x` being the record between its two parts. -/
theorem bookBurn_amounts {v : Nat} {isEstimate : Bool} {k : Tank} {x : Burn} (hb : getN s.fau.burns n = some b)
    (hk : getN s.fau.tanks c.dayTank = some k) (hx : getN (burnTaken n v c b s).fau.burns n = some x)
    (hlow : -(2 ^ 47) ≤ k.raw + -(wholeMl b.residue v : Int)) (hhigh : k.raw < 2 ^ 47) :
    ∃ q y, getN (bookBurn n v c isEstimate s).fau.burns n = some q ∧
      getN (bookBurn n v c isEstimate s).fau.tanks c.dayTank = some y ∧
      q.residue = leftover b.residue v ∧ q.sinceBooked = (b.sinceBooked + wholeMl b.residue v) % (c.quantum * 1000) ∧
      q.estimated = (if isEstimate then b.estimated + wholeMl b.residue v else b.estimated) -
        (b.sinceBooked + wholeMl b.residue v) / (c.quantum * 1000) * (c.quantum * 1000) ∧
      q.lastRate = x.lastRate ∧ q.estimating = x.estimating ∧ y.raw = k.raw + -(wholeMl b.residue v : Int) := by
  obtain ⟨x', hx', hamounts⟩ := burnTaken_burn (c := c) v hb
  obtain rfl := Option.some.inj (hx'.symm.trans hx)
  simp only [burnAmounts, Prod.mk.injEq] at hamounts
  obtain ⟨hresidue, hsince, hestimated⟩ := hamounts
  obtain ⟨y, hy, hraw⟩ := burnTaken_tank (n := n) hk hlow hhigh
  have hnoted : getN (modBurn n (burnNoted (wholeMl b.residue v) isEstimate) (burnTaken n v c b s)).fau.burns n =
      some (burnNoted (wholeMl b.residue v) isEstimate x') := (getN_modN_self ..).trans (congrArg (Option.map _) hx)
  have hsize : (burnNoted (wholeMl b.residue v) isEstimate x').sinceBooked = b.sinceBooked + wholeMl b.residue v := by
    simp only [burnNoted, hsince]
  rw [bookBurn_eq v isEstimate hb, burnEntries_eq hnoted, hsize]
  refine ⟨_, y, burnRepeat_burn hnoted _, ?_, hresidue, ?_, ?_, rfl, rfl, hraw⟩
  · rw [burnRepeat_frame]
    exact hy
  · simp only [afterEntries, hsize]
    rw [Nat.mod_eq_sub_mul_div, Nat.mul_comm]
  · simp only [afterEntries, burnNoted, hestimated]

end

end Sys2Proof.Machine
end

section
/-!
PROOFS. Flow results: what a booking to a DAY tank and the burn entries leave (O55).
-/

namespace Sys2Proof.Machine

/-! ## A booking to a tank (R111 to R113) -/

/-- The figures a booking leaves. -/
theorem consequences_weight (n : Nat) (s : State) : (consequences n s).fau.aboard = ownAboard (consequences n s) ∧
    (consequences n s).shu.phi =
      fuelWeight (consequences n s).fau.aboard s.cfg.balance s.cfg.reserveLevel := by
  have hmoves := consequences_movements n s
  obtain ⟨haboard, hphi⟩ := weightStep_figure (bandStep n s)
  have hcfg : (bandStep n s).cfg = s.cfg := (bandStep_figures n s).cfg
  have hown : ownAboard (weightStep (bandStep n s)) = ownAboard (bandStep n s) :=
    ownAboard_congr (weightStep_figures _).cfg (by rw [weightStep_tanks])
  have hfigure : (consequences n s).fau.aboard = ownAboard (bandStep n s) := hmoves.aboard.trans haboard
  refine ⟨?_, ?_⟩
  · rw [hmoves.ownAboard, hown, hfigure]
  · rw [hmoves.shu, hphi, hfigure, hcfg]

/-- The burn record of an engine whose flow channel is not DEAD is left as it is. -/
theorem consequences_burn {n m : Nat} {b : Burn} {s : State} (hd : boundDead .flow (some m) s = false)
    (he : b.estimating = false) (hb : getN s.fau.burns m = some b) : getN (consequences n s).fau.burns m = some b := by
  obtain ⟨hpgu, hband⟩ := bandStep_burn (n := n) hd he hb
  have hdead : boundDead .flow (some m) (bandStep n s) = false :=
    (boundDead_congr (bandStep_figures n s).cfg hpgu).trans hd
  rw [(consequences_movements n s).burns]
  exact (weightStep_burns _).burns m b hdead he hband

/-- What a booking to a DAY tank leaves of it, of FUEL_RESERVE, of the share and of the shafts (R57, R112). -/
theorem consequences_day {n : Nat} {s : State} {c : TankCfg} {k : Tank} (hc : getN s.cfg.tanks n = some c)
    (hk : getN s.fau.tanks n = some k) (hrole : c.role = .day) :
    let b := bandOf c (contentOf c k)
    (∀ y, getN (consequences n s).fau.tanks n = some y → y.band = b) ∧
    (flagSet .fuelReserve (consequences n s) = true ↔ (flagSet .fuelReserve s = true ∨ (k.band = .normal ∧ b ≠ .normal))) ∧
    (b ≠ k.band → s.svp.mode ≠ .configuring → ShareInForce (consequences n s)) ∧
    ∀ i x ci, getN s.sfc i = some x → getN s.cfg.shafts i = some ci → ∃ y, getN (consequences n s).sfc i = some y ∧
      y.stepAt = x.stepAt ∧ (b = k.band → y.engine = x.engine) ∧ (b ≠ k.band → BandOnShaft s.now n ci b x y) := by
  intro b
  obtain ⟨htank, hflag, hshare, hshafts⟩ := bandStep_day hc hk hrole
  have hmoves := consequences_movements n s
  have hfigures := bandStep_figures n s
  refine ⟨fun y hy => ?_, ?_, fun hne hm => hmoves.share (weightStep_share ?_ (hshare hne hm)), fun i x ci hx hci => ?_⟩
  · have hbands : (consequences n s).fau.tanks.map (·.band) = (bandStep n s).fau.tanks.map (·.band) := by
      have htanks := weightStep_tanks (bandStep n s)
      exact (map_of_map_eq (·.2) hmoves.tanks).trans (by rw [htanks])
    obtain ⟨z, hz, hband⟩ := getN_of_map_eq hbands htank
    obtain rfl := Option.some.inj (hz.symm.trans hy)
    exact hband
  · rw [← hflag, ← (weightStep_burns (bandStep n s)).flag]
    simp only [flagSet, hmoves.svp]
  · have hmode : (bandStep n s).svp.mode = s.svp.mode := (bandStep_reacts n s).mode
    rw [hmode]
    exact hm
  · obtain ⟨y, hy, hsame, hon⟩ := hshafts i x ci hx hci
    obtain ⟨-, -, hgear⟩ := weightStep_gear (bandStep n s) i
    obtain ⟨z, hz, hkept⟩ := hgear y ci hy (by rw [hfigures.cfg]; exact hci)
    have hnow : (bandStep n s).now = s.now := by rw [State.now, hfigures.clock, State.now]
    rw [hnow] at hkept
    refine ⟨z, by rw [hmoves.sfc]; exact hz, hkept.stepAt.trans ?_, fun hb => ?_, fun hb => (hon hb).after hkept⟩
    · by_cases hb : bandOf c (contentOf c k) = k.band
      · rw [hsame hb]
      · exact (hon hb).1
    · rw [hkept.engine, hsame hb]

/-- A booking enters at most one entry, while the serials last. -/
theorem consequences_serial {n : Nat} {s : State} (hserial : s.fau.nextSerial ≤ 4294967295) :
    (consequences n s).fau.nextSerial ≤ s.fau.nextSerial + 1 := by
  have hbooked := booked_figures n s
  rw [consequences_eq, (topUp_journal _).2]
  obtain h | ⟨-, -, reason, -, h⟩ := stopCheck_cases n (booked n s)
  · rw [h, hbooked.serial]
    exact Nat.le_succ _
  · obtain ⟨-, -, -, -, hs⟩ := transferStopped_records reason (booked n s)
    have hlast := (writeEntry_last (mk := transferEntry reason (booked n s).fau.transfer) (s := booked n s)
      (by rw [hbooked.serial]; exact hserial)).2
    rw [h, stopTransfer_eq, (topUp_journal _).2, hs, hlast, hbooked.serial]

/-! ## A notice of the flow channel's health or of the engine's state (R118) -/

theorem engineRuns_iff (n : Nat) (s : State) :
    engineRuns n s = true ↔ ∃ r, getN s.sfc n = some r ∧ (r.engine = .running ∨ r.engine = .limited) := by
  unfold engineRuns
  cases getN s.sfc n with
  | none => simp
  | some r => simp [engineTurns_iff]

/-- The burn records, the total and METER_FAULT after a notice. -/
theorem estimateNotice_spec {n : Nat} {s : State} {b : Burn} (hb : getN s.fau.burns n = some b) :
    (estimateNotice n s).fau.burns = modN s.fau.burns n (estimateBurn (boundDead .flow (some n) s) (engineRuns n s)) ∧
    (estimateNotice n s).fau.burn = ((estimateNotice n s).fau.burns.map (·.lastRate)).sum ∧
    (∀ f, flagSet f (estimateNotice n s) = (flagSet f s || decide (f = .meterFault ∧ b.estimating = false ∧
      (boundDead .flow (some n) s && engineRuns n s) = true))) ∧
    (estimateNotice n s).fau.tanks = s.fau.tanks ∧ (estimateNotice n s).fau.journal = s.fau.journal := by
  have hstarts : startsEstimating n s = (!b.estimating && boundDead .flow (some n) s && engineRuns n s) := by
    simp only [startsEstimating, hb]
  unfold estimateNotice
  dsimp only
  rw [hstarts]
  split
  next h =>
    refine ⟨rfl, rfl, fun f => ?_, rfl, rfl⟩
    have hraise : flagSet f (fuelTotals (modBurn n (estimateBurn (boundDead .flow (some n) s) (engineRuns n s))
        (raiseFlag .meterFault s))) = flagSet f (raiseFlag .meterFault s) := rfl
    simp only [Bool.and_eq_true, Bool.not_eq_true'] at h
    obtain ⟨⟨h1, h2⟩, h3⟩ := h
    rw [hraise, flagSet_raiseFlag]
    simp [h1, h2, h3]
  next h =>
    refine ⟨rfl, rfl, fun f => ?_, rfl, rfl⟩
    have hkept : flagSet f (fuelTotals (modBurn n (estimateBurn (boundDead .flow (some n) s) (engineRuns n s)) s)) =
        flagSet f s := rfl
    have hno : ¬(b.estimating = false ∧ (boundDead .flow (some n) s && engineRuns n s) = true) := by
      rintro ⟨h1, h2⟩
      rw [Bool.and_eq_true] at h2
      simp [h1, h2.1, h2.2] at h
    rw [hkept, decide_eq_false fun hf => hno hf.2, Bool.or_false]

/-- A notice leaves the clock, the configuration and the blocks of the engines and the share. -/
theorem estimateNotice_blocks (n : Nat) (s : State) :
    (estimateNotice n s).sfc = s.sfc ∧ (estimateNotice n s).shu = s.shu ∧ (estimateNotice n s).cfg = s.cfg ∧
      (estimateNotice n s).pgu = s.pgu ∧ (estimateNotice n s).clock = s.clock := by
  rw [estimateNotice_eq]
  exact ⟨rfl, rfl, rfl, rfl, rfl⟩

/-! ## A flow result (R115 to R117) -/

/-- The books as a flow result is taken, its rate set, before it is booked. -/
def flowRated (n count elapsed : Nat) (c : ShaftCfg) (s : State) : State :=
  setRate n (flowRate count c.kFlow elapsed) (estimateNotice n s)

theorem flowResult_eq {n count elapsed : Nat} {s : State} {c : ShaftCfg} (hc : getN s.cfg.shafts n = some c) :
    flowResult n count elapsed s = bookBurn n (count * c.kFlow) c false (flowRated n count elapsed c s) := by
  simp only [flowResult, hc, flowRated]

/-- Nothing of what a booking turns on has changed but the engine's rate. -/
structure RateOnly (s u : State) : Prop where
  cfg : u.cfg = s.cfg
  clock : u.clock = s.clock
  pgu : u.pgu = s.pgu
  sfc : u.sfc = s.sfc
  mode : u.svp.mode = s.svp.mode
  tanks : u.fau.tanks = s.fau.tanks
  serial : u.fau.nextSerial = s.fau.nextSerial
  transfer : u.fau.transfer = s.fau.transfer
  flag : flagSet .fuelReserve u = flagSet .fuelReserve s

theorem flowRated_rate {n count elapsed : Nat} {s : State} {c : ShaftCfg} {b : Burn} (hb : getN s.fau.burns n = some b)
    (hd : boundDead .flow (some n) s = false) : RateOnly s (flowRated n count elapsed c s) ∧
      getN (flowRated n count elapsed c s).fau.burns n =
        some { b with estimating := false, lastRate := flowRate count c.kFlow elapsed } := by
  obtain ⟨hburns, -⟩ := estimateNotice_spec hb
  obtain ⟨hsfc, -, hcfg, hpgu, hclock⟩ := estimateNotice_blocks n s
  have hbooks := estimateNotice_books n s
  refine ⟨⟨hcfg, hclock, hpgu, hsfc, (estimateNotice_reacts n s).mode, hbooks.tanks, hbooks.serial, hbooks.transfer,
    estimateNotice_flag (f := .fuelReserve) nofun n s⟩, ?_⟩
  have hset : getN (estimateNotice n s).fau.burns n = some { b with estimating := false } := by
    rw [hburns, getN_modN_self, hb, hd]
    rfl
  exact (getN_modN_self ..).trans (congrArg (Option.map _) hset)

section
variable {n v : Nat} {c : ShaftCfg} {b : Burn} {s t : State} {k : Tank}

/-- The state in which the consequences of a booking of burn are drawn. -/
def burnDrawn (n v : Nat) (c : ShaftCfg) (b : Burn) (s : State) : State :=
  addRaw c.dayTank (-(wholeMl b.residue v : Int)) (modBurn n (fun q => { q with residue := leftover q.residue v }) s)

theorem burnTaken_eq : burnTaken n v c b s = consequences c.dayTank (burnDrawn n v c b s) := rfl

/-- All that a booking of burn leaves but the engine's record and the journal is what its consequences leave. -/
theorem bookBurn_frame (v : Nat) (isEstimate : Bool) (hb : getN s.fau.burns n = some b) : bookBurn n v c isEstimate s =
    { consequences c.dayTank (burnDrawn n v c b s) with fau := { (consequences c.dayTank (burnDrawn n v c b s)).fau with
      burns := (bookBurn n v c isEstimate s).fau.burns, journal := (bookBurn n v c isEstimate s).fau.journal
      nextSerial := (bookBurn n v c isEstimate s).fau.nextSerial } } := by
  rw [bookBurn_eq v isEstimate hb, burnEntries_frame]
  rfl

/-- The entries of the quanta are the last of the journal. -/
theorem bookBurn_entered {isEstimate : Bool} {quanta : Nat} (hb : getN s.fau.burns n = some b)
    (hquanta : (b.sinceBooked + wholeMl b.residue v) / (c.quantum * 1000) = quanta)
    (hserial : s.fau.nextSerial + quanta + 8 ≤ 4294967296) :
    let u := bookBurn n v c isEstimate s
    (∃ earlier, u.fau.journal = earlier ++ lastEntries (burnLine c (u.fau.nextSerial - quanta) s.stationTime
      (if isEstimate then b.estimated + wholeMl b.residue v else b.estimated)) quanta) ∧
    (s.fau.transfer.running = false → u.fau.nextSerial = s.fau.nextSerial + quanta) := by
  intro u
  obtain ⟨x, hx, hamounts⟩ := burnTaken_burn (c := c) v hb
  simp only [burnAmounts, Prod.mk.injEq] at hamounts
  obtain ⟨-, hsince, hestimated⟩ := hamounts
  have hnoted : getN (modBurn n (burnNoted (wholeMl b.residue v) isEstimate) (burnTaken n v c b s)).fau.burns n =
      some (burnNoted (wholeMl b.residue v) isEstimate x) := (getN_modN_self ..).trans (congrArg (Option.map _) hx)
  have hsize : (burnNoted (wholeMl b.residue v) isEstimate x).sinceBooked / (c.quantum * 1000) = quanta := by
    simp only [burnNoted, hsince, hquanta]
  have hpart : (burnNoted (wholeMl b.residue v) isEstimate x).estimated =
      if isEstimate then b.estimated + wholeMl b.residue v else b.estimated := by
    simp only [burnNoted, hestimated]
  have hu : u = Nat.repeat (burnEntry n c) quanta
      (modBurn n (burnNoted (wholeMl b.residue v) isEstimate) (burnTaken n v c b s)) := by
    rw [← hsize]
    exact (bookBurn_eq v isEstimate hb).trans (burnEntries_eq hnoted)
  have htime : (burnTaken n v c b s).stationTime = s.stationTime :=
    (consequences_balances c.dayTank (burnDrawn n v c b s)).stationTime
  have hbound : (burnTaken n v c b s).fau.nextSerial ≤ s.fau.nextSerial + 1 :=
    consequences_serial (n := c.dayTank) (s := burnDrawn n v c b s) (show s.fau.nextSerial ≤ 4294967295 by omega)
  obtain ⟨hnext, hsuffix⟩ := burnRepeat_entered (c := c) hnoted quanta
    (show (burnTaken n v c b s).fau.nextSerial + quanta ≤ 4294967296 by omega)
  rw [← hu] at hnext hsuffix
  refine ⟨?_, fun hidle => ?_⟩
  · obtain ⟨earlier, hearlier⟩ := hsuffix
    refine ⟨earlier, ?_⟩
    have hfirst : u.fau.nextSerial - quanta = (burnTaken n v c b s).fau.nextSerial := by
      rw [hnext]
      exact Nat.add_sub_cancel ..
    rw [← hearlier, hfirst, ← htime, ← hpart]
    rfl
  · rw [hnext]
    exact congrArg (· + quanta) (consequences_quiet (n := c.dayTank) (s := burnDrawn n v c b s) (.inl hidle)).2.1

end

/-- The band of a DAY tank is that of its content (R112). -/
theorem bandOf_eq (c : TankCfg) (k : Tank) : bandOf c (contentOf c k) =
    if (c.reserve : Int) ≤ max 0 (min (c.capacity : Int) k.raw) then .normal
    else if max 0 (min (c.capacity : Int) k.raw) ≤ c.cutoff then .cutoff else .reserve := by
  have hcontent : ((contentOf c k : Nat) : Int) = max 0 (min (c.capacity : Int) k.raw) := by
    rw [contentOf_eq]
    omega
  rw [← hcontent, bandOf]
  simp only [Nat.cast_le]

/-- Settles O55: the notice, and the flow result as it is booked. -/
theorem flowResultBooks : Obligations.FlowResultBooks := by
  refine ⟨fun n s b hb => ?_, ?_⟩
  · intro turns u
    obtain ⟨hburns, htotal, hflags, htanks, hjournal⟩ := estimateNotice_spec hb
    obtain ⟨hsfc, hshu, -⟩ := estimateNotice_blocks n s
    have hq : getN u.fau.burns n = some (estimateBurn (boundDead .flow (some n) s) (engineRuns n s) b) := by
      show getN (estimateNotice n s).fau.burns n = _
      rw [hburns, getN_modN_self, hb]
      rfl
    have hturns : engineRuns n s = true ↔ turns := engineRuns_iff n s
    have hno : engineRuns n s = false ↔ ¬turns := by rw [← hturns, Bool.not_eq_true]
    refine ⟨_, hq, ?_, ?_, ?_, rfl, htotal, fun f => ?_, htanks, hjournal, hsfc, hshu⟩
    · rw [← hturns]
      exact Bool.and_eq_true_iff
    · rintro ⟨hd, hr⟩
      simp [estimateBurn, hd, hno.2 hr]
    · rintro (hd | hr)
      · simp [estimateBurn, hd]
      · simp [estimateBurn, hturns.2 hr]
    · exact hflags f
  · intro n count elapsed s c b k hc hb hk hd hquantum hlow hhigh
    obtain ⟨hrate, hbt⟩ := flowRated_rate (count := count) (elapsed := elapsed) (c := c) hb hd
    rw [flowResult_eq hc]
    generalize flowRated n count elapsed c s = t at hrate hbt
    set b' : Burn := { b with estimating := false, lastRate := flowRate count c.kFlow elapsed } with hb'
    set a := burnDrawn n (count * c.kFlow) c b' t with ha
    have hkt : getN t.fau.tanks c.dayTank = some k := by rw [hrate.tanks]; exact hk
    have hlow' : -(2 ^ 47) ≤ k.raw + -(wholeMl b'.residue (count * c.kFlow) : Int) := by
      rw [← sub_eq_add_neg]
      exact hlow
    have hdrawn : getN a.fau.burns n = some { b' with residue := leftover b'.residue (count * c.kFlow) } :=
      (getN_modN_self ..).trans (congrArg (Option.map _) hbt)
    have hdead : boundDead .flow (some n) a = false := (boundDead_congr (s := s) hrate.cfg hrate.pgu).trans hd
    have hx : getN (burnTaken n (count * c.kFlow) c b' t).fau.burns n =
        some { b' with residue := leftover b'.residue (count * c.kFlow) } := consequences_burn hdead rfl hdrawn
    obtain ⟨q, y, hq, hy, hresidue, hsince, hestimated, hlast, hestimating, hraw⟩ :=
      bookBurn_amounts (isEstimate := false) hbt hkt hx hlow' hhigh
    have hu := bookBurn_frame (c := c) (count * c.kFlow) false hbt
    generalize hr : bookBurn n (count * c.kFlow) c false t = u at hq hy hu
    refine ⟨q, y, hq, hy, hresidue, hsince, hlast, hestimating, hraw.trans (sub_eq_add_neg _ _).symm, ?_, hestimated, fun hs => ?_⟩
    · have hacfg : a.cfg = s.cfg := hrate.cfg
      have hanow : a.now = s.now := by
        show t.clock / 1000 = s.clock / 1000
        rw [hrate.clock]
      have hasfc : a.sfc = s.sfc := hrate.sfc
      have hak : getN a.fau.tanks c.dayTank = some { k with raw := k.raw + -(wholeMl b'.residue (count * c.kFlow) : Int) } :=
        tank_addRaw hkt hlow' (by
          have hwhole : (0 : Int) ≤ (wholeMl b'.residue (count * c.kFlow) : Int) := Int.natCast_nonneg _
          omega)
      have haflag : flagSet .fuelReserve a = flagSet .fuelReserve s := hrate.flag
      have hamode : a.svp.mode = s.svp.mode := hrate.mode
      obtain ⟨haboard, hphi⟩ := consequences_weight c.dayTank a
      refine ⟨?_, ?_, fun ct hct hrole => ?_⟩
      · rw [hu]
        exact haboard
      · rw [hu, ← hacfg]
        exact hphi
      · obtain ⟨hband, hflag, hshare, hshafts⟩ := consequences_day (s := a) (by rw [hacfg]; exact hct) hak hrole
        have hyb : y.band = bandOf ct (contentOf ct { k with raw := k.raw + -(wholeMl b'.residue (count * c.kFlow) : Int) }) := by
          refine hband y ?_
          rw [hu] at hy
          exact hy
        rw [← hyb] at hflag hshare hshafts
        have huflag : flagSet .fuelReserve u = flagSet .fuelReserve (consequences c.dayTank a) := by rw [hu]; rfl
        refine ⟨?_, ?_, fun hne hm => ?_, fun i x ci hxi hci => ?_⟩
        · intro z
          rw [hyb, bandOf_eq, ← hraw]
        · rw [huflag, hflag, haflag]
        · have hinForce := hshare hne (by rw [hamode]; exact hm)
          rw [hu]
          exact hinForce.ofBands rfl rfl rfl rfl rfl rfl rfl
        · intro onTank
          obtain ⟨z, hz, -, hsame, hon⟩ := hshafts i x ci (by rw [hasfc]; exact hxi) (by rw [hacfg]; exact hci)
          rw [hanow] at hon
          refine ⟨z, by rw [hu]; exact hz, ?_, ?_, ?_⟩
          · rintro ⟨⟨htank, hne⟩, hcut, hengine⟩
            obtain ⟨h1, h2, h3, h4, -⟩ := ((hon hne).2.2 htank).out hcut hengine
            exact ⟨h1, h2, h3, h4⟩
          · rintro ⟨⟨htank, hne⟩, hnormal, hengine⟩
            exact ((hon hne).2.2 htank).refuelled hnormal hengine
          · intro hkept
            by_cases hne : y.band = k.band
            · exact hsame hne
            · by_cases htank : ci.dayTank = c.dayTank
              · exact ((hon hne).2.2 htank).kept (hkept.resolve_left fun h => h ⟨htank, hne⟩)
              · exact (hon hne).2.1 htank
    · obtain ⟨hentries, hnext⟩ := bookBurn_entered (isEstimate := false) hbt rfl
        (show t.fau.nextSerial + _ + 8 ≤ 4294967296 by rw [hrate.serial]; exact hs)
      rw [hr] at hentries hnext
      have htime : t.stationTime = s.stationTime := by rw [State.stationTime, hrate.clock, State.stationTime]
      rw [htime] at hentries
      refine ⟨hentries, fun hidle => ?_⟩
      rw [hrate.serial] at hnext
      exact hnext (by rw [hrate.transfer]; exact hidle)

end Sys2Proof.Machine
end

section
/-!
PROOFS. The control step, and the burn it hands on while it is estimated (O44).
-/

namespace Sys2Proof.Machine

/-! ## An estimated burn through a booking (R57, R112, R118) -/

/-- Shaft `n` with its engine in the state `e` and its burn record `b` under a DEAD channel, or, where the band reported is CUTOFF,
in FUEL_OUT with the estimating ended. -/
def BurnWatched (n : Nat) (c : ShaftCfg) (band : Band) (e : Engine) (at' : Option Nat) (b : Burn) (s : State) : Prop :=
  getN s.cfg.shafts n = some c ∧ boundDead .flow (some n) s = true ∧ ∃ x, getN s.sfc n = some x ∧ x.stepAt = at' ∧
    ((x.engine = e ∧ getN s.fau.burns n = some b) ∨
      (band = .cutoff ∧ x.engine = .fuelOut ∧ getN s.fau.burns n = some { b with estimating := false, lastRate := 0 }))

/-- A step leaves shaft `n` in gear and its burn record as it is. -/
structure BurnStays (n : Nat) (s u : State) : Prop where
  gear : GearAt n s u
  pgu : u.pgu = s.pgu
  burn : getN u.fau.burns n = getN s.fau.burns n

namespace BurnStays

variable {n : Nat} {s t u : State}

theorem refl (n : Nat) (s : State) : BurnStays n s s := ⟨.refl n s, rfl, rfl⟩

theorem trans (h : BurnStays n s t) (k : BurnStays n t u) : BurnStays n s u :=
  ⟨h.gear.trans k.gear, k.pgu.trans h.pgu, k.burn.trans h.burn⟩

theorem ofTold (h : Told s u) (hg : GearAt n s u) : BurnStays n s u := ⟨hg, h.pgu, by rw [h.fau]⟩

theorem watched {c : ShaftCfg} {band : Band} {e : Engine} {a : Option Nat} {b : Burn} (h : BurnStays n s u)
    (hw : BurnWatched n c band e a b s) : BurnWatched n c band e a b u := by
  obtain ⟨hc, hd, x, hx, hat, hcases⟩ := hw
  obtain ⟨hcfg, -, hgear⟩ := h.gear
  obtain ⟨y, hy, hkept⟩ := hgear x c hx hc
  refine ⟨by rw [hcfg]; exact hc, (boundDead_congr hcfg h.pgu).trans hd, y, hy, hkept.stepAt.trans hat, ?_⟩
  rw [hkept.engine, h.burn]
  exact hcases

end BurnStays

theorem estimateNotice_burnRecords (n : Nat) (s : State) : (estimateNotice n s).fau.burns =
    modN s.fau.burns n (estimateBurn (boundDead .flow (some n) s) (engineRuns n s)) := by
  unfold estimateNotice
  dsimp only
  split <;> rfl

theorem noticeEngine_stays {n m : Nat} (h : m ≠ n) (s : State) : BurnStays m s (noticeEngine n s) := by
  have hblocks := estimateNotice_blocks n (recompute s)
  obtain ⟨-, -, -, hpgu, -⟩ := hblocks
  refine ⟨noticeEngine_gear n s m, hpgu.trans (recompute_told s).pgu, ?_⟩
  show getN (estimateNotice n (recompute s)).fau.burns m = _
  rw [estimateNotice_burnRecords, getN_modN_ne (Ne.symm h), (recompute_told s).fau]

theorem bandReport_stays {n m : Nat} (h : m ≠ n) (b : Band) (s : State) : BurnStays m s (bandReport n b s) := by
  cases hr : getN s.sfc n with
  | none =>
    have hsame : bandReport n b s = s := by simp only [bandReport, hr]
    rw [hsame]
    exact .refl m s
  | some r =>
    cases hc : getN s.cfg.shafts n with
    | none =>
      have hsame : bandReport n b s = s := by simp only [bandReport, hr, hc]
      rw [hsame]
      exact .refl m s
    | some c =>
      have hgear := bandReport_others h b s
      obtain ⟨-, -, heq⟩ | ⟨-, -, heq⟩ | ⟨-, heq⟩ := bandReport_cases (b := b) hr hc
      · have htold := actShaft_told n (haltEngine s.now c .fuelOut) s
        have hstays := noticeEngine_stays h (actShaft n (haltEngine s.now c .fuelOut) s)
        rw [heq] at hgear ⊢
        exact ⟨hgear, hstays.pgu.trans htold.pgu, hstays.burn.trans (by rw [htold.fau])⟩
      · have hstays := noticeEngine_stays h (modShaft n (fun q => { q with engine := .stopped }) s)
        rw [heq] at hgear ⊢
        exact ⟨hgear, hstays.pgu, hstays.burn⟩
      · rw [heq]
        exact .refl m s

section
variable {n : Nat} {c : ShaftCfg} {band : Band} {e : Engine} {a : Option Nat} {b : Burn} {s : State}
variable (he : e = .running ∨ e = .limited)
include he

/-- The engine's own report. -/
theorem bandReport_watched (h : BurnWatched n c band e a b s) : BurnWatched n c band e a b (bandReport n band s) := by
  obtain ⟨hc, hd, x, hx, hat, hcases⟩ := id h
  obtain ⟨hb, hengine, heq⟩ | ⟨hb, hengine, heq⟩ | ⟨-, heq⟩ := bandReport_cases (b := band) hx hc
  · subst hb
    obtain ⟨y, hy, htaken⟩ := bandReport_takes (b := .cutoff) hx hc
    obtain ⟨hout, -⟩ := htaken.out rfl hengine
    have hreacts := bandReport_reacts n .cutoff s
    have htold := (actShaft_told n (haltEngine s.now c .fuelOut) s).trans (recompute_told _)
    have hburn : getN s.fau.burns n = some b := by
      obtain ⟨-, hburn⟩ | ⟨-, hfuelOut, -⟩ := hcases
      · exact hburn
      · exact absurd hfuelOut hengine
    have hpgu : (bandReport n .cutoff s).pgu = s.pgu := by
      rw [heq]
      exact (estimateNotice_blocks n _).2.2.2.1.trans htold.pgu
    refine ⟨by rw [hreacts.cfg]; exact hc, (boundDead_congr hreacts.cfg hpgu).trans hd, y, hy, htaken.stepAt.trans hat,
      .inr ⟨rfl, hout, ?_⟩⟩
    have hsfc : (bandReport n .cutoff s).sfc = (recompute (actShaft n (haltEngine s.now c .fuelOut) s)).sfc := by
      rw [heq]
      exact (estimateNotice_blocks n _).1
    have hruns : engineRuns n (recompute (actShaft n (haltEngine s.now c .fuelOut) s)) = false := by
      rw [engineRuns, ← hsfc, hy]
      simp only [hout]
      rfl
    have hdead : boundDead .flow (some n) (recompute (actShaft n (haltEngine s.now c .fuelOut) s)) = true :=
      (boundDead_congr htold.cfg htold.pgu).trans hd
    rw [heq]
    show getN (estimateNotice n _).fau.burns n = _
    rw [estimateNotice_burnRecords, getN_modN_self, htold.fau, hburn, hruns, hdead]
    rfl
  · have hstill : x.engine = e := by
      obtain ⟨hstill, -⟩ | ⟨hcut, -⟩ := hcases
      · exact hstill
      · cases hb.symm.trans hcut
    rw [hstill] at hengine
    subst hengine
    simp at he
  · rw [heq]
    exact h

/-- The report to every controller. -/
theorem reportBand_watched (h : BurnWatched n c band e a b s) (m : Nat) : BurnWatched n c band e a b (reportBand m band s) := by
  have hvisit (t : State) (i : Nat) (ht : BurnWatched n c band e a b t) : BurnWatched n c band e a b (reportTo m band t i) := by
    unfold reportTo
    split
    · split
      · by_cases hi : i = n
        · subst hi
          exact bandReport_watched he ht
        · exact (bandReport_stays (Ne.symm hi) band t).watched ht
      · exact ht
    · exact ht
  rw [reportBand_eq]
  exact List.foldlRecOn (motive := BurnWatched n c band e a b) _ _ h fun t ht i _ => hvisit t i ht

/-- A booking leaves an estimated burn and its engine, or ends the estimating with the engine in FUEL_OUT. -/
theorem consequences_watched (m : Nat) (hc : getN s.cfg.shafts n = some c) (hd : boundDead .flow (some n) s = true) {x : Shaft}
    (hx : getN s.sfc n = some x) (hengine : x.engine = e) (hb : getN s.fau.burns n = some b) :
    ∃ y, getN (consequences m s).sfc n = some y ∧ y.stepAt = x.stepAt ∧
      ((y.engine = e ∧ getN (consequences m s).fau.burns n = some b) ∨
        (y.engine = .fuelOut ∧
          getN (consequences m s).fau.burns n = some { b with estimating := false, lastRate := 0 })) := by
  have hbefore (band : Band) : BurnWatched n c band e x.stepAt b s := ⟨hc, hd, x, hx, rfl, .inl ⟨hengine, hb⟩⟩
  have hband : ∃ band, BurnWatched n c band e x.stepAt b (bandStep m s) := by
    unfold bandStep
    split
    next ct k _ _ =>
      dsimp only
      split
      · exact ⟨.normal, hbefore .normal⟩
      · refine ⟨bandOf ct (contentOf ct k), (BurnStays.ofTold (recompute_told _) (recompute_gear _ n)).watched
          (reportBand_watched he ?_ m)⟩
        split
        · exact hbefore _
        · exact hbefore _
    · exact ⟨.normal, hbefore .normal⟩
  have hweight : BurnStays n (bandStep m s) (weightStep (bandStep m s)) := by
    refine ⟨weightStep_gear _ n, (weightStep_burns _).pgu, ?_⟩
    obtain ⟨-, h⟩ | h := weightStep_cases (bandStep m s)
    · rw [h]
      rfl
    · rw [h, (recompute_told _).fau]
      rfl
  have hmoves := consequences_movements m s
  have hrest : BurnStays n (weightStep (bandStep m s)) (consequences m s) :=
    ⟨.same hmoves.cfg hmoves.clock (by rw [hmoves.sfc]), hmoves.pgu, by rw [hmoves.burns]⟩
  obtain ⟨band, hwatched⟩ := hband
  obtain ⟨-, -, y, hy, hat, hcases⟩ := (hweight.trans hrest).watched hwatched
  exact ⟨y, hy, hat, hcases.imp_right fun h => h.2⟩

end

/-! ## The control step (R47) -/

theorem exec_controlStep {t n : Nat} {s : State} {r : Shaft} {c : ShaftCfg} (hr : getN s.sfc n = some r)
    (hc : getN s.cfg.shafts n = some c) : exec (.controlStep t n) s = .next
      (if due (max s.clock t / 1000) r.stepAt then burnHandOn n (rampStep n c r (setClock t s)) else setClock t s) := by
  show execControlStep t n s = _
  simp only [execControlStep, setClock_sfc, setClock_cfg, hr, hc]
  split
  next h => exact congrArg Host.Outcome.next (if_pos h).symm
  next h => exact congrArg Host.Outcome.next (if_neg h).symm

/-- Nothing is handed on while the burn is not estimated, or the engine does not turn (R119). -/
theorem burnHandOn_none {n : Nat} {s : State} {r : Shaft} (hr : getN s.sfc n = some r)
    (h : ∀ b, getN s.fau.burns n = some b → b.estimating = false ∨ (r.engine ≠ .running ∧ r.engine ≠ .limited)) :
    burnHandOn n s = s := by
  unfold burnHandOn
  split
  next c r' b _ hr' hb =>
    obtain rfl := Option.some.inj (hr.symm.trans hr')
    refine if_neg ?_
    rw [Bool.and_eq_true, engineTurns_iff]
    rintro ⟨hest, hturns⟩
    obtain h | ⟨h1, h2⟩ := h b hb
    · simp [h] at hest
    · exact hturns.elim h1 h2
  · rfl

theorem burnHandOn_estimated {n : Nat} {s : State} {r : Shaft} {c : ShaftCfg} {b : Burn} (hr : getN s.sfc n = some r)
    (hc : getN s.cfg.shafts n = some c) (hb : getN s.fau.burns n = some b) (hest : b.estimating = true)
    (hturns : r.engine = .running ∨ r.engine = .limited) : burnHandOn n s =
      bookBurn n (r.p * c.specific * s.cfg.controlStep / 3600) c true (setRate n (r.p * c.specific / 100) s) := by
  simp only [burnHandOn, hr, hc, hb, hest, (engineTurns_iff _).2 hturns, Bool.and_self, if_true]

/-- Settles O44: the ramp, and the burn handed on. -/
theorem controlStepRamps : Obligations.ControlStepRamps := by
  intro t n s r c hr hc
  have hexec := exec_controlStep (t := t) hr hc
  refine ⟨fun e hat hdue hp hnone => ?_, ?_, fun hnot => ?_⟩
  · obtain ⟨hemergency, hramp, hrpm, hduty, hstep, hsettled, heq⟩ := stepShaft_eq (setClock t s) c r
    obtain ⟨q, hq, hqe, hother, hlines, hsteering, hframe⟩ := rampStep_shaft (s := setClock t s) (c := c) hr hp
    have hstays : burnHandOn n (rampStep n c r (setClock t s)) = rampStep n c r (setClock t s) :=
      burnHandOn_none hq fun b hb => by
        rw [hframe] at hb
        have hengine : q.engine = r.engine := by rw [hqe, heq]
        rw [hengine]
        exact hnone b hb
    rw [hat, if_pos (due_some.2 hdue), hstays] at hexec
    have hpq : q.p = (stepShaft (setClock t s) c r).p := by rw [hqe]
    have hcq : q.commanded = (stepShaft (setClock t s) c r).commanded := by rw [hqe]
    have hdirq : q.dir = (stepShaft (setClock t s) c r).dir := by rw [hqe]
    refine ⟨_, q, hexec, hq, ?_, by rw [hcq, hpq, hrpm], by rw [hcq, ← hduty, hqe], ?_, ?_, hlines, hsteering, ?_, hother⟩
    · intro emergency up down
      exact ⟨by rw [hqe]; exact hemergency, hpq.trans hramp⟩
    · rw [hqe]
      exact hstep.trans (congrArg (restartTimer _) hat)
    · rw [hqe]
      exact hsettled
    · rw [hqe, heq]
  · intro e b k hat hdue hp hb hest hd hturns hk hquantum up down p v ml size hlow hhigh
    obtain ⟨hemergency, hramp, -, -, hstep, -, heq⟩ := stepShaft_eq (setClock t s) c r
    obtain ⟨w, hw, hwe, -, -, -, hframe⟩ := rampStep_shaft (s := setClock t s) (c := c) hr hp
    have hturning : engineTurns r.engine = true := (engineTurns_iff _).2 hturns
    have hnow : emergencyNow (setClock t s) r = decide (s.cpc.parted = true ∨ s.svp.mode = .silent) := by
      simp [emergencyNow, hturning] <;> rfl
    have hwp : w.p = p := by
      rw [hnow] at hramp
      simp only [decide_eq_true_eq] at hramp
      rw [hwe]
      exact hramp
    have hwengine : w.engine = r.engine := by rw [hwe, heq]
    have hwstep : w.stepAt = some (e + s.cfg.controlStep) := by
      rw [hwe]
      exact hstep.trans (congrArg (restartTimer _) hat)
    have hwcfg : (rampStep n c r (setClock t s)).cfg = s.cfg := by rw [hframe]; rfl
    have hwpgu : (rampStep n c r (setClock t s)).pgu = s.pgu := by rw [hframe]; rfl
    have hwfau : (rampStep n c r (setClock t s)).fau = s.fau := by rw [hframe]; rfl
    have hhand := burnHandOn_estimated (c := c) hw (by rw [hwcfg]; exact hc) (by rw [hwfau]; exact hb) hest
      (by rw [hwengine]; exact hturns)
    rw [hat, if_pos (due_some.2 hdue), hhand, hwp, hwcfg] at hexec
    generalize rampStep n c r (setClock t s) = z at hw hwcfg hwpgu hwfau hexec
    have hbt : getN (setRate n (p * c.specific / 100) z).fau.burns n = some { b with lastRate := p * c.specific / 100 } := by
      refine (getN_modN_self ..).trans ?_
      rw [hwfau, hb]
      rfl
    have hkt : getN (setRate n (p * c.specific / 100) z).fau.tanks c.dayTank = some k := by
      show getN z.fau.tanks c.dayTank = some k
      rw [hwfau]
      exact hk
    have hlow' : -(2 ^ 47) ≤ k.raw + -(wholeMl b.residue v : Int) := by
      rw [← sub_eq_add_neg]
      exact hlow
    generalize hb' : ({ b with lastRate := p * c.specific / 100 } : Burn) = b' at hbt
    have hresidue' : b'.residue = b.residue := by rw [← hb']
    rw [← hresidue'] at hlow'
    have hdrawn : getN (burnDrawn n v c b' (setRate n (p * c.specific / 100) z)).fau.burns n =
        some { b' with residue := leftover b'.residue v } := (getN_modN_self ..).trans (congrArg (Option.map _) hbt)
    obtain ⟨y, hy, hyat, hcases⟩ := consequences_watched (e := r.engine) (c := c) hturns c.dayTank
      (s := burnDrawn n v c b' (setRate n (p * c.specific / 100) z)) (x := w) (by show getN z.cfg.shafts n = _; rw [hwcfg]; exact hc)
      ((boundDead_congr (s := s) hwcfg hwpgu).trans hd) hw hwengine hdrawn
    have hx : ∃ x, getN (burnTaken n v c b' (setRate n (p * c.specific / 100) z)).fau.burns n = some x ∧
        ((y.engine = r.engine ∧ x.lastRate = b'.lastRate ∧ x.estimating = b'.estimating) ∨
          (y.engine = .fuelOut ∧ x.lastRate = 0 ∧ x.estimating = false)) := by
      obtain ⟨h1, h2⟩ | ⟨h1, h2⟩ := hcases
      · exact ⟨_, h2, .inl ⟨h1, rfl, rfl⟩⟩
      · exact ⟨_, h2, .inr ⟨h1, rfl, rfl⟩⟩
    obtain ⟨x, hx, hends⟩ := hx
    obtain ⟨q, k', hq, hk', hresidue, hsince, hestimated, hlast, hestimating, hraw⟩ :=
      bookBurn_amounts (isEstimate := true) hbt hkt hx hlow' hhigh
    have hsfc : (bookBurn n v c true (setRate n (p * c.specific / 100) z)).sfc =
        (consequences c.dayTank (burnDrawn n v c b' (setRate n (p * c.specific / 100) z))).sfc := by
      rw [bookBurn_frame v true hbt]
    subst hb'
    refine ⟨_, y, q, k', hexec, by rw [hsfc]; exact hy, hq, hk', hyat.trans hwstep, hraw.trans (sub_eq_add_neg _ _).symm,
      hresidue, hsince, hestimated, fun hne => ?_, fun hout => ?_⟩
    · obtain ⟨h1, h2, h3⟩ | ⟨h1, -⟩ := hends
      · exact ⟨h1, hlast.trans h2, hestimating.trans (h3.trans hest)⟩
      · exact absurd h1 hne
    · obtain ⟨h1, -⟩ | ⟨-, h2, h3⟩ := hends
      · rw [h1] at hout
        rcases hturns with h | h <;> cases h.symm.trans hout
      · exact ⟨hlast.trans h2, hestimating.trans h3⟩
  · rw [hexec, if_neg (by simp [hnot])]

end Sys2Proof.Machine
end

section
/-!
SUPPORT. A winch changed and its change settled: with or without a pull-off that completes by it (R91, R93 to R97, R100).
-/

namespace Sys2Proof.Machine

/-! ## One winch changed -/

/-- From `s` to `a` winch `n` has gone from `w` to `q` with its lines. -/
structure WinchIs (n : Nat) (w q : Winch) (s a : State) : Prop where
  reacts : Reacts s a
  winch : getN a.cpc.winches n = some q
  valves : ValvesSet n (haulDuty q) (payoutDuty q) w q s a

/-- From `s` to `a` winch `n` has gone from `w` to `q` with its lines, and the couplings have changed in nothing else. -/
structure WinchStep (n : Nat) (w q : Winch) (s a : State) : Prop extends WinchIs n w q s a where
  cpc : a.cpc = { s.cpc with winches := a.cpc.winches }
  others : ∀ m, m ≠ n → getN a.cpc.winches m = getN s.cpc.winches m

theorem modN_modN {α : Type} (l : List α) (n : Nat) (f g : α → α) : modN (modN l n g) n f = modN l n fun x => f (g x) := by
  cases n with
  | zero => rfl
  | succ i =>
    show changeAt f i (changeAt g i l) = changeAt (fun x => f (g x)) i l
    rw [changeAt_eq_modify, changeAt_eq_modify, changeAt_eq_modify, List.modify_modify_eq]
    rfl

theorem changeWinch_modWinch (n : Nat) (f g : Winch → Winch) (s : State) :
    changeWinch n f (modWinch n g s) = changeWinch n (fun w => f (g w)) s := by
  have hmod : modWinch n f (modWinch n g s) = modWinch n (fun w => f (g w)) s := by
    simp only [modWinch, modN_modN]
  rw [changeWinch, hmod, changeWinch]

/-- The record that a change `f` leaves, its lines noted as written. -/
def withLines (w : Winch) : Winch := { w with haulWritten := some (haulDuty w), payoutWritten := some (payoutDuty w) }

theorem haulDuty_withLines (w : Winch) : haulDuty (withLines w) = haulDuty w := rfl

theorem payoutDuty_withLines (w : Winch) : payoutDuty (withLines w) = payoutDuty w := rfl

theorem changeWinch_step {n : Nat} {s : State} {w : Winch} (f : Winch → Winch) (hw : getN s.cpc.winches n = some w)
    (hh : (f w).haulWritten = w.haulWritten) (hp : (f w).payoutWritten = w.payoutWritten)
    (hr : ∀ x, (f x).state = .releasing → x.state = .releasing) : WinchStep n w (withLines (f w)) s (changeWinch n f s) := by
  obtain ⟨q, hq, heq, hset⟩ := changeWinch_set f hw hh hp
  obtain ⟨honly, -⟩ := changeWinch_only_winches n f s
  have hqe : q = withLines (f w) := heq
  subst hqe
  exact ⟨⟨changeWinch_reacts n f hr s, hq, hset⟩, by rw [honly], fun m hm => changeWinch_other hm f s⟩

/-- A change of other blocks after that of the winch. -/
theorem WinchIs.then {n : Nat} {w q : Winch} {s a b : State} (h : WinchIs n w q s a) (hr : Reacts a b)
    (hwinches : b.cpc.winches = a.cpc.winches) (hdlu : b.dlu = a.dlu) : WinchIs n w q s b := by
  have hsame : OnlyLines (fun _ => False) a b := .same hr.cfg hdlu
  exact ⟨h.reacts.trans hr, by rw [hwinches]; exact h.winch,
    h.valves.between (P := fun _ => False) (fun _ _ => id) (.refl s) hsame h.reacts.cfg⟩

theorem WinchStep.then {n : Nat} {w q : Winch} {s a b : State} (h : WinchStep n w q s a) (hr : Reacts a b) (hcpc : b.cpc = a.cpc)
    (hdlu : b.dlu = a.dlu) : WinchStep n w q s b :=
  ⟨h.toWinchIs.then hr (by rw [hcpc]) hdlu, by rw [hcpc, ← h.cpc], fun m hm => by rw [hcpc]; exact h.others m hm⟩

/-! ## What is settled after it -/

theorem ofWinch_not_ofShaft {n : Nat} {a : Assignment} (h : ofWinch n a) : ¬∃ m, ofShaft m a := by
  rintro ⟨m, hm⟩
  exact ofShaft_not_ofWinch hm ⟨n, h⟩

/-- A winch that has no configuration is not released. -/
theorem released_unconfigured {s : State} {n : Nat} (hc : getN s.cfg.winches n = none) :
    getN (released s).cpc.winches n = getN s.cpc.winches n ∧ OnlyLines (fun x => ¬ofWinch n x) s (released s) := by
  have hvisit (t : State) (ht : t.cfg = s.cfg) (m : Nat) : WinchKept n t (releaseOne t m) := by
    by_cases hm : m = n
    · subst hm
      have hsame : releaseOne t m = t := by simp only [releaseOne, ht, hc]
      rw [hsame]
      exact .refl m t
    · exact releaseOne_keeps hm t
  have hpush : (pushMakeUp s).cfg = s.cfg := by rw [pushMakeUp_eq]
  have hall : (numbers s.cpc.winches.length).foldl releaseOne (pushMakeUp s) |> fun t =>
      t.cfg = s.cfg ∧ WinchKept n (pushMakeUp s) t := by
    refine List.foldlRecOn (motive := fun t => t.cfg = s.cfg ∧ WinchKept n (pushMakeUp s) t) _ _ ⟨hpush, .refl n _⟩ ?_
    rintro t ⟨hcfg, hkept⟩ m -
    have hone := hvisit t hcfg m
    exact ⟨hone.2.2.told.cfg.trans hcfg, hkept.trans hone⟩
  obtain ⟨-, hget, hlines, -⟩ := hall
  have hsame : OnlyLines (fun x => ¬ofWinch n x) s (pushMakeUp s) := .same hpush (by rw [pushMakeUp_eq])
  refine ⟨hget.trans (by rw [pushMakeUp_eq]), (hsame.trans hlines).trans (.same rfl rfl)⟩

/-- The couplings are kept: the winch stands as it was left, and the rest of them too. -/
theorem WinchStep.kept {n : Nat} {w q : Winch} {s a u : State} (h : WinchStep n w q s a) (k : CouplingsKept a u) : getN u.cpc.winches n = some q ∧
    (∀ m, m ≠ n → getN u.cpc.winches m = getN s.cpc.winches m) ∧
    u.cpc = { s.cpc with winches := u.cpc.winches, summary := u.cpc.summary, fCpl := u.cpc.fCpl } ∧
    Valves n (haulDuty q) (payoutDuty q) w q s u := by
  obtain ⟨hcpc, hlines⟩ := k
  have hwinches : u.cpc.winches = a.cpc.winches := by rw [hcpc]
  refine ⟨by rw [hwinches]; exact h.winch, fun m hm => by rw [hwinches]; exact h.others m hm, ?_, ?_⟩
  · rw [hcpc, h.cpc]
  · exact (h.valves.between (fun _ => ofWinch_not_ofShaft) (.refl s) hlines h.reacts.cfg).1

namespace WinchIs

variable {n : Nat} {w q : Winch} {s a u : State}

/-- The couplings are kept. -/
theorem kept (h : WinchIs n w q s a) (k : CouplingsKept a u) : getN u.cpc.winches n = some q ∧
    Valves n (haulDuty q) (payoutDuty q) w q s u := by
  obtain ⟨hcpc, hlines⟩ := k
  have hwinches : u.cpc.winches = a.cpc.winches := by rw [hcpc]
  exact ⟨by rw [hwinches]; exact h.winch, (h.valves.between (fun _ => ofWinch_not_ofShaft) (.refl s) hlines h.reacts.cfg).1⟩

/-- The pull-off completes: a winch that has not changed in it. -/
theorem completed_other (h : WinchIs n w q s a) (k : Completes a u) (hfast : winchFast q = false)
    (hnoted : q = withLines q) : u.cpc.pullOff = none ∧ u.cpc.outcome = .released ∧ getN u.cpc.winches n = some q ∧
      Valves n (haulDuty q) (payoutDuty q) w q s u := by
  obtain ⟨-, b, htold, hbefore, -, hafter⟩ := k
  obtain ⟨hcpc, hlines⟩ := hbefore
  obtain ⟨kcpc, klines⟩ := hafter
  have hb : getN b.cpc.winches n = some q := by rw [hcpc]; exact h.winch
  have hwinches : u.cpc.winches = (released b).cpc.winches := by rw [kcpc]
  have hreleased : (released b).cpc.pullOff = none ∧ (released b).cpc.outcome = .released := by
    rw [released_eq]
    exact ⟨rfl, rfl⟩
  obtain ⟨hpull, hout⟩ := hreleased
  refine ⟨by rw [kcpc]; exact hpull, by rw [kcpc]; exact hout, ?_⟩
  have hcfg : (released b).cfg = b.cfg := (released_told b).cfg
  cases hc : getN b.cfg.winches n with
  | some c =>
    obtain ⟨z, hz, heq, hset⟩ := released_winch hb hc
    have hsame : releaseWinch b.now c q = q := by simp [releaseWinch, hfast]
    rw [hsame] at heq
    obtain rfl : z = q := heq.trans hnoted.symm
    have hvalves := hset.between (fun _ => ofWinch_not_ofShaft) hlines klines hcfg
    exact ⟨by rw [hwinches]; exact hz, h.valves.1.then h.reacts hvalves⟩
  | none =>
    obtain ⟨hget, hrest⟩ := released_unconfigured hc
    have hall := (hlines.mono (Q := fun x => ¬ofWinch n x) fun x hx hn => ofWinch_not_ofShaft hn hx).trans
      (hrest.trans (klines.mono fun x hx hn => ofWinch_not_ofShaft hn hx))
    refine ⟨by rw [hwinches, hget]; exact hb, ?_⟩
    exact (h.valves.between (fun _ hx => not_not_intro hx) (.refl s) hall h.reacts.cfg).1

/-- The pull-off completes: the winch is released where it is fast. -/
theorem completed (h : WinchIs n w q s a) (k : Completes a u) {c : WinchCfg} (hc : getN s.cfg.winches n = some c) :
    u.cpc.pullOff = none ∧ u.cpc.outcome = .released ∧
      getN u.cpc.winches n = some (withLines (releaseWinch s.now c q)) ∧
      Valves n (haulDuty (releaseWinch s.now c q)) (payoutDuty (releaseWinch s.now c q)) w
        (withLines (releaseWinch s.now c q)) s u := by
  obtain ⟨-, b, htold, hbefore, -, hafter⟩ := k
  obtain ⟨hcpc, hlines⟩ := hbefore
  obtain ⟨kcpc, klines⟩ := hafter
  have hb : getN b.cpc.winches n = some q := by rw [hcpc]; exact h.winch
  have hcb : getN b.cfg.winches n = some c := by rw [htold.cfg, h.reacts.cfg]; exact hc
  have hnow : b.now = s.now := by rw [State.now, htold.clock, h.reacts.clock, State.now]
  have hwinches : u.cpc.winches = (released b).cpc.winches := by rw [kcpc]
  have hreleased : (released b).cpc.pullOff = none ∧ (released b).cpc.outcome = .released := by
    rw [released_eq]
    exact ⟨rfl, rfl⟩
  obtain ⟨hpull, hout⟩ := hreleased
  obtain ⟨z, hz, heq, hset⟩ := released_winch hb hcb
  rw [hnow] at heq
  have hze : z = withLines (releaseWinch s.now c q) := heq
  subst hze
  have hvalves := hset.between (fun _ => ofWinch_not_ofShaft) hlines klines (released_told b).cfg
  exact ⟨by rw [kcpc]; exact hpull, by rw [kcpc]; exact hout, by rw [hwinches]; exact hz, h.valves.1.then h.reacts hvalves⟩

/-- The couplings are kept, or the pull-off completes: a winch that is not fast stands as it was left. -/
theorem settled (h : WinchIs n w q s a) (k : CouplingsFollow a u) (hfast : winchFast q = false) (hnoted : q = withLines q) :
    getN u.cpc.winches n = some q ∧ Valves n (haulDuty q) (payoutDuty q) w q s u := by
  obtain k | k := k
  · exact h.kept k
  · exact (h.completed_other k hfast hnoted).2.2

/-- In any case a winch keeps its state or is RELEASING. -/
theorem settled_state (h : WinchIs n w q s a) (k : CouplingsFollow a u) (hnoted : q = withLines q) :
    ∃ z, getN u.cpc.winches n = some z ∧ (z.state = q.state ∨ z.state = .releasing) := by
  by_cases hfast : winchFast q = false
  · exact ⟨q, (h.settled k hfast hnoted).1, .inl rfl⟩
  · obtain k | k := k
    · exact ⟨q, (h.kept k).1, .inl rfl⟩
    · cases hc : getN s.cfg.winches n with
      | some c =>
        refine ⟨_, (h.completed k hc).2.2.1, .inr ?_⟩
        simp only [Bool.not_eq_false] at hfast
        simp only [withLines, releaseWinch, hfast, if_true]
        split <;> rfl
      | none =>
        obtain ⟨-, b, htold, ⟨hcpc, -⟩, -, kcpc, -⟩ := k
        have hb : getN b.cpc.winches n = some q := by rw [hcpc]; exact h.winch
        have hcb : getN b.cfg.winches n = none := by rw [htold.cfg, h.reacts.cfg]; exact hc
        have hwinches : u.cpc.winches = (released b).cpc.winches := by rw [kcpc]
        exact ⟨q, by rw [hwinches, (released_unconfigured hcb).1]; exact hb, .inl rfl⟩

end WinchIs

end Sys2Proof.Machine
end

section
/-!
PROOFS. Load results and the DEAD notice of a load channel (O48).
-/

namespace Sys2Proof.Machine

/-! ## Settled couplings (R95 to R97) -/

theorem settle_coupling (parted : Bool) (s : State) : CouplingInForce (settle parted s) :=
  (settleWith_coupling (s := s) recompute_recomputes parted).inForce

theorem settle_follows (parted : Bool) (s : State) : CouplingsFollow s (settle parted s) :=
  settleWith_couplings recompute_recomputes parted

theorem Completes.outcome {s u : State} (h : Completes s u) : u.cpc.pullOff = none ∧ u.cpc.outcome = .released := by
  obtain ⟨-, b, -, -, -, hcpc, -⟩ := h
  have hreleased : (released b).cpc.pullOff = none ∧ (released b).cpc.outcome = .released := by
    rw [released_eq]
    exact ⟨rfl, rfl⟩
  obtain ⟨hpull, hout⟩ := hreleased
  exact ⟨by rw [hcpc]; exact hpull, by rw [hcpc]; exact hout⟩

/-- A pull-off that is still there has not completed. -/
theorem CouplingsFollow.stays {s u : State} (h : CouplingsFollow s u)
    (hp : s.cpc.pullOff.isSome = true → u.cpc.pullOff.isSome = true) : CouplingsKept s u := by
  obtain h | h := h
  · exact h
  · have hsome := hp h.1
    rw [h.outcome.1] at hsome
    cases hsome

/-- A pull-off that has gone has completed. -/
theorem CouplingsFollow.gone {s u : State} (h : CouplingsFollow s u) (hp : s.cpc.pullOff.isSome = true)
    (hu : u.cpc.pullOff = none) : Completes s u := by
  obtain ⟨hcpc, -⟩ | h := h
  · rw [hcpc] at hu
    rw [show s.cpc.pullOff = none from hu] at hp
    cases hp
  · exact h

theorem Valves.duties {n h p h' p' : Nat} {w q : Winch} {s u : State} (hv : Valves n h p w q s u) (hh : h = h') (hp : p = p') :
    Valves n h' p' w q s u := by
  subst hh hp
  exact hv

/-! ## What a load result makes of its winch (R84, R88 to R93) -/

theorem enterHeld_eq (st : WinchState) (w : Winch) : enterHeld st w = { w with state := st, pulse := false, timerAt := none } := rfl

theorem judgeLoad_eq (now : Nat) (c : WinchCfg) (x : Nat) (w : Winch) : judgeLoad now c x w = { w with
    state := (judgeLoad now c x w).state, pulse := (judgeLoad now c x w).pulse, phase := (judgeLoad now c x w).phase
    timerAt := (judgeLoad now c x w).timerAt } := by
  unfold judgeLoad
  cases w.state
  · rfl
  · dsimp only
    split
    · rfl
    · split <;> rfl
  · dsimp only
    split
    · rfl
    · split <;> rfl
  · dsimp only
    split <;> rfl
  · dsimp only
    split <;> rfl
  · rfl

theorem judgeLoad_releasing {now : Nat} {c : WinchCfg} {x : Nat} {w : Winch} (h : (judgeLoad now c x w).state = .releasing) :
    w.state = .releasing := by
  cases hw : w.state with
  | releasing => rfl
  | slack => simp [judgeLoad, hw] at h
  | parted => simp [judgeLoad, hw] at h
  | hauling =>
    by_cases h1 : c.tRender ≤ x <;> by_cases h2 : c.tMake ≤ x <;> simp [judgeLoad, hw, enterHeld_eq, h1, h2] at h
  | made =>
    by_cases h1 : c.tRender ≤ x <;> by_cases h2 : x < c.tLo ∧ w.pulse = false <;>
      simp [judgeLoad, hw, enterHeld_eq, h1, h2] at h
  | rendering => by_cases h1 : x < c.tHi <;> simp [judgeLoad, hw, enterHeld_eq, h1] at h

section
variable {now : Nat} {c : WinchCfg} {x : Nat} {y : Winch}

theorem judge_hauling (h : y.state = .hauling) : (c.tRender ≤ x → judgeLoad now c x y = enterHeld .rendering y) ∧
    (x < c.tRender → c.tMake ≤ x → judgeLoad now c x y = enterHeld .made y) ∧
    (x < c.tRender → x < c.tMake → judgeLoad now c x y = y) := by
  simp only [judgeLoad, h]
  exact ⟨fun h1 => if_pos h1, fun h1 h2 => (if_neg (Nat.not_le.2 h1)).trans (if_pos h2),
    fun h1 h2 => (if_neg (Nat.not_le.2 h1)).trans (if_neg (Nat.not_le.2 h2))⟩

theorem judge_made (h : y.state = .made) : (c.tRender ≤ x → judgeLoad now c x y = enterHeld .rendering y) ∧
    (x < c.tRender → x < c.tLo → y.pulse = false →
      judgeLoad now c x y = { y with pulse := true, timerAt := some (now + c.haulPulse) }) ∧
    (x < c.tRender → (c.tLo ≤ x ∨ y.pulse = true) → judgeLoad now c x y = y) := by
  simp only [judgeLoad, h]
  refine ⟨fun h1 => if_pos h1, fun h1 h2 h3 => (if_neg (Nat.not_le.2 h1)).trans (if_pos ⟨h2, h3⟩),
    fun h1 h2 => (if_neg (Nat.not_le.2 h1)).trans (if_neg ?_)⟩
  rintro ⟨h3, h4⟩
  rcases h2 with h2 | h2
  · exact absurd h3 (Nat.not_lt.2 h2)
  · cases h4.symm.trans h2

theorem judge_rendering (h : y.state = .rendering) : (x < c.tHi → judgeLoad now c x y = enterHeld .made y) ∧
    (c.tHi ≤ x → judgeLoad now c x y = y) := by
  simp only [judgeLoad, h]
  exact ⟨fun h1 => if_pos h1, fun h1 => if_neg (Nat.not_lt.2 h1)⟩

theorem judge_releasing (h : y.state = .releasing) :
    (y.phase = some .payingOut → x < c.tSlack → judgeLoad now c x y = enterHolding now c y) ∧
    ((y.phase ≠ some .payingOut ∨ c.tSlack ≤ x) → judgeLoad now c x y = y) := by
  simp only [judgeLoad, h]
  refine ⟨fun h1 h2 => if_pos ⟨h1, h2⟩, fun h1 => if_neg ?_⟩
  rintro ⟨h2, h3⟩
  exact h1.elim (fun h => h h2) fun h => absurd h3 (Nat.not_lt.2 h)

theorem judge_idle (h : y.state = .slack ∨ y.state = .parted) : judgeLoad now c x y = y := by
  rcases h with h | h <;> simp only [judgeLoad, h]

end

/-- A fast winch is judged to be fast. -/
theorem judgeLoad_fast {now : Nat} {c : WinchCfg} {x : Nat} {w : Winch} (h : w.state = .made ∨ w.state = .rendering) :
    winchFast (judgeLoad now c x w) = true := by
  unfold judgeLoad
  rcases h with h | h <;> simp only [h]
  · split
    · rfl
    · split <;> simp [winchFast, h]
  · split <;> simp [winchFast, enterHeld_eq, h]

section
variable {n count elapsed : Nat} {s : State} {w : Winch} {c : WinchCfg}
variable (hw : getN s.cpc.winches n = some w) (hc : getN s.cfg.winches n = some c)
include hw hc

/-- A load result that parts no wire. -/
theorem loadResult_judged
    (h : marksParted c (tensionOf c (loadFrequency count elapsed))
      (storeTension (tensionOf c (loadFrequency count elapsed)) w) = false) : loadResult n count elapsed s =
      settle false (changeWinch n (fun y => judgeLoad s.now c (tensionOf c (loadFrequency count elapsed))
        (storeTension (tensionOf c (loadFrequency count elapsed)) y)) s) := by
  have heq : loadResult n count elapsed s = settle false (changeWinch n
      (judgeLoad s.now c (tensionOf c (loadFrequency count elapsed)))
      (modWinch n (storeTension (tensionOf c (loadFrequency count elapsed))) s)) := by
    simp only [loadResult, hw, hc, h]
    rfl
  rw [heq, changeWinch_modWinch]

theorem loadResult_parts
    (h : marksParted c (tensionOf c (loadFrequency count elapsed))
      (storeTension (tensionOf c (loadFrequency count elapsed)) w) = true) : loadResult n count elapsed s =
      partedHandling n (modWinch n (storeTension (tensionOf c (loadFrequency count elapsed))) s) := by
  simp only [loadResult, hw, hc, h, if_true]

omit hc in
/-- The winch as judged. -/
theorem judged_step (x : Nat) : WinchStep n w (withLines (judgeLoad s.now c x (storeTension x w))) s
    (changeWinch n (fun y => judgeLoad s.now c x (storeTension x y)) s) := by
  refine changeWinch_step (fun y => judgeLoad s.now c x (storeTension x y)) hw ?_ ?_ fun y hy => ?_
  · rw [judgeLoad_eq]
    rfl
  · rw [judgeLoad_eq]
    rfl
  · exact judgeLoad_releasing (w := storeTension x y) hy

end

theorem marksParted_iff (c : WinchCfg) (x : Nat) (w : Winch) : marksParted c x (storeTension x w) = true ↔
    (w.state = .made ∨ w.state = .rendering) ∧ x < c.partFloor ∧ ∃ before, w.tension = some before ∧ c.partArm ≤ before := by
  have hfast : winchFast (storeTension x w) = decide (w.state = .made ∨ w.state = .rendering) := rfl
  have harmed : armed c (storeTension x w) = true ↔ ∃ before, w.tension = some before ∧ c.partArm ≤ before := by
    unfold armed
    have hprevious : (storeTension x w).previous = w.tension := rfl
    rw [hprevious]
    cases w.tension <;> simp
  rw [marksParted, Bool.and_eq_true, Bool.and_eq_true, harmed, hfast, decide_eq_true_eq, decide_eq_true_eq, and_assoc]

/-! ## Parted handling (R91) -/

/-- The couplings of a winch that parts, before they are settled. -/
def partingOf (n x : Nat) (s : State) : State :=
  let flagged := changeWinch n (fun w => partWinch (storeTension x w)) s
  endPullOff .parted (raiseFlag .parted { flagged with cpc := { flagged.cpc with parted := true } })

theorem partedHandling_eq (n x : Nat) (s : State) :
    partedHandling n (modWinch n (storeTension x) s) = settle (!s.cpc.parted) (partingOf n x s) := by
  rw [partedHandling, changeWinch_modWinch]
  rfl

theorem endPullOff_cpc (o : CouplingOutcome) (s : State) : (endPullOff o s).cpc.pullOff = none ∧
    (endPullOff o s).cpc.winches = s.cpc.winches ∧ (endPullOff o s).cpc.parted = s.cpc.parted ∧
    (endPullOff o s).cpc.summary = s.cpc.summary ∧
    (s.cpc.pullOff.isSome = true → (endPullOff o s).cpc.outcome = o ∧ (endPullOff o s).cpc.outcomeAt = s.stationTime) ∧
    (endPullOff o s).cpc.stack = s.cpc.stack ∧ endPullOff o s = { s with cpc := (endPullOff o s).cpc } := by
  unfold endPullOff
  split
  next h => exact ⟨rfl, rfl, rfl, rfl, fun _ => ⟨rfl, rfl⟩, rfl, rfl⟩
  next h => exact ⟨by simpa using h, rfl, rfl, rfl, fun hp => absurd hp h, rfl, rfl⟩

/-- What parting leaves (R91). -/
theorem parted_leaves {n x before : Nat} {s : State} {w : Winch} (hw : getN s.cpc.winches n = some w)
    (hbefore : w.tension = some before) {u : State} (hu : u = partedHandling n (modWinch n (storeTension x) s)) :
    ∃ q, getN u.cpc.winches n = some q ∧ q.state = .parted ∧ q.pulse = false ∧ q.timerAt = none ∧ q.tension = some x ∧
      q.previous = some before ∧ Valves n 0 0 w q s u ∧ u.cpc.parted = true ∧ flagSet .parted u = true ∧ u.cpc.pullOff = none ∧
      (s.cpc.pullOff.isSome = true → u.cpc.outcome = .parted) ∧ u.shu.contributing = false ∧ CouplingInForce u ∧
      (s.cpc.parted = false → (s.svp.mode = .joining ∨ s.svp.mode = .running) → u.lif.slotAlert = some (statusPayload u)) ∧
      ∀ m, m ≠ n → getN u.cpc.winches m = getN s.cpc.winches m := by
  have hstep := changeWinch_step (s := s) (fun y => partWinch (storeTension x y)) hw rfl rfl fun y hy => by cases hy
  generalize hflagged : changeWinch n (fun y => partWinch (storeTension x y)) s = v at hstep
  have hparting : partingOf n x s = endPullOff .parted (raiseFlag .parted { v with cpc := { v.cpc with parted := true } }) := by
    rw [← hflagged]
    rfl
  obtain ⟨hpull, hwinches, hparted, -, hout, -, hrest⟩ :=
    endPullOff_cpc .parted (raiseFlag .parted { v with cpc := { v.cpc with parted := true } })
  have hpullOff : v.cpc.pullOff = s.cpc.pullOff := by rw [hstep.cpc]
  rw [partedHandling_eq, hparting] at hu
  generalize endPullOff .parted (raiseFlag .parted { v with cpc := { v.cpc with parted := true } }) = a at *
  have hwinches' : a.cpc.winches = v.cpc.winches := hwinches
  have hlines : OnlyLines (fun _ => False) v a := .same (by rw [hrest]; rfl) (by rw [hrest]; rfl)
  obtain ⟨hcpc, hsettled⟩ := (settle_follows (!s.cpc.parted) a).withoutPullOff hpull
  rw [← hu] at hcpc hsettled
  have hu' : u.cpc.winches = v.cpc.winches := by rw [hcpc]; exact hwinches'
  have hupull : u.cpc.pullOff = none := by rw [hcpc]; exact hpull
  have huparted : u.cpc.parted = true := by rw [hcpc]; exact hparted
  have hall : OnlyLines (fun a => ∃ m, ofShaft m a) v u := (hlines.mono fun _ h => h.elim).trans hsettled
  have hvalves := hstep.valves.between (fun _ => ofWinch_not_ofShaft) (.refl s) hall hstep.reacts.cfg
  refine ⟨_, by rw [hu']; exact hstep.winch, rfl, rfl, rfl, rfl, hbefore, hvalves.1, huparted, ?_, hupull,
    fun hs => ?_, ?_, hu ▸ settle_coupling _ _, fun hnot hmode => ?_, fun m hm => by rw [hu']; exact hstep.others m hm⟩
  · have hflags : flagSet .parted u = flagSet .parted a := by
      rw [hu]
      exact settleWith_flags recompute_recomputes (s := a) (!s.cpc.parted) .parted nofun
    have hraised : flagSet .parted a = flagSet .parted (raiseFlag .parted { v with cpc := { v.cpc with parted := true } }) := by
      rw [hrest]
      rfl
    rw [hflags, hraised, flagSet_raiseFlag]
    simp
  · rw [hcpc]
    exact (hout (show v.cpc.pullOff.isSome = true by rw [hpullOff]; exact hs)).1
  · have hcontributes : ContributesInForce u := hu ▸ settleWith_contributes recompute_recomputes (s := a) (!s.cpc.parted)
    have hnow : contributingNow u = false := by simp [contributingNow, contributingConditions, huparted]
    exact hcontributes.trans hnow
  · have halerted : Alerted u := by
      rw [hu]
      exact settleWith_alerts recompute_recomputes (s := a) (!s.cpc.parted) (.inl (by simp [hnot]))
    have hsvp : a.svp.mode = v.svp.mode := by rw [hrest]; rfl
    have hmodes : u.svp.mode = s.svp.mode := by
      rw [hu, (settle_told _ a).mode, hsvp, hstep.reacts.mode]
    exact halerted (by rw [hmodes]; exact hmode)

/-! ## The DEAD notice (R85) -/

theorem unsense_eq (now : Nat) (c : WinchCfg) (w : Winch) : unsense now c w = { w with
    tension := none, previous := none, note := .unsensed, deadSeen := true, state := (unsense now c w).state
    pulse := (unsense now c w).pulse, phase := (unsense now c w).phase, timerAt := (unsense now c w).timerAt } := by
  unfold unsense
  cases w.state
  · rfl
  · rfl
  · rfl
  · rfl
  · dsimp only
    split <;> rfl
  · rfl

theorem unsense_releasing {now : Nat} {c : WinchCfg} {w : Winch} (h : (unsense now c w).state = .releasing) :
    w.state = .releasing := by
  cases hw : w.state with
  | releasing => rfl
  | slack => simp [unsense, hw] at h
  | parted => simp [unsense, hw] at h
  | hauling => simp [unsense, hw] at h
  | made => simp [unsense, hw] at h
  | rendering => simp [unsense, hw, enterHeld_eq] at h

theorem loadDead_first {n : Nat} {s : State} {w : Winch} {c : WinchCfg} (hw : getN s.cpc.winches n = some w)
    (hc : getN s.cfg.winches n = some c) (h : w.deadSeen = false ∨ w.tension ≠ none) :
    loadDead n s = settle false (raiseFlag .meterFault (changeWinch n (unsense s.now c) s)) := by
  have hfirst : ¬(w.deadSeen && w.tension.isNone) = true := by
    rw [Bool.and_eq_true, Option.isNone_iff_eq_none]
    rintro ⟨h1, h2⟩
    rcases h with h | h
    · cases h.symm.trans h1
    · exact h h2
  simp only [loadDead, hw, hc]
  exact if_neg hfirst

theorem unsensed_step {n : Nat} {s : State} {w : Winch} (c : WinchCfg) (hw : getN s.cpc.winches n = some w) :
    WinchStep n w (withLines (unsense s.now c w)) s (raiseFlag .meterFault (changeWinch n (unsense s.now c) s)) := by
  have hstep := changeWinch_step (unsense s.now c) hw (by rw [unsense_eq]) (by rw [unsense_eq]) fun y => unsense_releasing
  exact hstep.then (raiseFlag_reacts .meterFault _) rfl rfl

/-- Settles O48: the wire that parts, the DEAD notice, and the results judged by the state. -/
theorem loadResultParts : Obligations.LoadResultParts := by
  refine ⟨fun n count elapsed s w c before hw hc hstate hbefore harm hfloor => ?_, ?_, ?_⟩
  · have hmarks := (marksParted_iff c (tensionOf c (loadFrequency count elapsed)) w).2 ⟨hstate, hfloor, before, hbefore, harm⟩
    exact parted_leaves hw hbefore (loadResult_parts hw hc hmarks)
  · intro n s w c hw hc u
    refine ⟨fun h1 h2 => ?_, fun hfirst => ?_⟩
    · simp only [u, loadDead, hw, hc, h1, h2]
      rfl
    · have hu : u = settle false (raiseFlag .meterFault (changeWinch n (unsense s.now c) s)) := loadDead_first hw hc hfirst
      clear_value u
      have hstep := unsensed_step c hw
      have hflag : flagSet .meterFault (raiseFlag .meterFault (changeWinch n (unsense s.now c) s)) = true := by
        rw [flagSet_raiseFlag]
        simp
      generalize raiseFlag .meterFault (changeWinch n (unsense s.now c) s) = a at *
      have hfollows := settle_follows false a
      have hpull : a.cpc.pullOff = s.cpc.pullOff := by rw [hstep.cpc]
      rw [← hu] at hfollows
      refine ⟨?_, hu ▸ settle_coupling false a, hu ▸ (settle_summaryAlert a).since (by rw [hstep.cpc]), fun hp hnone => ?_, fun hp => ?_⟩
      · rw [hu, ← hflag]
        exact settleWith_flags recompute_recomputes (s := a) false .meterFault nofun
      · exact (hfollows.gone (by rw [hpull]; exact hp) hnone).outcome.2
      · obtain ⟨hq, hothers, hcpc, hvalves⟩ := hstep.kept (hfollows.stays (by rw [hpull]; exact hp))
        rw [haulDuty_withLines, payoutDuty_withLines] at hvalves
        refine ⟨_, hq, ?_, ?_, ?_, ?_, hothers, by rw [hcpc], by rw [hcpc], by rw [hcpc], fun hst => ?_, fun hst hph => ?_,
          fun hst => ?_⟩
        · rw [unsense_eq]
          rfl
        · rw [unsense_eq]
          rfl
        · rw [unsense_eq]
          rfl
        · rw [unsense_eq]
          rfl
        · have hun : unsense s.now c w = enterHeld .made { w with
              tension := none, previous := none, note := .unsensed, deadSeen := true } := by simp only [unsense, hst]
          rw [hun] at hvalves ⊢
          exact ⟨rfl, rfl, rfl, hvalves⟩
        · have hun : unsense s.now c w = enterHolding s.now c { w with
              tension := none, previous := none, note := .unsensed, deadSeen := true } := by
            simp only [unsense, hst, hph, if_true]
          rw [hun] at hvalves ⊢
          refine ⟨hst, rfl, rfl, hvalves.duties ?_ ?_⟩
          · simp [haulDuty, enterHolding, hst]
          · simp [payoutDuty, enterHolding, hst]
        · have hun : unsense s.now c w = { w with
              tension := none, previous := none, note := .unsensed, deadSeen := true } := by
            obtain ⟨hne, hnot⟩ := hst
            unfold unsense
            cases hs : w.state with
            | rendering => exact absurd hs hne
            | releasing => exact if_neg (hnot.resolve_left (not_not_intro hs))
            | slack => rfl
            | hauling => rfl
            | made => rfl
            | parted => rfl
          rw [valvesByState_iff]
          rw [hun] at hvalves ⊢
          exact ⟨rfl, rfl, rfl, rfl, hvalves⟩
  · intro n count elapsed s w c hw hc x u hnot
    have hmarks : marksParted c x (storeTension x w) = false := by
      rw [← Bool.not_eq_true, marksParted_iff]
      rintro ⟨hstate, hfloor, before, hbefore, harm⟩
      exact absurd harm (Nat.not_le.2 (hnot hstate hfloor before hbefore))
    have hu : u = settle false (changeWinch n (fun y => judgeLoad s.now c x (storeTension x y)) s) :=
      loadResult_judged hw hc hmarks
    clear_value u
    have hstep := judged_step (c := c) hw x
    generalize changeWinch n (fun y => judgeLoad s.now c x (storeTension x y)) s = a at *
    have hfollows := settle_follows false a
    have hpull : a.cpc.pullOff = s.cpc.pullOff := by rw [hstep.cpc]
    rw [← hu] at hfollows
    refine ⟨hu ▸ settle_coupling false a, hu ▸ (settle_summaryAlert a).since (by rw [hstep.cpc]), fun hp => ?_, fun hp hnone => ?_⟩
    · obtain ⟨hq, hothers, hcpc, hvalves⟩ := hstep.kept (hfollows.stays (by rw [hpull]; exact hp))
      rw [haulDuty_withLines, payoutDuty_withLines] at hvalves
      have hj := judgeLoad_eq s.now c x (storeTension x w)
      refine ⟨_, hq, by rw [hj]; rfl, by rw [hj]; rfl, by rw [hj]; rfl, by rw [hj]; rfl, hothers, by rw [hcpc], by rw [hcpc],
        by rw [hcpc], by rw [hcpc], fun hst => ?_, fun hst => ?_, fun hst => ?_, fun hst => ?_, fun hst => ?_⟩
      · obtain ⟨hrender, hmake, hon⟩ := judge_hauling (now := s.now) (c := c) (x := x) (y := storeTension x w) hst
        refine ⟨fun h1 => ?_, fun h1 h2 => ?_, fun h1 h2 => ?_⟩
        · rw [hrender h1] at hvalves ⊢
          exact ⟨rfl, rfl, rfl, hvalves⟩
        · rw [hmake h1 h2] at hvalves ⊢
          exact ⟨rfl, rfl, rfl, hvalves⟩
        · rw [hon h1 h2] at hvalves ⊢
          exact ⟨hst, rfl, hvalves.duties (by simp [haulDuty, storeTension, hst]) (by simp [payoutDuty, storeTension, hst])⟩
      · obtain ⟨hrender, hpulse, hon⟩ := judge_made (now := s.now) (c := c) (x := x) (y := storeTension x w) hst
        refine ⟨fun h1 => ?_, fun h1 h2 h3 => ?_, fun h1 h2 => ?_⟩
        · rw [hrender h1] at hvalves ⊢
          exact ⟨rfl, rfl, rfl, hvalves⟩
        · rw [hpulse h1 h2 h3] at hvalves ⊢
          exact ⟨hst, rfl, rfl, hvalves.duties (by simp [haulDuty, storeTension, hst]) (by simp [payoutDuty, storeTension, hst])⟩
        · rw [hon h1 h2] at hvalves ⊢
          exact ⟨hst, rfl, rfl, hvalves.duties (by simp [haulDuty, storeTension, hst]) (by simp [payoutDuty, storeTension, hst])⟩
      · obtain ⟨hmake, hon⟩ := judge_rendering (now := s.now) (c := c) (x := x) (y := storeTension x w) hst
        refine ⟨fun h1 => ?_, fun h1 => ?_⟩
        · rw [hmake h1] at hvalves ⊢
          exact ⟨rfl, rfl, rfl, hvalves⟩
        · rw [hon h1] at hvalves ⊢
          exact ⟨hst, rfl, hvalves.duties (by simp [haulDuty, storeTension, hst]) (by simp [payoutDuty, storeTension, hst])⟩
      · obtain ⟨hslack, hon⟩ := judge_releasing (now := s.now) (c := c) (x := x) (y := storeTension x w) hst
        have hstate : (judgeLoad s.now c x (storeTension x w)).state = .releasing := by
          by_cases h : w.phase = some .payingOut ∧ x < c.tSlack
          · rw [hslack h.1 h.2]
            exact hst
          · rw [hon (by rwa [not_and_or, Nat.not_lt] at h)]
            exact hst
        refine ⟨hstate, hvalves.duties (by simp [haulDuty, hstate]) (by simp [payoutDuty, hstate]), fun h1 h2 => ?_, fun h1 => ?_⟩
        · rw [hslack h1 h2]
          exact ⟨rfl, rfl⟩
        · rw [hon h1]
          exact ⟨rfl, rfl⟩
      · have hon := judge_idle (now := s.now) (c := c) (x := x) (y := storeTension x w) hst
        rw [hon] at hvalves ⊢
        refine ⟨rfl, rfl, rfl, hvalves.duties ?_ ?_⟩
        · rcases hst with h | h <;> simp [haulDuty, storeTension, h]
        · rcases hst with h | h <;> simp [payoutDuty, storeTension, h]
    · have hcompletes := hfollows.gone (by rw [hpull]; exact hp) hnone
      obtain ⟨-, hout, hq, hvalves⟩ := hstep.completed hcompletes hc
      refine ⟨hout, fun hst => ?_⟩
      have hfast : winchFast (withLines (judgeLoad s.now c x (storeTension x w))) = true := judgeLoad_fast (w := storeTension x w) hst
      have htension : (withLines (judgeLoad s.now c x (storeTension x w))).tension = some x := by
        rw [judgeLoad_eq]
        rfl
      have hprevious : (withLines (judgeLoad s.now c x (storeTension x w))).previous = w.tension := by
        rw [judgeLoad_eq]
        rfl
      have hrelease : releaseWinch s.now c (withLines (judgeLoad s.now c x (storeTension x w))) =
          { withLines (judgeLoad s.now c x (storeTension x w)) with
            state := .releasing, phase := some .payingOut, pulse := false, timerAt := some (s.now + c.releaseWait) } := by
        simp only [releaseWinch, hfast, htension, if_true]
      rw [hrelease] at hq hvalves
      exact ⟨_, hq, rfl, rfl, rfl, rfl, htension, hprevious, hvalves⟩

end Sys2Proof.Machine
end

section
/-!
PROOFS. The acknowledgement of a parting (O49) and the winch timers with the hauls asked (O50).
-/

namespace Sys2Proof.Machine

/-! ## The acknowledgement (R92) -/

theorem unpart_eq (w : Winch) : unpart w = { w with state := (unpart w).state } := by
  unfold unpart
  split <;> rfl

theorem unpart_releasing {w : Winch} (h : (unpart w).state = .releasing) : w.state = .releasing := by
  unfold unpart at h
  split at h
  · cases h
  · exact h

theorem unpart_notParted (w : Winch) : (unpart w).state ≠ .parted := by
  unfold unpart
  split
  · nofun
  next h => exact h

/-- Every winch changed in turn by one `f`. -/
theorem changeWinches_is {s : State} {f : Winch → Winch} (hh : ∀ w, (f w).haulWritten = w.haulWritten)
    (hp : ∀ w, (f w).payoutWritten = w.payoutWritten) (hr : ∀ w, (f w).state = .releasing → w.state = .releasing) {n : Nat}
    {w : Winch} (hw : getN s.cpc.winches n = some w) : WinchIs n w (withLines (f w)) s (changeWinches f s) := by
  obtain ⟨q, hq, heq, hset⟩ := visit_winches (f := fun q n => changeWinch n f q) (g := f) (fun t m hm => changeWinch_keeps hm f t)
    (numbers_nodup s.cpc.winches.length) (mem_numbers_of_getN hw) hw (fun _ _ => rfl) (hh w) (hp w)
  have hqe : q = withLines (f w) := heq
  subst hqe
  exact ⟨changeWinches_reacts f hr s, hq, hset⟩

theorem changeWinches_only (f : Winch → Winch) (s : State) : WinchesOnly s (changeWinches f s) :=
  fold_winchesOnly (f := fun q n => changeWinch n f q) (fun t n => changeWinch_only_winches n f t) _ s

/-- The couplings as the acknowledgement leaves them, before they are settled. -/
def unparted (s : State) : State :=
  { changeWinches unpart s with cpc := { (changeWinches unpart s).cpc with parted := false } }

theorem acknowledge_eq (s : State) : acknowledge s = settle false (unparted s) := rfl

theorem unparted_is {s : State} {n : Nat} {w : Winch} (hw : getN s.cpc.winches n = some w) :
    WinchIs n w (withLines (unpart w)) s (unparted s) := by
  have h := changeWinches_is (f := unpart) (fun w => by rw [unpart_eq]) (fun w => by rw [unpart_eq])
    (fun w => unpart_releasing) hw
  exact h.then (cpc_reacts _ _ rfl) rfl rfl

theorem unparted_cpc (s : State) :
    (unparted s).cpc.summary = s.cpc.summary ∧ (unparted s).cpc.winches.length = s.cpc.winches.length := by
  obtain ⟨honly, hlen⟩ := changeWinches_only unpart s
  refine ⟨?_, hlen⟩
  show (changeWinches unpart s).cpc.summary = _
  rw [honly]

/-- What the acknowledgement leaves of the winches. -/
theorem acknowledge_winches (s : State) : (acknowledge s).cpc.parted = false ∧
    (∀ w ∈ (acknowledge s).cpc.winches, w.state ≠ .parted) ∧
    ∀ n w, getN s.cpc.winches n = some w → w.state = .parted →
      ∃ q, getN (acknowledge s).cpc.winches n = some q ∧ q.state = .slack ∧ q.tension = w.tension ∧
        Valves n 0 0 w q s (acknowledge s) := by
  have hfollows : CouplingsFollow (unparted s) (acknowledge s) := settle_follows false (unparted s)
  have hlen : (acknowledge s).cpc.winches.length = s.cpc.winches.length := by
    refine Eq.trans ?_ (unparted_cpc s).2
    obtain ⟨hcpc, -⟩ | ⟨-, b, -, ⟨hbefore, -⟩, -, hcpc, -⟩ := hfollows
    · rw [hcpc]
    · have hwinches : (acknowledge s).cpc.winches = (released b).cpc.winches := by rw [hcpc]
      rw [hwinches, released_length, hbefore]
  refine ⟨?_, fun z hz => ?_, fun n w hw hst => ?_⟩
  · have hkept := settleWith_kept recompute_recomputes (s := unparted s) false
    exact hkept.2.2.2
  · obtain ⟨i, hi⟩ := List.mem_iff_getElem?.1 hz
    have hzi : getN (acknowledge s).cpc.winches (i + 1) = some z := hi
    obtain ⟨w, hw⟩ := Option.isSome_iff_exists.1 (getN_isSome (hlen ▸ mem_numbers_of_getN hzi))
    obtain ⟨q, hq, hstate⟩ := (unparted_is hw).settled_state hfollows rfl
    obtain rfl := Option.some.inj (hq.symm.trans hzi)
    rcases hstate with h | h
    · rw [h]
      exact unpart_notParted w
    · rw [h]
      nofun
  · have hun : unpart w = { w with state := .slack } := if_pos hst
    have his := unparted_is hw
    rw [hun] at his
    obtain ⟨hq, hvalves⟩ := his.settled hfollows rfl rfl
    exact ⟨_, hq, rfl, rfl, hvalves⟩

/-- Settles O49: the answer, and what is settled after it. -/
theorem partingAcknowledged : Obligations.PartingAcknowledged := by
  refine fun t s hm => ⟨fun hnone => ?_, fun hsome => ?_⟩
  all_goals
    have hexec : exec (.clearParted t) s = .next (clearPartedAnswer (setClock t s)) :=
      congrArg Host.Outcome.next (inService_serving (s := setClock t s) hm _)
  · have hany : ¬anyParted (setClock t s) = true := by
      simp only [anyParted, List.any_eq_true, decide_eq_true_eq, not_exists, not_and]
      exact hnone
    rw [hexec, clearPartedAnswer, if_neg hany]
  · have hany : anyParted (setClock t s) = true := by
      simp only [anyParted, List.any_eq_true, decide_eq_true_eq]
      exact hsome
    obtain ⟨hparted, hall, hwinches⟩ := acknowledge_winches (setClock t s)
    have hcoupling : CouplingInForce (acknowledge (setClock t s)) := settle_coupling false _
    have halert : SummaryAlert (setClock t s) (acknowledge (setClock t s)) :=
      (settle_summaryAlert (unparted (setClock t s))).since (unparted_cpc _).1
    have hcontributes : ContributesInForce (acknowledge (setClock t s)) :=
      settleWith_contributes recompute_recomputes (s := unparted (setClock t s)) false
    have hseven := hcontributes.iff
    rw [clearPartedAnswer, if_pos hany, okAfter] at hexec
    generalize acknowledge (setClock t s) = u at *
    exact ⟨replyOk [] u, hexec, rfl, hparted, hall, hcoupling, halert, hseven, hwinches⟩

/-! ## Hauls asked of winches (R87, R103, R104) -/

/-- A haul request starts a haul, finds the load channel DEAD, or does nothing. -/
theorem haulRequest_cases (n : Nat) (s : State) :
    (∃ w c, getN s.cpc.winches n = some w ∧ getN s.cfg.winches n = some c ∧ w.state = .slack ∧
      boundDead .load (some n) s = false ∧ haulRequest n s = changeWinch n (startHaul s.now c) s) ∨
    (boundDead .load (some n) s = true ∧ haulRequest n s = raiseFlag .meterFault s) ∨
    ((∀ w c, getN s.cpc.winches n = some w → getN s.cfg.winches n = some c → w.state ≠ .slack) ∧ haulRequest n s = s) := by
  unfold haulRequest
  split
  next w c hw hc =>
    by_cases hst : w.state = .slack
    · rw [if_pos hst]
      by_cases hd : boundDead .load (some n) s = true
      · exact .inr (.inl ⟨hd, if_pos hd⟩)
      · exact .inl ⟨w, c, hw, hc, hst, by simpa using hd, if_neg hd⟩
    · refine .inr (.inr ⟨fun w' c' hw' _ => ?_, if_neg hst⟩)
      obtain rfl := Option.some.inj (hw.symm.trans hw')
      exact hst
  next h => exact .inr (.inr ⟨fun w c hw hc => absurd hc (h w c hw), rfl⟩)

/-- From `s` to `t` winch `n` and its lines stay, and the other blocks but flags and lines. -/
def HaulKept (n : Nat) (s t : State) : Prop := WinchKept n s t ∧ Reacts s t

theorem HaulKept.trans {n : Nat} {s t u : State} (h : HaulKept n s t) (k : HaulKept n t u) : HaulKept n s u :=
  ⟨h.1.trans k.1, h.2.trans k.2⟩

theorem raiseFlag_winchKept (n : Nat) (f : Flag) (s : State) : WinchKept n s (raiseFlag f s) :=
  ⟨rfl, .same rfl rfl, rfl, rfl⟩

theorem haulRequest_keeps {n m : Nat} (h : m ≠ n) (s : State) : HaulKept n s (haulRequest m s) := by
  refine ⟨?_, haulRequest_reacts m s⟩
  obtain ⟨w, c, -, -, -, -, heq⟩ | ⟨-, heq⟩ | ⟨-, heq⟩ := haulRequest_cases m s
  · rw [heq]
    exact changeWinch_keeps h _ s
  · rw [heq]
    exact raiseFlag_winchKept n _ s
  · rw [heq]
    exact .refl n s

/-- The requests made in order. -/
def hauled (ns : List Nat) (s : State) : State := ns.foldl (fun q n => haulRequest n q) s

theorem haulAll_eq (ns : List Nat) (s : State) : haulAll ns s =
    setOutcome (if haulingCount s < haulingCount (hauled ns s) then .remakeStarted else .remakeNothing) (hauled ns s) := rfl

section
variable {ns : List Nat} {s : State} {n : Nat}

theorem hauled_told (ns : List Nat) (s : State) : Told s (hauled ns s) := fold_told (fun t m => haulRequest_told m t) ns s

theorem hauled_unasked (h : n ∉ ns) : HaulKept n s (hauled ns s) := by
  induction ns generalizing s with
  | nil => exact ⟨.refl n s, .refl s⟩
  | cons m ms ih =>
    rw [List.mem_cons, not_or] at h
    exact (haulRequest_keeps (Ne.symm h.1) s).trans (ih h.2)

variable (hns : ns.Nodup)
include hns

theorem hauled_visit (h : n ∈ ns) : ∃ a, HaulKept n s a ∧ HaulKept n (haulRequest n a) (hauled ns s) :=
  foldl_visits (R := HaulKept n) (fun t => ⟨.refl n t, .refl t⟩) HaulKept.trans (f := fun q n => haulRequest n q)
    (fun t _ hm => haulRequest_keeps hm t) hns h s

/-- A SLACK winch asked, with its channel OK (R87). -/
theorem hauled_hauling (h : n ∈ ns) {w : Winch} {c : WinchCfg} (hw : getN s.cpc.winches n = some w)
    (hc : getN s.cfg.winches n = some c) (hst : w.state = .slack) (hd : boundDead .load (some n) s = false) :
    WinchIs n w (withLines (startHaul s.now c w)) s (hauled ns s) := by
  obtain ⟨q, hq, heq, hset⟩ := visit_winches (f := fun q n => haulRequest n q) (g := startHaul s.now c)
    (fun t _ hm => (haulRequest_keeps hm t).1) hns h hw (fun a ha => by
      have htold : Told s a := ha.2.2.told
      have hwa : getN a.cpc.winches n = some w := ha.1.trans hw
      have hca : getN a.cfg.winches n = some c := by rw [htold.cfg]; exact hc
      have hda : boundDead .load (some n) a = false := (boundDead_congr htold.cfg htold.pgu).trans hd
      simp only [haulRequest, hwa, hca, hst, hda, if_true, htold.now]
      rfl) rfl rfl
  have hqe : q = withLines (startHaul s.now c w) := heq
  subst hqe
  exact ⟨foldl_reacts (fun q n => haulRequest_reacts n q) ns s, hq, hset⟩

/-- A SLACK winch asked, with its channel DEAD. -/
theorem hauled_dead (h : n ∈ ns) {w : Winch} {c : WinchCfg} (hw : getN s.cpc.winches n = some w)
    (hc : getN s.cfg.winches n = some c) (hst : w.state = .slack) (hd : boundDead .load (some n) s = true) :
    HaulKept n s (hauled ns s) ∧ flagSet .meterFault (hauled ns s) = true := by
  obtain ⟨a, hbefore, hafter⟩ := hauled_visit hns (s := s) h
  have hwa : getN a.cpc.winches n = some w := hbefore.1.1.trans hw
  have hca : getN a.cfg.winches n = some c := by rw [hbefore.2.cfg]; exact hc
  have hda : boundDead .load (some n) a = true := (boundDead_congr hbefore.2.cfg hbefore.2.pgu).trans hd
  have hvisit : haulRequest n a = raiseFlag .meterFault a := by
    simp only [haulRequest, hwa, hca, hst, hda, if_true]
  rw [hvisit] at hafter
  have hraised : flagSet .meterFault (raiseFlag .meterFault a) = true := by
    rw [flagSet_raiseFlag]
    simp
  exact ⟨(hbefore.trans ⟨raiseFlag_winchKept n _ a, raiseFlag_reacts _ a⟩).trans hafter, hafter.2.flags _ hraised⟩

/-- A winch asked that is not SLACK. -/
theorem hauled_busy {w : Winch} (hw : getN s.cpc.winches n = some w) (hst : w.state ≠ .slack) : HaulKept n s (hauled ns s) := by
  by_cases h : n ∈ ns
  · obtain ⟨a, hbefore, hafter⟩ := hauled_visit hns (s := s) h
    have hwa : getN a.cpc.winches n = some w := hbefore.1.1.trans hw
    have hvisit : haulRequest n a = a := by
      unfold haulRequest
      split
      next w' c' hw' hc' =>
        obtain rfl := Option.some.inj (hwa.symm.trans hw')
        exact if_neg hst
      · rfl
    rw [hvisit] at hafter
    exact hbefore.trans hafter
  · exact hauled_unasked h

end

/-! ### The outcome of a remake (R103, R104) -/

/-- Records of which more satisfy a test, none fewer. -/
theorem filter_length_lt {α : Type} {p : α → Bool} {l k : List α} (hlen : k.length = l.length)
    (hmono : ∀ (i : Nat) x y, l[i]? = some x → k[i]? = some y → p x = true → p y = true) :
    (l.filter p).length ≤ (k.filter p).length ∧
      ((∃ (i : Nat) (x y : α), l[i]? = some x ∧ k[i]? = some y ∧ p x = false ∧ p y = true) → (l.filter p).length < (k.filter p).length) := by
  induction l generalizing k with
  | nil => simp
  | cons x l ih =>
    obtain ⟨y, k, rfl⟩ : ∃ y k', k = y :: k' := List.exists_cons_of_length_eq_add_one hlen
    obtain ⟨hle, hlt⟩ := ih (by simpa using hlen) fun i a b ha hb => hmono (i + 1) a b ha hb
    have hhead : p x = true → p y = true := hmono 0 x y rfl rfl
    refine ⟨?_, ?_⟩
    · cases hx : p x <;> cases hy : p y <;> simp only [List.filter_cons, hx, hy, if_true, List.length_cons]
      · exact hle
      · exact Nat.le_succ_of_le hle
      · cases (hhead hx).symm.trans hy
      · exact Nat.succ_le_succ hle
    · rintro ⟨i, a, b, ha, hb, hpa, hpb⟩
      cases i with
      | zero =>
        simp only [List.getElem?_cons_zero, Option.some.injEq] at ha hb
        subst ha hb
        simp only [List.filter_cons, hpa, hpb, if_true, List.length_cons]
        exact Nat.lt_succ_of_le hle
      | succ i =>
        have htail := hlt ⟨i, a, b, ha, hb, hpa, hpb⟩
        cases hx : p x <;> cases hy : p y <;> simp only [List.filter_cons, hx, hy, if_true, List.length_cons]
        · exact htail
        · exact Nat.lt_succ_of_lt htail
        · cases (hhead hx).symm.trans hy
        · exact Nat.succ_lt_succ htail

section
variable {ns : List Nat} {s : State}

theorem hauled_length (ns : List Nat) (s : State) : (hauled ns s).cpc.winches.length = s.cpc.winches.length := by
  refine foldl_keeps (R := fun s t : State => t.cpc.winches.length = s.cpc.winches.length) (fun _ => rfl)
    (fun h k => k.trans h) (fun t m => ?_) ns s
  obtain ⟨w, c, -, -, -, -, heq⟩ | ⟨-, heq⟩ | ⟨-, heq⟩ := haulRequest_cases m t
  · rw [heq]
    exact (changeWinch_only_winches m _ t).2
  · rw [heq]
    rfl
  · rw [heq]

variable (hns : ns.Nodup)
include hns

/-- A winch that cannot haul, or is not asked to, keeps its record and its lines. -/
theorem hauled_kept {n : Nat} {w : Winch} (hw : getN s.cpc.winches n = some w) (h : ¬(n ∈ ns ∧ canHaul n s)) :
    HaulKept n s (hauled ns s) := by
  by_cases hn : n ∈ ns
  · by_cases hst : w.state = .slack
    · obtain ⟨a, hbefore, hafter⟩ := hauled_visit hns (s := s) hn
      have hkept : HaulKept n a (haulRequest n a) := by
        refine ⟨?_, haulRequest_reacts n a⟩
        obtain ⟨w', c, hw', hc, -, hd, -⟩ | ⟨-, heq⟩ | ⟨-, heq⟩ := haulRequest_cases n a
        · refine absurd ⟨hn, ⟨w, hw, hst⟩, ?_, ?_⟩ h
          · rw [← hbefore.2.cfg, hc]
            rfl
          · exact (boundDead_congr hbefore.2.cfg hbefore.2.pgu).symm.trans hd
        · rw [heq]
          exact raiseFlag_winchKept n _ a
        · rw [heq]
          exact .refl n a
      exact (hbefore.trans hkept).trans hafter
    · exact hauled_busy hns hw hst
  · exact hauled_unasked hn

/-- More winches are HAULING exactly where one asked could haul. -/
theorem hauled_count : haulingCount s < haulingCount (hauled ns s) ↔ ∃ n, n ∈ ns ∧ canHaul n s := by
  have hstate (n : Nat) (w : Winch) (hw : getN s.cpc.winches n = some w) :
      ∃ q, getN (hauled ns s).cpc.winches n = some q ∧ (n ∈ ns ∧ canHaul n s → w.state = .slack ∧ q.state = .hauling) ∧
        (¬(n ∈ ns ∧ canHaul n s) → q = w) := by
    by_cases h : n ∈ ns ∧ canHaul n s
    · obtain ⟨hn, ⟨w', hw', hst⟩, hc, hd⟩ := h
      obtain rfl := Option.some.inj (hw.symm.trans hw')
      obtain ⟨c, hc⟩ := Option.isSome_iff_exists.1 hc
      exact ⟨_, (hauled_hauling hns hn hw hc hst hd).winch, fun _ => ⟨hst, rfl⟩, fun hno => absurd ⟨hn, ⟨w, hw, hst⟩, by rw [hc]; rfl, hd⟩ hno⟩
    · exact ⟨w, (hauled_kept hns hw h).1.1.trans hw, fun hyes => absurd hyes h, fun _ => rfl⟩
  have hmono : ∀ (i : Nat) (x y : Winch), s.cpc.winches[i]? = some x → (hauled ns s).cpc.winches[i]? = some y →
      decide (x.state = .hauling) = true → decide (y.state = .hauling) = true := by
    intro i x y hx hy hxs
    obtain ⟨q, hq, hyes, hno⟩ := hstate (i + 1) x hx
    obtain rfl := Option.some.inj ((show getN (hauled ns s).cpc.winches (i + 1) = some y from hy).symm.trans hq)
    by_cases h : i + 1 ∈ ns ∧ canHaul (i + 1) s
    · exact decide_eq_true (hyes h).2
    · rw [hno h]
      exact hxs
  obtain ⟨-, hlt⟩ := filter_length_lt (p := fun w : Winch => decide (w.state = .hauling)) (hauled_length ns s) hmono
  refine ⟨fun hcount => ?_, fun ⟨n, hn, hcan⟩ => hlt ?_⟩
  · by_contra hnone
    have hsame : (hauled ns s).cpc.winches = s.cpc.winches := by
      have hids : (hauled ns s).cpc.winches.map id = s.cpc.winches.map id := map_eq_of_getN fun n => by
        cases hw : getN s.cpc.winches n with
        | none =>
          have hout : getN (hauled ns s).cpc.winches n = none := by
            by_contra hsome
            obtain ⟨q, hq⟩ := Option.ne_none_iff_exists'.1 hsome
            have hin := getN_isSome (hauled_length ns s ▸ mem_numbers_of_getN hq)
            rw [hw] at hin
            cases hin
          rw [hout]
        | some w =>
          obtain ⟨q, hq, -, hno⟩ := hstate n w hw
          rw [hq, hno fun h => hnone ⟨n, h⟩]
      simpa using hids
    rw [haulingCount, haulingCount, hsame] at hcount
    exact absurd hcount (lt_irrefl _)
  · obtain ⟨⟨w, hw, -⟩, -⟩ := id hcan
    obtain ⟨q, hq, hyes, -⟩ := hstate n w hw
    obtain ⟨hslack, hhauling⟩ := hyes ⟨hn, hcan⟩
    cases n with
    | zero => cases hw
    | succ i => exact ⟨i, w, q, hw, hq, by simp [hslack], by simp [hhauling]⟩

/-- What haul requests to these winches leave, the couplings kept after them (R87, R103, R104). -/
theorem haulAll_asked {p : Nat → Prop} (hp : ∀ n w, getN s.cpc.winches n = some w → (n ∈ ns ↔ p n)) {u : State}
    (hu : CouplingsKept (haulAll ns s) u) (hflags : flagSet .meterFault u = flagSet .meterFault (haulAll ns s)) :
    HaulsAsked p s u := by
  obtain ⟨hcpc, hlines⟩ := hu
  have hwinches : u.cpc.winches = (hauled ns s).cpc.winches := by rw [hcpc]; rfl
  have hsame : OnlyLines (fun _ => False) (hauled ns s) (haulAll ns s) := .same rfl rfl
  have hkept {n : Nat} {w : Winch} (hw : getN s.cpc.winches n = some w) (h : HaulKept n s (hauled ns s)) :
      getN u.cpc.winches n = some w ∧ ValvesKept n w w s u := by
    have hall : OnlyLines (fun x => ¬ofWinch n x) s u :=
      (h.1.2.1.trans (hsame.mono fun _ hx => hx.elim)).trans (hlines.mono fun x hx hn => ofWinch_not_ofShaft hn hx)
    exact ⟨by rw [hwinches]; exact h.1.1.trans hw, rfl, rfl, hall.2 _ (not_not_intro (.inl rfl)), hall.2 _ (not_not_intro (.inr rfl))⟩
  have hasked (n : Nat) (w : Winch) (hw : getN s.cpc.winches n = some w) : n ∈ ns ↔ p n := hp n w hw
  have hcan : (∃ n, n ∈ ns ∧ canHaul n s) ↔ ∃ n, p n ∧ canHaul n s :=
    exists_congr fun n => and_congr_left fun ⟨⟨w, hw, _⟩, _⟩ => hasked n w hw
  refine ⟨fun n w c hw hc => ?_, fun h => ?_, fun h => ?_, ?_⟩
  · by_cases hhauls : n ∈ ns ∧ canHaul n s
    · obtain ⟨hn, ⟨w', hw', hst⟩, -, hd⟩ := hhauls
      obtain rfl := Option.some.inj (hw.symm.trans hw')
      have his := hauled_hauling hns hn hw hc hst hd
      have hvalves := his.valves.between (P := fun a => ∃ n, ofShaft n a) (fun _ => ofWinch_not_ofShaft) (.refl s)
        ((hsame.mono fun _ hx => hx.elim).trans hlines) his.reacts.cfg
      refine ⟨withLines (startHaul s.now c w), by rw [hwinches]; exact his.winch, rfl, fun _ _ => ⟨rfl, rfl, rfl, hvalves.1⟩, fun _ _ hdead => ?_, fun hno => ?_⟩
      · cases hd.symm.trans hdead
      · exact (hno.elim (fun h => h ((hasked n w hw).1 hn)) fun h => h hst).elim
    · obtain ⟨hq, hvalves⟩ := hkept hw (hauled_kept hns hw hhauls)
      refine ⟨w, hq, rfl, fun hpn hcan' => absurd ⟨(hasked n w hw).2 hpn, hcan'⟩ hhauls, fun hpn hst hd => ?_,
        fun _ => ⟨rfl, rfl, rfl, hvalves⟩⟩
      obtain ⟨-, hflag⟩ := hauled_dead hns ((hasked n w hw).2 hpn) hw hc hst hd
      exact ⟨hst, rfl, hflags.trans hflag, hvalves⟩
  · have hcount := (hauled_count hns).2 (hcan.2 h)
    rw [hcpc, haulAll_eq, if_pos hcount]
    rfl
  · have hcount : ¬haulingCount s < haulingCount (hauled ns s) := fun hlt => by
      obtain ⟨n, hn, hyes⟩ := hcan.1 ((hauled_count hns).1 hlt)
      exact h n hn hyes
    rw [hcpc, haulAll_eq, if_neg hcount]
    rfl
  · have htime : (hauled ns s).stationTime = s.stationTime := by rw [State.stationTime, (hauled_told ns s).clock, State.stationTime]
    rw [hcpc]
    exact htime

end

end Sys2Proof.Machine
end

section
/-!
PROOFS. Remakes and the winch timers (O50).
-/

namespace Sys2Proof.Machine

/-! ## Remakes (R103, R104) -/

theorem hauled_only (ns : List Nat) (s : State) : WinchesOnly s (hauled ns s) :=
  fold_winchesOnly (f := fun q n => haulRequest n q) (fun t m => by
    obtain ⟨w, c, -, -, -, -, heq⟩ | ⟨-, heq⟩ | ⟨-, heq⟩ := haulRequest_cases m t
    · rw [heq]
      exact changeWinch_only_winches m _ t
    · rw [heq]
      exact (raiseFlag_winchKept 0 _ t).2.2
    · rw [heq]
      exact .refl t) ns s

/-- Hauls asked with no pull-off in progress, and settled. -/
theorem haulAll_settled {ns : List Nat} (hns : ns.Nodup) {s : State} (hp : s.cpc.pullOff = none) {p : Nat → Prop}
    (hasked : ∀ n w, getN s.cpc.winches n = some w → (n ∈ ns ↔ p n)) :
    (settle false (haulAll ns s)).cpc.stack = s.cpc.stack ∧ HaulsAsked p s (settle false (haulAll ns s)) := by
  obtain ⟨honly, -⟩ := hauled_only ns s
  have hpull : (haulAll ns s).cpc.pullOff = none := by
    show (hauled ns s).cpc.pullOff = none
    rw [honly]
    exact hp
  have hkept := (settle_follows false (haulAll ns s)).withoutPullOff hpull
  refine ⟨?_, haulAll_asked hns hasked hkept (settleWith_flags recompute_recomputes (s := haulAll ns s) false .meterFault nofun)⟩
  rw [hkept.1]
  show (hauled ns s).cpc.stack = _
  rw [honly]

theorem mem_madeIn {r : List MakeUp} {n : Nat} : n ∈ madeIn r ↔ ∃ m, getN r n = some m ∧ m.made = true := by
  unfold madeIn
  rw [List.mem_filter]
  constructor
  · rintro ⟨-, h⟩
    cases hm : getN r n with
    | none => simp [hm] at h
    | some m => exact ⟨m, rfl, by simpa [hm] using h⟩
  · rintro ⟨m, hm, hmade⟩
    exact ⟨mem_numbers_of_getN hm, by simpa [hm] using hmade⟩

theorem remakeOrder_pops {s : State} {r : List MakeUp} {rest : List (List MakeUp)} (hp : s.cpc.pullOff = none)
    (hs : s.cpc.stack = r :: rest) :
    remakeOrder s = settle false (haulAll (madeIn r) { s with cpc := { s.cpc with stack := rest } }) := by
  simp only [remakeOrder, hp, hs]
  rfl

theorem remakeOwn_asks {s : State} (hp : s.cpc.pullOff = none) :
    remakeOwn s = settle false (haulAll (numbers s.cpc.winches.length) s) := by
  simp only [remakeOwn, hp]
  rfl

/-! ## The winch timers (R88, R89, R93) -/

section
variable {n : Nat} {p : Winch → Bool} {f : WinchCfg → Winch → Winch} {after : State → State} {s : State} {w : Winch} {c : WinchCfg}
variable (hw : getN s.cpc.winches n = some w) (hc : getN s.cfg.winches n = some c)
include hw hc

theorem winchExpiry_none (h : p w = false ∨ due s.now w.timerAt = false) : winchExpiry n p f after s = s := by
  simp only [winchExpiry, hw, hc]
  refine if_neg ?_
  rw [Bool.and_eq_true]
  rintro ⟨h1, h2⟩
  rcases h with h | h
  · cases h.symm.trans h1
  · cases h.symm.trans h2

theorem winchExpiry_due (hp : p w = true) (hd : due s.now w.timerAt = true) :
    winchExpiry n p f after s = settle false (after (changeWinch n (f c) s)) := by
  simp only [winchExpiry, hw, hc, hp, hd]
  rfl

/-- An expiry after which the winch is not fast. -/
theorem winchExpiry_settled (hp : p w = true) (hd : due s.now w.timerAt = true)
    (hh : (f c w).haulWritten = w.haulWritten) (hpw : (f c w).payoutWritten = w.payoutWritten)
    (hr : ∀ x, (f c x).state = .releasing → x.state = .releasing) (hfast : winchFast (f c w) = false)
    (hafter : ∀ t, Reacts t (after t) ∧ (after t).cpc = t.cpc ∧ (after t).dlu = t.dlu) :
    getN (winchExpiry n p f after s).cpc.winches n = some (withLines (f c w)) ∧
      Valves n (haulDuty (f c w)) (payoutDuty (f c w)) w (withLines (f c w)) s (winchExpiry n p f after s) := by
  obtain ⟨hreacts, hcpc, hdlu⟩ := hafter (changeWinch n (f c) s)
  have hstep := (changeWinch_step (f c) hw hh hpw hr).then hreacts hcpc hdlu
  rw [winchExpiry_due hw hc hp hd]
  exact hstep.settled (settle_follows false _) hfast rfl

end

theorem exec_haulTimeout {t n : Nat} {s : State} : exec (.haulTimeoutExpiry t n) s = .next (winchExpiry n
    (fun w => decide (w.state = .hauling)) (fun _ => timeOutHaul) (raiseFlag .haulTimeout) (setClock t s)) := rfl

theorem exec_haulPulse {t n : Nat} {s : State} : exec (.haulPulseExpiry t n) s = .next (winchExpiry n
    (fun w => decide (w.state = .made) && w.pulse) (fun _ => endPulse) id (setClock t s)) := rfl

theorem exec_releaseWait {t n : Nat} {s : State} : exec (.releaseWaitExpiry t n) s = .next (winchExpiry n
    (releasingIn .payingOut) (enterHolding (setClock t s).now) id (setClock t s)) := rfl

theorem exec_releaseHold {t n : Nat} {s : State} : exec (.releaseHoldExpiry t n) s = .next (winchExpiry n
    (releasingIn .holding) (fun _ => endHold) id (setClock t s)) := rfl

/-- An expiry that changes no other block. -/
theorem idAfter (t : State) : Reacts t (id t) ∧ (id t).cpc = t.cpc ∧ (id t).dlu = t.dlu := ⟨.refl t, rfl, rfl⟩

theorem releasingIn_false {p : Phase} {w : Winch} (h : w.state ≠ .releasing ∨ w.phase ≠ some p) : releasingIn p w = false :=
  decide_eq_false fun ⟨h1, h2⟩ => h.elim (fun h => h h1) fun h => h h2

theorem pulseEnds_step {n : Nat} {s : State} {w : Winch} (hw : getN s.cpc.winches n = some w) :
    WinchStep n w (withLines (endPulse w)) s (changeWinch n endPulse s) :=
  changeWinch_step endPulse hw rfl rfl fun _ hx => hx

theorem winchExpiry_pulse {n : Nat} {s : State} {w : Winch} {c : WinchCfg} (hw : getN s.cpc.winches n = some w)
    (hc : getN s.cfg.winches n = some c) (hp : (decide (w.state = .made) && w.pulse) = true)
    (hd : due s.now w.timerAt = true) :
    winchExpiry n (fun w => decide (w.state = .made) && w.pulse) (fun _ => endPulse) id s =
      settle false (changeWinch n endPulse s) := winchExpiry_due hw hc hp hd

/-- A fast winch released (R93). -/
theorem releaseWinch_fast (now : Nat) (c : WinchCfg) {w : Winch} (h : winchFast w = true) :
    (releaseWinch now c w).state = .releasing ∧ (releaseWinch now c w).pulse = false ∧
      (releaseWinch now c w).tension = w.tension := by
  unfold releaseWinch
  rw [if_pos h]
  cases w.tension <;> exact ⟨rfl, rfl, rfl⟩

/-- Settles O50: the remakes, and each timer. -/
theorem winchTimers : Obligations.WinchTimers := by
  refine ⟨fun s => ⟨fun hp => ?_, fun hp hs => ?_, fun r rest hp hs => ?_, fun hp => ?_⟩, fun t n s w c hw hc =>
    ⟨fun hd => ⟨fun hst => ?_, fun hst hpulse hp => ?_, fun hst hpulse hp => ?_, fun hst hph => ?_, fun hst hph => ?_⟩,
      fun h => ?_, fun h => ?_, fun h => ?_, fun h => ?_⟩⟩
  · exact ⟨if_pos hp, if_pos hp⟩
  · have hempty : remakeOrder s = setOutcome .stackEmpty s := by
      simp only [remakeOrder, hp, hs]
      rfl
    exact hempty
  · have hsettled := haulAll_settled (ns := madeIn r) ((numbers_nodup _).filter _)
      (s := { s with cpc := { s.cpc with stack := rest } }) hp (p := fun n => ∃ m, getN r n = some m ∧ m.made = true)
      fun n _ _ => mem_madeIn
    rw [remakeOrder_pops hp hs]
    exact hsettled
  · rw [remakeOwn_asks hp]
    exact haulAll_settled (numbers_nodup _) hp fun n w hw => iff_of_true (mem_numbers_of_getN hw) trivial
  · obtain ⟨hq, hvalves⟩ := winchExpiry_settled (s := setClock t s) (p := fun w => decide (w.state = .hauling))
      (f := fun _ => timeOutHaul) (after := raiseFlag .haulTimeout) hw hc (decide_eq_true hst) hd rfl rfl
      (fun x hx => by cases hx) rfl fun v => ⟨raiseFlag_reacts _ v, rfl, rfl⟩
    refine ⟨_, _, exec_haulTimeout, hq, rfl, rfl, rfl, rfl, hvalves, ?_⟩
    rw [winchExpiry_due (s := setClock t s) hw hc (decide_eq_true hst) hd]
    refine (settleWith_flags recompute_recomputes (s := raiseFlag .haulTimeout _) false .haulTimeout nofun).trans ?_
    rw [flagSet_raiseFlag]
    simp
  · have hon : (decide (w.state = .made) && w.pulse) = true := by simp [hst, hpulse]
    have hstep := pulseEnds_step (s := setClock t s) hw
    obtain ⟨hq, hvalves⟩ := hstep.toWinchIs.kept ((settle_follows false _).withoutPullOff (by rw [hstep.cpc]; exact hp))
    rw [← winchExpiry_pulse (s := setClock t s) hw hc hon hd] at hq hvalves
    refine ⟨_, _, exec_haulPulse, hq, hst, rfl, rfl, rfl, rfl, hvalves.duties ?_ ?_⟩
    · simp [haulDuty, endPulse, withLines, hst]
    · simp [payoutDuty, endPulse, withLines, hst]
  · have hon : (decide (w.state = .made) && w.pulse) = true := by simp [hst, hpulse]
    have hstep := pulseEnds_step (s := setClock t s) hw
    have hpull : (changeWinch n endPulse (setClock t s)).cpc.pullOff.isSome = true := by
      rw [hstep.cpc]
      exact hp
    have hfollows := settle_follows false (changeWinch n endPulse (setClock t s))
    rw [← winchExpiry_pulse (s := setClock t s) hw hc hon hd] at hfollows
    have hexec := exec_haulPulse (t := t) (n := n) (s := s)
    generalize winchExpiry n (fun w => decide (w.state = .made) && w.pulse) (fun _ => endPulse) id (setClock t s) = u at *
    cases hu : u.cpc.pullOff with
    | some x =>
      obtain ⟨hq, hvalves⟩ := hstep.toWinchIs.kept (hfollows.stays fun _ => by rw [hu]; rfl)
      refine ⟨u, _, hexec, hq, rfl, rfl, fun _ => ⟨hst, rfl, hvalves.duties ?_ ?_⟩, fun hno => by rw [hu] at hno; cases hno⟩
      · simp [haulDuty, endPulse, withLines, hst]
      · simp [payoutDuty, endPulse, withLines, hst]
    | none =>
      obtain ⟨-, hout, hq, hvalves⟩ := hstep.completed (hfollows.gone hpull hu) hc
      obtain ⟨hstate, hpulseOff, htension⟩ := releaseWinch_fast (setClock t s).now c
        (w := withLines (endPulse w)) (decide_eq_true (.inl hst))
      have hgone : ¬u.cpc.pullOff.isSome = true := by rw [hu]; nofun
      refine ⟨u, _, hexec, hq, hpulseOff, htension, fun hsome => absurd hsome hgone,
        fun _ => ⟨hout, hstate, hvalves.duties ?_ ?_⟩⟩
      · simp [haulDuty, hstate]
      · simp [payoutDuty, hstate]
  · have hin : releasingIn .payingOut w = true := decide_eq_true ⟨hst, hph⟩
    obtain ⟨hq, hvalves⟩ := winchExpiry_settled (s := setClock t s) (p := releasingIn .payingOut)
      (f := enterHolding (setClock t s).now) (after := id) hw hc hin hd rfl rfl (fun x hx => hx)
      (by simp [winchFast, enterHolding, hst]) idAfter
    have hnow : (winchExpiry n (releasingIn .payingOut) (enterHolding (setClock t s).now) id (setClock t s)).now =
        (setClock t s).now := by
      rw [winchExpiry_due (s := setClock t s) hw hc hin hd]
      exact (settle_told false _).now.trans (changeWinch_told n _ (setClock t s)).now
    refine ⟨_, _, exec_releaseWait, hq, hst, rfl, by rw [hnow]; rfl, rfl, hvalves.duties ?_ ?_⟩
    · simp [haulDuty, enterHolding, hst]
    · simp [payoutDuty, enterHolding, hst]
  · have hin : releasingIn .holding w = true := decide_eq_true ⟨hst, hph⟩
    obtain ⟨hq, hvalves⟩ := winchExpiry_settled (s := setClock t s) (p := releasingIn .holding)
      (f := fun _ => endHold) (after := id) hw hc hin hd rfl rfl (fun x hx => by cases hx) rfl idAfter
    exact ⟨_, _, exec_releaseHold, hq, rfl, rfl, rfl, rfl, hvalves⟩
  · rw [exec_haulTimeout, winchExpiry_none (s := setClock t s) hw hc (h.imp_left fun h => decide_eq_false h)]
  · rw [exec_haulPulse, winchExpiry_none (s := setClock t s) hw hc (or_assoc.2 h |>.imp_left fun h => ?_)]
    rw [Bool.and_eq_false_iff]
    exact h.imp_left fun h => decide_eq_false h
  · rw [exec_releaseWait, winchExpiry_none (s := setClock t s) hw hc ((or_assoc.2 h).imp_left releasingIn_false)]
  · rw [exec_releaseHold, winchExpiry_none (s := setClock t s) hw hc ((or_assoc.2 h).imp_left releasingIn_false)]

end Sys2Proof.Machine
end

section
/-!
SUPPORT. A pull-off that begins, and one that completes (R93, R94, R99, R100, R102).
-/

namespace Sys2Proof.Machine

/-! ## The shafts' release thresholds (R100) -/

theorem shaftsDown_iff (s : State) : shaftsDown s = true ↔
    ∀ m x k, getN s.sfc m = some x → getN s.cfg.shafts m = some k → x.p ≤ k.releaseThreshold := by
  simp only [shaftsDown, List.all_eq_true, decide_eq_true_eq]
  refine ⟨fun h m x k hx hk => ?_, fun h ck hck => ?_⟩
  · cases m with
    | zero => cases hx
    | succ i =>
      exact h (k, x) (List.mem_of_getElem? (List.getElem?_zip_eq_some.2 ⟨hk, hx⟩))
  · obtain ⟨i, hi⟩ := List.mem_iff_getElem?.1 hck
    obtain ⟨hk, hx⟩ := List.getElem?_zip_eq_some.1 hi
    exact h (i + 1) ck.2 ck.1 hx hk

/-! ## What a completed pull-off leaves of the winches -/

/-- A winch of a pull-off that completes. -/
theorem Completes.winch {a u : State} (k : Completes a u) {n : Nat} {w : Winch} {c : WinchCfg}
    (hw : getN a.cpc.winches n = some w) (hc : getN a.cfg.winches n = some c) :
    getN u.cpc.winches n = some (withLines (releaseWinch a.now c w)) ∧
      ValvesSet n (haulDuty (releaseWinch a.now c w)) (payoutDuty (releaseWinch a.now c w)) w
        (withLines (releaseWinch a.now c w)) a u := by
  obtain ⟨-, b, htold, ⟨hcpc, hlines⟩, -, kcpc, klines⟩ := k
  have hb : getN b.cpc.winches n = some w := by rw [hcpc]; exact hw
  have hwinches : u.cpc.winches = (released b).cpc.winches := by rw [kcpc]
  obtain ⟨z, hz, heq, hset⟩ := released_winch hb (by rw [htold.cfg]; exact hc)
  rw [htold.now] at heq
  obtain rfl : z = withLines (releaseWinch a.now c w) := heq
  exact ⟨by rw [hwinches]; exact hz, hset.between (fun _ => ofWinch_not_ofShaft) hlines klines (released_told b).cfg⟩

/-- What a completed pull-off leaves beside the winches. -/
theorem Completes.left {a u : State} (k : Completes a u) : u.cpc.pullOff = none ∧ u.cpc.outcome = .released ∧
    u.cpc.outcomeAt = a.stationTime ∧ u.cpc.stack = makeUpStack a := by
  obtain ⟨-, b, htold, ⟨hcpc, -⟩, -, kcpc, -⟩ := k
  rw [released_eq] at kcpc
  have hrecord : makeUpRecord b = makeUpRecord a := by simp only [makeUpRecord, htold.cfg, congrArg Cpc.winches hcpc]
  have hstack : makeUpStack b = makeUpStack a := by
    simp only [makeUpStack, hrecord, congrArg Cpc.stack hcpc]
  exact ⟨by rw [kcpc], by rw [kcpc], by rw [kcpc]; exact htold.stationTime, by rw [kcpc]; exact hstack⟩

/-- A pull-off completes after the winches that are not fast have changed. -/
theorem Completes.released {s a u : State} (k : Completes a u) (htold : Told s a) (hstack : a.cpc.stack = s.cpc.stack)
    (hrecord : makeUpRecord a = makeUpRecord s)
    (hfast : ∀ n w, getN s.cpc.winches n = some w → winchFast w = true →
      ∃ x, getN a.cpc.winches n = some x ∧ winchFast x = true ∧ x.tension = w.tension ∧
        ∀ q, ValvesSet n 0 1000 x q a u → Valves n 0 1000 w q s u) : Released s u := by
  obtain ⟨hpull, hout, hat, hmade⟩ := k.left
  refine ⟨hpull, hout, hat.trans htold.stationTime, ?_, fun n w c hw hc hst => ?_⟩
  · intro record
    have hrec : record = makeUpRecord s := rfl
    rw [hmade, hrec]
    simp only [makeUpStack, hrecord, hstack]
    rfl
  · obtain ⟨x, hx, hxfast, htension, hvalves⟩ := hfast n w hw (decide_eq_true hst)
    obtain ⟨hq, hset⟩ := k.winch hx (by rw [htold.cfg]; exact hc)
    obtain ⟨hstate, hpulse, -⟩ := releaseWinch_fast a.now c hxfast
    have hhaul : haulDuty (releaseWinch a.now c x) = 0 := by simp [haulDuty, hstate]
    have hpayout : payoutDuty (releaseWinch a.now c x) = 1000 := by simp [payoutDuty, hstate]
    rw [hhaul, hpayout] at hset
    refine ⟨_, hq, hstate, hpulse, hvalves _ hset, fun hsome => ?_, fun hnone => ?_⟩
    · obtain ⟨y, hy⟩ := Option.isSome_iff_exists.1 hsome
      have hreleases : releaseWinch a.now c x = { x with
          state := .releasing, phase := some .payingOut, pulse := false, timerAt := some (a.now + c.releaseWait) } := by
        simp only [releaseWinch, hxfast, htension, hy, if_true]
      rw [hreleases, htold.now]
      exact ⟨rfl, rfl⟩
    · have hreleases : releaseWinch a.now c x = { x with
          state := .releasing, phase := some .holding, pulse := false, timerAt := some (a.now + c.releaseHold) } := by
        simp only [releaseWinch, hxfast, htension, hnone, if_true]
      rw [hreleases, htold.now]
      exact ⟨rfl, rfl⟩

/-! ## A shaft in DWELL through a pull-off that completes (R51, R61) -/

/-- From `s` to `u` shaft `n`, where it is in DWELL, stays there with its timer and its clutch lines. -/
def DwellKept (n : Nat) (s u : State) : Prop :=
  u.cfg = s.cfg ∧ ∀ x, getN s.sfc n = some x → x.dir = .dwell →
    (∃ y, getN u.sfc n = some y ∧ y.dir = .dwell ∧ y.dwellAt = x.dwellAt) ∧
      LineKept (.clutchAhead n) s u ∧ LineKept (.clutchAstern n) s u

namespace DwellKept

variable {n : Nat} {s t u : State}

theorem trans (h : DwellKept n s t) (k : DwellKept n t u) : DwellKept n s u := by
  obtain ⟨hcfg, h⟩ := h
  obtain ⟨kcfg, k⟩ := k
  refine ⟨kcfg.trans hcfg, fun x hx hdir => ?_⟩
  obtain ⟨⟨y, hy, hyd, hyat⟩, hahead, hastern⟩ := h x hx hdir
  obtain ⟨⟨z, hz, hzd, hzat⟩, kahead, kastern⟩ := k y hy hyd
  exact ⟨⟨z, hz, hzd, hzat.trans hyat⟩, hahead.trans hcfg kahead, hastern.trans hcfg kastern⟩

/-- Lines of others alone have been written, and the shaft has not changed. -/
theorem same {P : Assignment → Prop} (hsfc : getN u.sfc n = getN s.sfc n) (hlines : OnlyLines P s u)
    (hP : ∀ a, ofShaft n a → ¬P a) : DwellKept n s u :=
  ⟨hlines.1, fun x hx hdir => ⟨⟨x, hsfc.trans hx, hdir, rfl⟩, hlines.2 _ (hP _ (.inr (.inl rfl))),
    hlines.2 _ (hP _ (.inr (.inr rfl)))⟩⟩

theorem quiet (hcfg : u.cfg = s.cfg) (hsfc : u.sfc = s.sfc) (hdlu : u.dlu = s.dlu) : DwellKept n s u :=
  .same (P := fun _ => False) (by rw [hsfc]) (.same hcfg hdlu) fun _ _ => id

theorem refl (n : Nat) (s : State) : DwellKept n s s := .quiet rfl rfl rfl

end DwellKept

theorem deliverTo_dwell (n : Nat) (res : ShareResult) (av : List (Nat × Nat)) (s : State) (m : Nat) :
    DwellKept n s (deliverTo res av s m) := by
  have honly := deliverTo_only res av s m
  by_cases hn : n = m
  · subst hn
    obtain ⟨r, c, t, a, hr, hc, ht, ha, -⟩ | heq := deliverTo_cases res av s n
    · obtain ⟨q, hq, hqe, -, hoff, -⟩ := deliverTo_shaft hr hc ht ha
      refine ⟨honly.1, fun x hx hdir => ?_⟩
      obtain rfl := Option.some.inj (hr.symm.trans hx)
      obtain ⟨hdwell, -, hat⟩ := (takeDelivery_gear s.now s.svp.mode c t res.targetWay a r).dwell hdir
      have hqdir : q.dir = .dwell := by rw [hqe]; exact hdwell
      obtain ⟨-, hahead, hastern⟩ := hoff (hqdir.trans hdir.symm) id
      exact ⟨⟨q, hq, hqdir, by rw [hqe]; exact hat⟩, hahead, hastern⟩
    · rw [heq]
      exact .refl n s
  · exact .same ((deliverTo_rest res av s m).1 n hn) honly fun a ha hm => hn (ofShaft_unique hm ha)

theorem recomputeShare_dwell (n : Nat) (s : State) : DwellKept n s (recomputeShare s) := by
  by_cases hm : s.svp.mode = .configuring
  · rw [recomputeShare_configuring hm]
    exact .refl n s
  · have hkept : DwellKept n s (shareKept s) := .quiet (by rw [shareKept_eq]) (by rw [shareKept_eq]) (by rw [shareKept_eq])
    have hall : DwellKept n (shareKept s) (deliverAll (shareResult s) (availabilities s) (shareKept s)) :=
      foldl_keeps (R := DwellKept n) (.refl n) .trans (deliverTo_dwell n _ _) _ _
    have hdirs : DwellKept n (deliverAll (shareResult s) (availabilities s) (shareKept s)) (recomputeShare s) := by
      rw [recomputeShare_eq hm]
      exact .quiet (by rw [noticeDirs_eq]) (by rw [noticeDirs_eq]) (by rw [noticeDirs_eq])
    exact (hkept.trans hall).trans hdirs

theorem placeAlert_dwell (n : Nat) (s : State) : DwellKept n s (placeAlert s) :=
  .quiet (by rw [placeAlert_eq]) (by rw [placeAlert_eq]) (by rw [placeAlert_eq])

theorem settleWith_dwell {n : Nat} {rc : State → State} (hrc : ∀ s, DwellKept n s (rc s)) {s : State} (parted : Bool) :
    DwellKept n s (settleWith rc parted s) := by
  have hnotice (force : Bool) (q : State) : DwellKept n q (shuNoticeWith rc force q) :=
    shuNoticeWith_cases (DwellKept n q) (fun _ _ => .refl n q) (fun _ _ => hrc q) fun _ =>
      (((DwellKept.quiet rfl rfl rfl : DwellKept n q (withContributing q)).trans (hrc _)).trans
        (DwellKept.quiet rfl rfl rfl : DwellKept n _ (stcNotice _))).trans (placeAlert_dwell n _)
  exact settleWith_of_notice (DwellKept n s) parted
    ((DwellKept.quiet rfl rfl rfl : DwellKept n s (withCoupling s)).trans (hnotice _ _))
    fun v hv => hv.trans (placeAlert_dwell n v)

theorem released_lines (s : State) : OnlyLines (fun a => ∃ m, ofWinch m a) s (released s) := by
  have hpush : OnlyLines (fun a => ∃ m, ofWinch m a) s (pushMakeUp s) := .same (by rw [pushMakeUp_eq]) (by rw [pushMakeUp_eq])
  have hall : OnlyLines (fun a => ∃ m, ofWinch m a) (pushMakeUp s)
      ((numbers s.cpc.winches.length).foldl releaseOne (pushMakeUp s)) := .fold releaseOne_lines _ _
  exact (hpush.trans hall).trans (.same rfl rfl)

theorem finishPullOff_dwell (n : Nat) (s : State) : DwellKept n s (finishPullOff s) := by
  have hreleased : DwellKept n s (released s) :=
    .same (by rw [released_eq]) (released_lines s) fun _ => ofShaft_not_ofWinch
  exact hreleased.trans (settleWith_dwell (s := released s) (recomputeShare_dwell n) false)

/-! ## A pull-off that begins (R99) -/

/-- The couplings as a pull-off that begins leaves them, before the SHU and the completion check. -/
def halted (o : Origin) (s : State) : State :=
  changeWinches haltHaul { s with cpc := { s.cpc with pullOff := some { origin := o, expiry := s.now + pullOffWait s } } }

theorem beginPullOff_eq (o : Origin) (s : State) : beginPullOff o s = completePullOff (shuNotice false (halted o s)) := rfl

theorem haltHaul_eq (w : Winch) : haltHaul w = { w with state := (haltHaul w).state, timerAt := (haltHaul w).timerAt } := by
  unfold haltHaul
  split <;> rfl

theorem haltHaul_other {w : Winch} (h : w.state ≠ .hauling) : haltHaul w = w := if_neg h

theorem haltHaul_fast (w : Winch) : winchFast (haltHaul w) = winchFast w := by
  unfold haltHaul
  split
  next h => simp [winchFast, h]
  · rfl

theorem halted_is {o : Origin} {s : State} {n : Nat} {w : Winch} (hw : getN s.cpc.winches n = some w) :
    WinchIs n w (withLines (haltHaul w)) s (halted o s) := by
  have h := changeWinches_is (f := haltHaul)
    (s := { s with cpc := { s.cpc with pullOff := some { origin := o, expiry := s.now + pullOffWait s } } })
    (fun w => by rw [haltHaul_eq]) (fun w => by rw [haltHaul_eq])
    (fun w hw => by
      unfold haltHaul at hw
      split at hw
      · cases hw
      · exact hw) hw
  have hset : Reacts s { s with cpc := { s.cpc with pullOff := some { origin := o, expiry := s.now + pullOffWait s } } } :=
    cpc_reacts _ s rfl
  exact ⟨hset.trans h.reacts, h.winch, h.valves.between (P := fun _ => False) (fun _ _ => id) (.same rfl rfl) (.refl _) h.reacts.cfg⟩

theorem halted_told (o : Origin) (s : State) : Told s (halted o s) := (cpc_told _ s).trans (changeWinches_told haltHaul _)

theorem halted_cpc (o : Origin) (s : State) : (halted o s).cpc = { s.cpc with
      pullOff := some { origin := o, expiry := s.now + pullOffWait s }, winches := (halted o s).cpc.winches } ∧
    (halted o s).cpc.winches.length = s.cpc.winches.length := by
  obtain ⟨honly, hlen⟩ := changeWinches_only haltHaul
    { s with cpc := { s.cpc with pullOff := some { origin := o, expiry := s.now + pullOffWait s } } }
  refine ⟨?_, hlen⟩
  rw [halted, honly]

/-- The halt of the hauls does not change what the make-up record shows. -/
theorem halted_record (o : Origin) (s : State) : makeUpRecord (halted o s) = makeUpRecord s := by
  obtain ⟨-, hlen⟩ := halted_cpc o s
  have hfast : (halted o s).cpc.winches.map winchFast = s.cpc.winches.map winchFast := by
    refine map_eq_of_getN fun n => ?_
    cases hw : getN s.cpc.winches n with
    | some w =>
      rw [(halted_is hw).winch]
      exact congrArg some (haltHaul_fast w)
    | none =>
      cases hx : getN (halted o s).cpc.winches n with
      | none => rfl
      | some x =>
        have hsome := getN_isSome (hlen ▸ mem_numbers_of_getN hx)
        rw [hw] at hsome
        cases hsome
  have hrecord (v : State) : makeUpRecord v =
      List.zipWith (fun c m => ({ target := c.target, made := m } : MakeUp)) v.cfg.winches (v.cpc.winches.map winchFast) := by
    rw [List.zipWith_map_right, makeUpRecord, List.map_zip_eq_zipWith]
    rfl
  rw [hrecord, hrecord, hfast, (halted_told o s).cfg]

/-- The SHU told of a pull-off: out of contribution, with the pull-off kept or completed by what that delivers. -/
theorem shuNotice_pullOff {a : State} (hp : a.cpc.pullOff.isSome = true) : (shuNotice false a).shu.contributing = false ∧
    (CouplingsKept a (shuNotice false a) ∨ (Completes a (shuNotice false a) ∧ shaftsDown (shuNotice false a) = true)) := by
  have hnow : contributingNow a = false := by
    rw [← Bool.not_eq_true, contributingNow_iff]
    intro h
    obtain ⟨-, -, -, h, -⟩ := h
    simp [h] at hp
  refine shuNoticeWith_cases (fun v => v.shu.contributing = false ∧
    (CouplingsKept a v ∨ (Completes a v ∧ shaftsDown v = true))) (fun h _ => ⟨h.symm.trans hnow, .inl (.refl a)⟩) nofun fun _ => ?_
  have hshu : (withContributing a).shu.contributing = false := hnow
  have hafter (v : State) : (placeAlert (stcNotice v)).shu = v.shu ∧ CouplingsKept v (placeAlert (stcNotice v)) ∧
      shaftsDown (placeAlert (stcNotice v)) = shaftsDown v := by
    refine ⟨by rw [placeAlert_eq]; rfl, (stcNotice_kept v).trans (placeAlert_kept _), shaftsDown_congr ?_ ?_⟩
    · rw [placeAlert_eq]
      rfl
    · rw [placeAlert_eq]
      rfl
  have hshare : CouplingsKept a (recomputeShare (withContributing a)) :=
    (CouplingsKept.same rfl rfl rfl : CouplingsKept a (withContributing a)).trans (recomputeShare_kept _)
  obtain ⟨heq, -⟩ | ⟨-, hdown, heq⟩ := recompute_cases (withContributing a)
  · obtain ⟨hcontributing, -⟩ := recomputeShare_told_shu (withContributing a)
    obtain ⟨kshu, kkept, -⟩ := hafter (recomputeShare (withContributing a))
    rw [heq, kshu]
    exact ⟨hcontributing.trans hshu, .inl (hshare.trans kkept)⟩
  · obtain ⟨kshu, kkept, kdown⟩ := hafter (finishPullOff (recomputeShare (withContributing a)))
    have htold : Told a (recomputeShare (withContributing a)) := (withContributing_told a).trans (recomputeShare_told _)
    rw [heq, kshu, kdown]
    exact ⟨finishPullOff_contributing _, .inr ⟨⟨hp, _, htold, hshare, hdown, (finishPullOff_follows _).trans kkept⟩,
      (finishPullOff_reacts hdown).down hdown⟩⟩

/-- A pull-off begun: kept where a shaft is above its threshold, and completed where none is (R99, R100). -/
theorem beginPullOff_settled (o : Origin) (s : State) : (beginPullOff o s).shu.contributing = false ∧
    (shaftsDown (beginPullOff o s) = false → CouplingsKept (halted o s) (beginPullOff o s)) ∧
    (shaftsDown (beginPullOff o s) = true → Completes (halted o s) (beginPullOff o s)) ∧
    CouplingsFollow (halted o s) (beginPullOff o s) := by
  have hp : (halted o s).cpc.pullOff.isSome = true := by
    rw [(halted_cpc o s).1]
    rfl
  have htold := shuNotice_told false (halted o s)
  obtain ⟨hcontributing, hcases⟩ := shuNotice_pullOff hp
  rw [beginPullOff_eq]
  generalize shuNotice false (halted o s) = v at *
  generalize halted o s = a at *
  obtain hkept | ⟨hcompletes, hdown⟩ := hcases
  · have hv : v.cpc.pullOff.isSome = true := by rw [hkept.1]; exact hp
    cases hd : shaftsDown v with
    | false =>
      have hsame : completePullOff v = v := by simp [completePullOff, hd]
      rw [hsame, hd]
      exact ⟨hcontributing, fun _ => hkept, nofun, .inl hkept⟩
    | true =>
      have hfinish : completePullOff v = finishPullOff v := by simp [completePullOff, hd, hv]
      have hcompletes : Completes a (finishPullOff v) := ⟨hp, v, htold, hkept, hd, finishPullOff_follows v⟩
      rw [hfinish, (finishPullOff_reacts hd).down hd]
      exact ⟨finishPullOff_contributing v, nofun, fun _ => hcompletes, .inr hcompletes⟩
  · have hsame : completePullOff v = v := by simp [completePullOff, hcompletes.left.1]
    rw [hsame, hdown]
    exact ⟨hcontributing, nofun, fun _ => hcompletes, .inr hcompletes⟩

end Sys2Proof.Machine
end

section
/-!
PROOFS. Release requests, withdrawals and the pull-off (O51).
-/

namespace Sys2Proof.Machine

/-! ## The pull-off timer and the withdrawal (R98, R101) -/

theorem exec_pullOffTimer (t : Nat) (s : State) : exec (.pullOffTimerExpiry t) s =
    if due (setClock t s).now ((setClock t s).cpc.pullOff.map (·.expiry)) then .next (pullOffTimeout (setClock t s))
    else .next (setClock t s) := rfl

/-- A pull-off ends without release, and the SHU is told. -/
theorem noticed_endPullOff {o : CouplingOutcome} {s : State} (hp : s.cpc.pullOff.isSome = true) {a : State}
    (ha : a.cpc = (endPullOff o s).cpc) :
    (shuNotice false a).cpc.pullOff = none ∧ (shuNotice false a).cpc.outcome = o ∧
      (shuNotice false a).cpc.outcomeAt = s.stationTime ∧ (shuNotice false a).cpc.winches = s.cpc.winches ∧
      (shuNotice false a).cpc.stack = s.cpc.stack ∧ (shuNotice false a).cpc.parted = s.cpc.parted := by
  obtain ⟨hpull, hwinches, hparted, -, hout, hstack, -⟩ := endPullOff_cpc o s
  have hcpc : (shuNotice false a).cpc = (endPullOff o s).cpc :=
    (shuNoticeWith_withoutPullOff recompute_recomputes (by rw [ha]; exact hpull)).trans ha
  rw [hcpc]
  exact ⟨hpull, (hout hp).1, (hout hp).2, hwinches, hstack, hparted⟩

theorem pullOffTimeout_ends {s : State} (hp : s.cpc.pullOff.isSome = true) : (pullOffTimeout s).cpc.pullOff = none ∧
    (pullOffTimeout s).cpc.outcome = .timedOut ∧ (pullOffTimeout s).cpc.outcomeAt = (pullOffTimeout s).stationTime ∧
    flagSet .releaseTimeout (pullOffTimeout s) = true ∧ (pullOffTimeout s).cpc.winches = s.cpc.winches ∧
    (pullOffTimeout s).cpc.stack = s.cpc.stack ∧ (pullOffTimeout s).cpc.parted = s.cpc.parted := by
  obtain ⟨hpull, hout, hat, hwinches, hstack, hparted⟩ :=
    noticed_endPullOff (o := .timedOut) hp (a := raiseFlag .releaseTimeout (endPullOff .timedOut s)) rfl
  refine ⟨hpull, hout, hat.trans (pullOffTimeout_told s).stationTime.symm, ?_, hwinches, hstack, hparted⟩
  have hflag := shuNoticeWith_flags (force := false) recompute_recomputes
    (s := raiseFlag .releaseTimeout (endPullOff .timedOut s)) .releaseTimeout nofun
  refine hflag.trans ?_
  rw [flagSet_raiseFlag]
  simp

theorem withdrawRelease_own {o : Origin} {s : State} {p : PullOff} (hp : s.cpc.pullOff = some p) (ho : p.origin = o) :
    withdrawRelease o s = shuNotice false (endPullOff .withdrawn s) := by
  simp only [withdrawRelease, hp]
  exact if_pos ho

theorem withdrawRelease_other {o : Origin} {s : State} (h : ∀ p, s.cpc.pullOff = some p → p.origin ≠ o) :
    withdrawRelease o s = s := by
  unfold withdrawRelease
  split
  next p hp => exact if_neg (h p hp)
  · rfl

/-! ## The release request (R98, R99) -/

theorem haulingCount_eq_zero {s : State} : haulingCount s = 0 ↔ ∀ w ∈ s.cpc.winches, w.state ≠ .hauling := by
  simp [haulingCount]

theorem releaseRequest_free {o : Origin} {s : State} (hp : s.cpc.pullOff = none) (hfree : s.cpc.summary = .free)
    (hnone : ∀ w ∈ s.cpc.winches, w.state ≠ .hauling) : releaseRequest o s = setOutcome .releaseIgnoredFree s := by
  have hactive : ¬s.cpc.pullOff.isSome = true := by rw [hp]; nofun
  rw [releaseRequest, if_neg hactive, if_pos ⟨hfree, haulingCount_eq_zero.2 hnone⟩]

theorem releaseRequest_begins {o : Origin} {s : State} (hp : s.cpc.pullOff = none)
    (h : s.cpc.summary ≠ .free ∨ ∃ w ∈ s.cpc.winches, w.state = .hauling) : releaseRequest o s = beginPullOff o s := by
  have hactive : ¬s.cpc.pullOff.isSome = true := by rw [hp]; nofun
  rw [releaseRequest, if_neg hactive, if_neg]
  rw [haulingCount_eq_zero]
  rintro ⟨hfree, hnone⟩
  obtain h | ⟨w, hw, hst⟩ := h
  · exact h hfree
  · exact hnone w hw hst

/-- What a pull-off that begins leaves. -/
theorem beginPullOff_leaves (o : Origin) (s : State) {u : State} (hu : u = beginPullOff o s) :
    u.shu.contributing = false ∧
      (∀ n w, getN s.cpc.winches n = some w → w.state = .hauling →
        ∃ q, getN u.cpc.winches n = some q ∧ q.state = .slack ∧ q.timerAt = none ∧ q.note = w.note ∧
          q.tension = w.tension ∧ Valves n 0 0 w q s u) ∧
      (shaftsDown u = false →
        u.cpc.pullOff = some { origin := o, expiry := s.now + pullOffWait s } ∧
          u.cpc.outcome = s.cpc.outcome ∧ u.cpc.stack = s.cpc.stack ∧
          ∀ n w, getN s.cpc.winches n = some w →
            ∃ q, getN u.cpc.winches n = some q ∧ q.note = w.note ∧ q.tension = w.tension ∧ ValvesByState n w q s u ∧
              (w.state = .hauling → q.state = .slack ∧ q.timerAt = none) ∧
              (w.state ≠ .hauling → q.state = w.state ∧ q.timerAt = w.timerAt ∧ q.pulse = w.pulse)) ∧
      (shaftsDown u = true → Released s u) := by
  obtain ⟨hcontributing, hkept, hcompletes, hfollows⟩ := beginPullOff_settled o s
  obtain ⟨hcpc, -⟩ := halted_cpc o s
  rw [← hu] at hcontributing hkept hcompletes hfollows
  refine ⟨hcontributing, fun n w hw hst => ?_, fun hdown => ?_, fun hdown => ?_⟩
  · have hslack : haltHaul w = { w with state := .slack, timerAt := none } := if_pos hst
    have his := halted_is (o := o) hw
    rw [hslack] at his
    obtain ⟨hq, hvalves⟩ := his.settled hfollows rfl rfl
    exact ⟨_, hq, rfl, rfl, rfl, rfl, hvalves⟩
  · have hkept := hkept hdown
    refine ⟨by rw [hkept.1, hcpc], by rw [hkept.1, hcpc], by rw [hkept.1, hcpc], fun n w hw => ?_⟩
    obtain ⟨hq, hvalves⟩ := (halted_is (o := o) hw).kept hkept
    have hsame := haltHaul_eq w
    refine ⟨_, hq, by rw [hsame]; rfl, by rw [hsame]; rfl, valvesByState_iff.2 hvalves, fun hst => ?_, fun hst => ?_⟩
    · have hslack : haltHaul w = { w with state := .slack, timerAt := none } := if_pos hst
      rw [hslack]
      exact ⟨rfl, rfl⟩
    · rw [haltHaul_other hst]
      exact ⟨rfl, rfl, rfl⟩
  · refine (hcompletes hdown).released (halted_told o s) (by rw [hcpc]) (halted_record o s) fun n w hw hfast => ?_
    have his := halted_is (o := o) hw
    have hstays : haltHaul w = w := haltHaul_other fun h => by simp [winchFast, h] at hfast
    rw [hstays] at his
    exact ⟨_, his.winch, hfast, rfl, fun q hset => his.valves.1.then his.reacts hset⟩

/-! ## A control step during a pull-off (R47, R100) -/

/-- Nothing is handed on while no burn is estimated. -/
theorem burnHandOn_notEstimating {n : Nat} {s : State} (h : ∀ b, getN s.fau.burns n = some b → b.estimating = false) :
    burnHandOn n s = s := by
  unfold burnHandOn
  split
  next hb => exact if_neg (by simp [h _ hb])
  · rfl

/-- The state after a control step and its notice to the steering, before the completion check. -/
def stepped (n : Nat) (c : ShaftCfg) (r : Shaft) (s : State) : State :=
  noticeDirs (shaftDirs s) (shaftSet n (stepShaft s c) r.dir (!r.clutchWritten) s)

theorem rampStep_eq (n : Nat) (c : ShaftCfg) (r : Shaft) (s : State) :
    rampStep n c r s = noticePs (shaftPs s) (stepped n c r s) := rfl

theorem rampStep_told {n : Nat} (c : ShaftCfg) {r : Shaft} (s : State) : Told s (rampStep n c r s) :=
  ((modShaft_told n (stepShaft s c) s).trans (shaftOutputs_told n r.dir (!r.clutchWritten) _)).trans (handOn_told _ _ _)

section
variable {n : Nat} {c : ShaftCfg} {r : Shaft} {s : State}
variable (hr : getN s.sfc n = some r)
include hr

theorem stepped_shaft : ∃ q, getN (stepped n c r s).sfc n = some q ∧
    q = { stepShaft s c r with dutyWritten := some (stepShaft s c r).duty, clutchWritten := q.clutchWritten } ∧
    (∀ m, m ≠ n → getN (stepped n c r s).sfc m = getN s.sfc m) ∧
    ShaftLines n (r.clutchWritten = false) r q s (stepped n c r s) ∧
    (q.dir ≠ r.dir → SteeringInForce (stepped n c r s)) ∧
    stepped n c r s = { s with
      sfc := (stepped n c r s).sfc, dlu := (stepped n c r s).dlu, stc := (stepped n c r s).stc } := by
  obtain ⟨-, -, -, -, -, -, heq⟩ := stepShaft_eq s c r
  have h := shaftSet_noticed (u := stepped n c r s) (stepShaft s c) (!r.clutchWritten) hr (by rw [heq]) (by rw [heq]) rfl
  rwa [show ((!r.clutchWritten) = true) = (r.clutchWritten = false) by simp] at h

/-- The thresholds after the step: that of its own shaft and those of the others. -/
theorem stepped_down (hc : getN s.cfg.shafts n = some c) : shaftsDown (stepped n c r s) = true ↔
    (stepShaft s c r).p ≤ c.releaseThreshold ∧
      ∀ m x k, m ≠ n → getN s.sfc m = some x → getN s.cfg.shafts m = some k → x.p ≤ k.releaseThreshold := by
  obtain ⟨q, hq, hqe, hother, -, -, hframe⟩ := stepped_shaft (c := c) hr
  have hcfg : (stepped n c r s).cfg = s.cfg := by rw [hframe]
  have hp : q.p = (stepShaft s c r).p := by rw [hqe]
  rw [shaftsDown_iff, hcfg]
  refine ⟨fun h => ⟨hp ▸ h n q c hq hc, fun m x k hm hx hk => h m x k ((hother m hm).trans hx) hk⟩, fun h m x k hx hk => ?_⟩
  obtain ⟨hown, hothers⟩ := h
  by_cases hm : m = n
  · subst hm
    obtain rfl := Option.some.inj (hq.symm.trans hx)
    obtain rfl := Option.some.inj (hc.symm.trans hk)
    rw [hp]
    exact hown
  · exact hothers m x k hm ((hother m hm).symm.trans hx) hk

/-- The step that brings the last set-point down completes the pull-off. -/
theorem rampStep_completes (hp : s.cpc.pullOff.isSome = true)
    (hmoves : (stepShaft s c r).p ≠ r.p) (hdown : shaftsDown (stepped n c r s) = true) :
    rampStep n c r s = finishPullOff (stepped n c r s) := by
  obtain ⟨q, hq, hqe, -, -, -, hframe⟩ := stepped_shaft (c := c) hr
  have hps : shaftPs (stepped n c r s) ≠ shaftPs s := by
    intro heq
    have hn := congrArg (fun l => getN l n) heq
    simp only [shaftPs, getN_map, hq, hr, Option.map_some, Option.some.injEq] at hn
    exact hmoves (by rw [← hn, hqe])
  have hpull : (stepped n c r s).cpc.pullOff = s.cpc.pullOff := by rw [hframe]
  rw [rampStep_eq, noticePs, if_neg hps, completePullOff, if_pos]
  rw [hpull, hp, hdown]
  rfl

/-- Any other step leaves it in progress. -/
theorem rampStep_leaves (h : (stepShaft s c r).p = r.p ∨ shaftsDown (stepped n c r s) = false) :
    rampStep n c r s = stepped n c r s := by
  obtain ⟨q, hq, hqe, hother, -⟩ := stepped_shaft (c := c) hr
  rw [rampStep_eq]
  obtain h | h := h
  · exact noticePs_same (shaftPs_eq hr hq (by rw [hqe]; exact h) hother)
  · unfold noticePs
    split
    · rfl
    · rw [completePullOff, h, Bool.and_false]
      rfl

/-- The completed pull-off, and the shaft that goes to DWELL in the same step. -/
theorem rampStep_released (hp : s.cpc.pullOff.isSome = true)
    (hmoves : (stepShaft s c r).p ≠ r.p) (hdown : shaftsDown (stepped n c r s) = true) :
    Released s (rampStep n c r s) ∧
      ((stepShaft s c r).p = 0 → r.target ≠ 0 →
        ((r.dir = .ahead ∧ r.targetWay = some .astern) ∨ (r.dir = .astern ∧ r.targetWay = some .ahead)) →
        ∃ q, getN (rampStep n c r s).sfc n = some q ∧ q.dir = .dwell ∧ q.dwellAt = some (s.now + c.dwell) ∧
          Written (.clutchAhead n) 0 s (rampStep n c r s) ∧ Written (.clutchAstern n) 0 s (rampStep n c r s)) := by
  obtain ⟨-, -, -, -, -, hsettled, heq⟩ := stepShaft_eq s c r
  obtain ⟨q, hq, hqe, -, hlines, -, hframe⟩ := stepped_shaft (c := c) hr
  rw [rampStep_completes hr hp hmoves hdown]
  have hdwell := finishPullOff_dwell n (stepped n c r s)
  have hfollows := finishPullOff_follows (stepped n c r s)
  generalize finishPullOff (stepped n c r s) = u at *
  have hcfg : (stepped n c r s).cfg = s.cfg := by rw [hframe]
  have honly : OnlyLines (fun a => ∃ m, ofShaft m a) s (stepped n c r s) := by
    have hset : OnlyLines (fun a => ∃ m, ofShaft m a) s (shaftSet n (stepShaft s c) r.dir (!r.clutchWritten) s) :=
      ((OnlyLines.same rfl rfl : OnlyLines (ofShaft n) s (modShaft n (stepShaft s c) s)).trans
        (shaftOutputs_only n r.dir (!r.clutchWritten) _)).mono fun a ha => ⟨n, ha⟩
    exact hset.trans (.same (by rw [stepped, noticeDirs_eq]) (by rw [stepped, noticeDirs_eq]))
  have htold : Told s (stepped n c r s) :=
    ((modShaft_told n (stepShaft s c) s).trans (shaftOutputs_told n r.dir (!r.clutchWritten) _)).trans (noticeDirs_told _ _)
  have hcompletes : Completes s u := ⟨hp, _, htold, ⟨by rw [hframe], honly⟩, hdown, hfollows⟩
  refine ⟨hcompletes.released (.refl s) rfl rfl fun n w hw hfast => ⟨w, hw, hfast, rfl, fun q hset => hset.1⟩,
    fun hzero htarget hreverse => ?_⟩
  obtain ⟨-, -, hreverses, -⟩ := hsettled
  have htargets : (stepShaft s c r).target = r.target ∧ (stepShaft s c r).targetWay = r.targetWay := by
    rw [heq]
    exact ⟨rfl, rfl⟩
  rw [htargets.1, htargets.2] at hreverses
  obtain ⟨hdir, hat⟩ := hreverses ⟨hzero, htarget, hreverse⟩
  have hqdir : q.dir = .dwell := by rw [hqe]; exact hdir
  have hqat : q.dwellAt = some (s.now + c.dwell) := by rw [hqe]; exact hat
  have hchanged : q.dir ≠ r.dir := by
    rw [hqdir]
    obtain ⟨h, -⟩ | ⟨h, -⟩ := hreverse <;> rw [h] <;> nofun
  obtain ⟨hon, -⟩ := hlines
  obtain ⟨-, hahead, hastern⟩ := hon (.inl hchanged)
  rw [hqdir] at hahead hastern
  obtain ⟨-, hkept⟩ := hdwell
  obtain ⟨⟨y, hy, hydir, hyat⟩, kahead, kastern⟩ := hkept q hq hqdir
  exact ⟨y, hy, hydir, hyat.trans hqat, hahead.kept hcfg kahead, hastern.kept hcfg kastern⟩

end

/-! ## The panel's release-own and remake-own (R98, R104, R194) -/

theorem handOnPanel_releaseOn (p : Panel) (own : Bool) (s : State) (h : p.releaseOwn = false) :
    handOnPanel p { p with releaseOwn := true } own s = releaseRequest .panel s := by
  cases hp : p.partedAck <;> cases hm : p.remakeOwn <;>
    simp [handOnPanel, handOnLever, handOnClaim, handOnSets, handOnCouplings, handOnRelease, h, hp, hm]

theorem handOnPanel_releaseOff (p : Panel) (own : Bool) (s : State) (h : p.releaseOwn = true) :
    handOnPanel p { p with releaseOwn := false } own s = withdrawRelease .panel s := by
  cases hp : p.partedAck <;> cases hm : p.remakeOwn <;>
    simp [handOnPanel, handOnLever, handOnClaim, handOnSets, handOnCouplings, handOnRelease, h, hp, hm]

theorem handOnPanel_remakeOn (p : Panel) (own : Bool) (s : State) (h : p.remakeOwn = false) :
    handOnPanel p { p with remakeOwn := true } own s = remakeOwn s := by
  cases hp : p.partedAck <;>
    simp [handOnPanel, handOnLever, handOnClaim, handOnSets, handOnCouplings, handOnRelease, h, hp]

/-- Settles O51: the timer, the requests and withdrawals, the control step, and the panel. -/
theorem pullOffTimesOut : Obligations.PullOffTimesOut := by
  refine ⟨fun t s => ⟨fun p hp hdue => ?_, fun hnot => ?_⟩, fun o s => ⟨fun hp => if_pos hp,
    fun hp hfree hnone => releaseRequest_free hp hfree hnone, fun hp h _ => ?_, fun p hp ho => ?_, withdrawRelease_other⟩, ?_,
    fun t lever tiller flags release remake s hm => ?_⟩
  · have hpull : (setClock t s).cpc.pullOff = some p := hp
    have hends := pullOffTimeout_ends (s := setClock t s) (by rw [hpull]; rfl)
    obtain ⟨h1, h2, h3, h4, h5, h6, h7⟩ := hends
    refine ⟨_, ?_, h1, h2, h3, h4, h5, h6, h7⟩
    rw [exec_pullOffTimer, hpull]
    exact if_pos (due_some.2 hdue)
  · rw [exec_pullOffTimer]
    refine if_neg ?_
    show ¬due (setClock t s).now (s.cpc.pullOff.map (·.expiry)) = true
    cases hp : s.cpc.pullOff with
    | none => nofun
    | some p => exact fun h => Nat.not_le.2 (hnot p hp) (due_some.1 h)
  · exact beginPullOff_leaves o s (releaseRequest_begins hp h)
  · obtain ⟨h1, h2, h3, h4, h5, -⟩ := noticed_endPullOff (o := .withdrawn) (s := s) (by rw [hp]; rfl)
      (a := endPullOff .withdrawn s) rfl
    rw [withdrawRelease_own hp ho]
    exact ⟨h1, h2, h3, h4, h5⟩
  · intro t n e s r c hr hc hat hdue hpull hm hnone emergency up down p othersDown
    have hexec := exec_controlStep (t := t) hr hc
    have hstays : burnHandOn n (rampStep n c r (setClock t s)) = rampStep n c r (setClock t s) := by
      refine burnHandOn_notEstimating fun b hb => hnone b ?_
      rw [(rampStep_told c (setClock t s)).fau] at hb
      exact hb
    rw [hat, if_pos (due_some.2 hdue), hstays] at hexec
    obtain ⟨-, hramp, -, -, hstep, hsettled, heq⟩ := stepShaft_eq (setClock t s) c r
    have hp : (stepShaft (setClock t s) c r).p = p := hramp
    have hr' : getN (setClock t s).sfc n = some r := hr
    have hiff := stepped_down (s := setClock t s) hr' hc
    rw [hp] at hiff
    refine ⟨_, hexec, fun hmoves hlow hothers => ?_, fun hnot => ?_⟩
    · have hdown : shaftsDown (stepped n c r (setClock t s)) = true := hiff.2 ⟨hlow, hothers⟩
      obtain ⟨hreleased, hdwell⟩ := rampStep_released (s := setClock t s) hr' hpull (by rw [hp]; exact hmoves) hdown
      rw [hp] at hdwell
      exact ⟨hreleased, hdwell⟩
    · have hleaves : rampStep n c r (setClock t s) = stepped n c r (setClock t s) := by
        refine rampStep_leaves (s := setClock t s) hr' ?_
        obtain h | h | h := hnot
        · exact .inl (hp.trans h)
        · exact .inr (Bool.eq_false_iff.2 fun hdown => Nat.not_le.2 h (hiff.1 hdown).1)
        · exact .inr (Bool.eq_false_iff.2 fun hdown => h (hiff.1 hdown).2)
      obtain ⟨q, hq, hqe, -, hlines, hsteering, hframe⟩ := stepped_shaft (s := setClock t s) (c := c) hr'
      rw [hleaves]
      refine ⟨by rw [hframe]; rfl, q, hq, by rw [hqe]; exact hp, ?_, ?_, hlines, ?_, ?_, ?_, hsteering⟩
      · rw [hqe]
        exact hstep.trans (congrArg (restartTimer _) hat)
      · rw [hqe]
        exact hsettled
      · rw [hqe, heq]
      · rw [hqe, heq]
      · rw [hqe, heq]
  · refine ⟨fun hoff hnew => ?_, fun hon hnew => ?_, fun hoff hnew => ?_⟩
    · rw [exec_panel hm, hnew, handOnPanel_releaseOn _ _ _ hoff]
      rfl
    · rw [exec_panel hm, hnew, handOnPanel_releaseOff _ _ _ hon]
      rfl
    · rw [exec_panel hm, hnew, handOnPanel_remakeOn _ _ _ hoff]
      rfl

end Sys2Proof.Machine
end

section
/-!
PROOFS. RESTART (O20).
-/

namespace Sys2Proof.Machine

/-! ## What RESTART sets (R22, R44, R101, R154, R182, R193) -/

theorem restartBase_view (s : State) : (restartBase s).cvu = { restartView s.cvu with
    powerNom := (restartBase s).cvu.powerNom, rudderNom := (restartBase s).cvu.rudderNom } := by
  simp only [restartBase, keepSums]
  rw [endPullOff_eq]

theorem restartBase_cpc (s : State) : (restartBase s).cpc.pullOff = none ∧ (restartBase s).cpc.stack = s.cpc.stack ∧
    (s.cpc.pullOff.isSome = true → (restartBase s).cpc.outcome = .restarted) := by
  obtain ⟨hpull, -, -, -, hout, hstack, -⟩ := endPullOff_cpc .restarted { s with
    svp := { s.svp with mode := .joining, startCause := .restart, joinAt := some (s.now + s.cfg.lostTime) }
    lif := restartLine s.now s.cfg s.lif
    cvu := restartView s.cvu
    shu := restartShare s.shu
    pgu := { chans := s.pgu.chans.map restartChan } }
  exact ⟨hpull, hstack, fun hp => (hout hp).1⟩

/-! ## What the blocks make of it -/

/-- The SHU, the STC and the CPC have been told of a RESTART. -/
def restartTold (s : State) : State := settle false (stcNotice (shuNotice true (restartBase s)))

theorem restartAll_eq (s : State) : restartAll s = startChans (restartFuel (fuelTotals (restartTold s))) := rfl

theorem restartTold_told (s : State) : Told (restartBase s) (restartTold s) :=
  ((shuNotice_told true _).trans (stcNotice_told _)).trans (settle_told false _)

theorem restartTold_line (s : State) : AlertsOnly (restartBase s).lif (restartTold s).lif :=
  (shuNoticeWith_line (s := restartBase s) (force := true) recompute_recomputes).trans
    (settleWith_line (s := stcNotice (shuNotice true (restartBase s))) recompute_recomputes false)

theorem restartTold_shu (s : State) : (restartTold s).shu.departing = false ∧ (restartTold s).shu.muted = true ∧
    (restartTold s).shu.contributing = false := by
  obtain ⟨hmuted, hdeparting, -⟩ := shuNoticeWith_kept (s := restartBase s) (force := true) recompute_recomputes
  obtain ⟨kmuted, kdeparting, -⟩ :=
    settleWith_kept (s := stcNotice (shuNotice true (restartBase s))) recompute_recomputes false
  have hshu : (restartBase s).shu = restartShare s.shu := by rw [restartBase_eq]
  have hmode : (restartTold s).svp.mode = .joining := (restartTold_told s).mode.trans (by rw [restartBase_eq])
  have hcontributes : ContributesInForce (restartTold s) :=
    settleWith_contributes recompute_recomputes (s := stcNotice (shuNotice true (restartBase s))) false
  refine ⟨(kdeparting.trans hdeparting).trans (by rw [hshu]; rfl), (kmuted.trans hmuted).trans (by rw [hshu]; rfl), ?_⟩
  rw [hcontributes, ← Bool.not_eq_true, contributingNow_iff]
  rintro ⟨hrunning, -⟩
  cases hmode.symm.trans hrunning

theorem restartTold_cpc (s : State) : (restartTold s).cpc.pullOff = none ∧ (restartTold s).cpc.stack = s.cpc.stack ∧
    (s.cpc.pullOff.isSome = true → (restartTold s).cpc.outcome = .restarted) := by
  obtain ⟨hpull, hstack, hout⟩ := restartBase_cpc s
  have hnotice : (shuNotice true (restartBase s)).cpc = (restartBase s).cpc :=
    shuNoticeWith_withoutPullOff recompute_recomputes hpull
  have hcpc : (restartTold s).cpc = (withCoupling (stcNotice (shuNotice true (restartBase s)))).cpc :=
    settleWith_withoutPullOff recompute_recomputes false (by rw [stcNotice_cpc, hnotice]; exact hpull)
  have hkept : (withCoupling (stcNotice (shuNotice true (restartBase s)))).cpc =
      { (restartBase s).cpc with
        summary := summaryNow (stcNotice (shuNotice true (restartBase s)))
        fCpl := fCplNow (stcNotice (shuNotice true (restartBase s))) } := by
    rw [withCoupling, stcNotice_cpc, hnotice]
  rw [hcpc, hkept]
  exact ⟨hpull, hstack, hout⟩

/-- From `s` to `u` the fuel books, the drive lines and the flags alone have changed. -/
def FuelOnly (s u : State) : Prop :=
  u = { s with svp := { s.svp with flags := u.svp.flags }, fau := u.fau, dlu := u.dlu }

theorem FuelOnly.refl (s : State) : FuelOnly s s := rfl

theorem FuelOnly.trans {s t u : State} (h : FuelOnly s t) (k : FuelOnly t u) : FuelOnly s u := by
  rw [FuelOnly] at *
  rw [k, h]

theorem fuelTotals_only (s : State) : FuelOnly s (fuelTotals s) := rfl

theorem topUp_only (s : State) : FuelOnly s (topUp s) := by
  rw [FuelOnly, topUp_frame]

theorem stopTransfer_only (reason : EndReason) (s : State) : FuelOnly s (stopTransfer reason s) := by
  refine FuelOnly.trans ?_ (topUp_only (transferStopped reason s))
  rw [FuelOnly, transferStopped_frame]

theorem endBunker_only (reason : EndReason) (s : State) : FuelOnly s (endBunker reason s) := by
  refine FuelOnly.trans ?_ (topUp_only (bunkerEnded reason s))
  rw [FuelOnly, bunkerEnded_frame]

/-- A transfer in flight, then a bunkering, is ended, and the top-up check is made (R137). -/
theorem restartFuel_eq (s : State) : ∃ v, restartFuel s = topUp v ∧ FuelOnly s v ∧ v.fau.bunker.running = false := by
  refine ⟨_, rfl, ?_, ?_⟩
  all_goals generalize hw : (if s.fau.transfer.running then stopTransfer .restart s else s) = w
  · have hstop : FuelOnly s w := by
      rw [← hw]
      split
      · exact stopTransfer_only .restart s
      · exact .refl s
    refine hstop.trans ?_
    split
    · exact endBunker_only .restart w
    · exact .refl w
  · split
    · rw [endBunker_eq, topUp_bunker, (bunkerEnded_records .restart w).1]
    next h => simpa using h

theorem restartFuel_only (s : State) : FuelOnly s (restartFuel s) ∧ (restartFuel s).fau.bunker.running = false := by
  obtain ⟨v, heq, honly, hbunker⟩ := restartFuel_eq s
  rw [heq, topUp_bunker]
  exact ⟨honly.trans (topUp_only v), hbunker⟩

/-! ## The gauge requests (R154) -/

theorem takeOnce_health (s : State) : (takeOnce s).pgu.chans.map (·.health) = s.pgu.chans.map (·.health) := by
  unfold takeOnce
  split
  · exact map_modN Chan.health (fun c => { c with req := .measuring }) (fun _ => rfl) _ _
  · rfl

theorem startChan_health (s : State) (n : Nat) :
    (startChan s n).pgu.chans.map (·.health) = s.pgu.chans.map (·.health) := by
  unfold startChan
  split
  next k _ =>
    split
    · exact (map_modN Chan.health (fun c => { c with req := .queued }) (fun _ => rfl) _ _).trans
        (map_modN Chan.health (fun c => { c with intervalAt := some (s.now + k.interval) }) (fun _ => rfl) _ _)
    · rfl
  · rfl

theorem startChans_health (s : State) : (startChans s).pgu.chans.map (·.health) = s.pgu.chans.map (·.health) := by
  have hjoin : ((numbers 24).foldl startChan s).pgu.chans.map (·.health) = s.pgu.chans.map (·.health) :=
    foldl_keeps (R := fun t u : State => u.pgu.chans.map (·.health) = t.pgu.chans.map (·.health)) (fun _ => rfl)
      (fun h k => k.trans h) startChan_health (numbers 24) s
  rw [startChans, ← hjoin]
  generalize (numbers 24).foldl startChan s = v
  exact repeat_keeps (R := fun t u : State => u.pgu.chans.map (·.health) = t.pgu.chans.map (·.health)) (fun _ => rfl)
    (fun h k => k.trans h) takeOnce_health 6 v

/-! ## RESTART -/

/-- What stands of the blocks that have been told of a RESTART stands after it. -/
theorem restartAll_frame (s : State) : FuelOnly (restartTold s) { restartAll s with pgu := (restartTold s).pgu } ∧
    (restartAll s).fau.bunker.running = false ∧
    (restartAll s).pgu.chans.map (·.health) = s.pgu.chans.map (·.health) := by
  obtain ⟨g, hg⟩ := startChans_withPgu (restartFuel (fuelTotals (restartTold s)))
  obtain ⟨honly, hbunker⟩ := restartFuel_only (fuelTotals (restartTold s))
  have hhealth := startChans_health (restartFuel (fuelTotals (restartTold s)))
  have htold := restartTold_told s
  have hfuel := (fuelTotals_only (restartTold s)).trans honly
  have hpgu : (restartBase s).pgu.chans.map (·.health) = s.pgu.chans.map (·.health) := by
    rw [restartBase_eq]
    exact List.map_map.trans rfl
  rw [restartAll_eq]
  generalize restartFuel (fuelTotals (restartTold s)) = v at *
  generalize restartTold s = r at *
  have hv : v.pgu = r.pgu := by rw [hfuel]
  refine ⟨?_, by rw [hg]; exact hbunker, hhealth.trans ?_⟩
  · rw [hg, ← hv]
    exact hfuel
  · rw [hv, htold.pgu, hpgu]

theorem restart_applied (s : State) : (restartAll s).dlu.lines.map (·.applied) = s.dlu.lines.map (·.applied) := by
  obtain ⟨g, hreacts⟩ := restartAll_reacts s
  have hlines : (withPgu g (restartBase s)).dlu.lines = s.dlu.lines := by
    rw [withPgu, restartBase_eq]
  have hcarried := congrArg (List.map Prod.fst) hreacts.carried
  rw [hlines, List.map_map, List.map_map] at hcarried
  exact hcarried

/-- The station, the view and the line after RESTART. -/
theorem restartTold_blocks (s : State) : (restartTold s).cfg = s.cfg ∧ (restartTold s).clock = s.clock ∧
    (restartTold s).svp = { s.svp with
      mode := .joining, startCause := .restart, joinAt := some (s.now + s.cfg.lostTime), flags := (restartTold s).svp.flags } ∧
    (restartTold s).cvu = { restartView s.cvu with
      powerNom := (restartTold s).cvu.powerNom, rudderNom := (restartTold s).cvu.rudderNom } ∧
    (restartTold s).lif = { restartLine s.now s.cfg s.lif with slotAlert := (restartTold s).lif.slotAlert } := by
  have htold := restartTold_told s
  have hline := restartTold_line s
  have hview := restartBase_view s
  have hbase := restartBase_eq s
  generalize restartTold s = v at *
  generalize restartBase s = b at *
  refine ⟨htold.cfg.trans (by rw [hbase]), htold.clock.trans (by rw [hbase]), ?_, ?_, ?_⟩
  · rw [htold.svp, hbase]
  · rw [htold.cvu, hview]
  · have hlif : b.lif = restartLine s.now s.cfg s.lif := by rw [hbase]
    rw [hlif] at hline
    obtain ⟨heq, hquiet⟩ := hline
    obtain ⟨hidle, htx⟩ := hquiet rfl rfl
    rw [heq, hidle, htx]
    rfl

/-- Settles O20. -/
theorem restartReturnsToJoining : Obligations.RestartReturnsToJoining := by
  intro t s hm
  have hexec : exec (.restart t) s = .next (replyOk [] (restartAll (setClock t s))) :=
    congrArg Host.Outcome.next (inService_serving (s := setClock t s) hm _)
  have happlied := restart_applied (setClock t s)
  obtain ⟨hfuel, hbunker, hhealth⟩ := restartAll_frame (setClock t s)
  obtain ⟨hcfg, hclock, hsvp, hcvu, hlif⟩ := restartTold_blocks (setClock t s)
  obtain ⟨hdeparting, hmuted, hcontributing⟩ := restartTold_shu (setClock t s)
  obtain ⟨hpull, hstack, hout⟩ := restartTold_cpc (setClock t s)
  generalize restartAll (setClock t s) = u at *
  generalize restartTold (setClock t s) = v at *
  have hu : u.clock = v.clock ∧ u.cfg = v.cfg ∧ u.lif = v.lif ∧ u.cvu = v.cvu ∧ u.shu = v.shu ∧ u.cpc = v.cpc ∧
      u.svp = { v.svp with flags := u.svp.flags } := by
    refine ⟨?_, ?_, ?_, ?_, ?_, ?_, ?_⟩
    · exact (congrArg State.clock hfuel :)
    · exact (congrArg State.cfg hfuel :)
    · exact (congrArg State.lif hfuel :)
    · exact (congrArg State.cvu hfuel :)
    · exact (congrArg State.shu hfuel :)
    · exact (congrArg State.cpc hfuel :)
    · exact (congrArg State.svp hfuel :)
  obtain ⟨uclock, ucfg, ulif, ucvu, ushu, ucpc, usvp⟩ := hu
  have hstation : u.svp = { s.svp with
      mode := .joining, startCause := .restart, joinAt := some ((setClock t s).now + s.cfg.lostTime), flags := u.svp.flags } := by
    rw [usvp, hsvp]
    rfl
  have hnow : (replyOk [] u).now = (setClock t s).now := congrArg (· / 1000) (uclock.trans hclock)
  have hview : u.cvu = { restartView s.cvu with powerNom := v.cvu.powerNom, rudderNom := v.cvu.rudderNom } := ucvu.trans hcvu
  have hline : u.lif = { restartLine (setClock t s).now s.cfg s.lif with slotAlert := u.lif.slotAlert } := by
    rw [ulif]
    exact hlif
  have hcfg : u.cfg = s.cfg := ucfg.trans hcfg
  have hpanel : (replyOk [] u).svp.mode = .joining ∧ (replyOk [] u).svp.startCause = .restart ∧
      (replyOk [] u).svp.joinAt = some ((setClock t s).now + s.cfg.lostTime) ∧ (replyOk [] u).svp.panel = s.svp.panel ∧
      (replyOk [] u).svp.panelState = s.svp.panelState ∧ (replyOk [] u).svp.panelAt = s.svp.panelAt := by
    simp only [replyOk]
    rw [hstation]
    exact ⟨rfl, rfl, rfl, rfl, rfl, rfl⟩
  have hempty : u.cvu.peers = [] ∧ u.cvu.followed = none ∧ u.cvu.helmState = .noHelm ∧ u.cvu.effD = 0 ∧ u.cvu.effDelta = 0 ∧
      u.cvu.claim = .notClaiming ∧ u.cvu.graceAt = none ∧ u.cvu.baseline = none ∧ u.cvu.ownOrder = s.cvu.ownOrder := by
    rw [hview]
    exact ⟨rfl, rfl, rfl, rfl, rfl, rfl, rfl, rfl, rfl⟩
  obtain ⟨hmode, hcause, hjoin, hkept, hstate, hat⟩ := hpanel
  obtain ⟨hpeers, hfollowed, hhelm, hd, hdelta, hclaim, hgrace, hbaseline, horder⟩ := hempty
  refine ⟨_, hexec, hmode, hcause, rfl, ?_, hcfg, hkept, hstate, hat, hpeers, hfollowed, hhelm, hd, hdelta, hclaim, hgrace,
    hbaseline, horder, ?_, ?_, ?_, ?_, ?_, fun hp => ?_, ?_, hbunker, hhealth, happlied⟩
  · rw [hjoin, hnow]
    exact congrArg (fun c : Cfg => some ((setClock t s).now + c.lostTime)) hcfg.symm
  · show u.lif = _
    rw [hnow, hline]
    exact congrArg (fun c : Cfg => { restartLine (setClock t s).now c s.lif with slotAlert := u.lif.slotAlert }) hcfg.symm
  · exact (congrArg Shu.departing ushu).trans hdeparting
  · exact (congrArg Shu.muted ushu).trans hmuted
  · exact (congrArg Shu.contributing ushu).trans hcontributing
  · exact (congrArg Cpc.pullOff ucpc).trans hpull
  · exact (congrArg Cpc.outcome ucpc).trans (hout hp)
  · exact (congrArg Cpc.stack ucpc).trans hstack

end Sys2Proof.Machine
end

section
/-!
SUPPORT. What START's notices and checks leave of records that are at rest: the shafts out of gear, nothing followed, no pull-off
(R26, R28, R57, R112, R113, R125, R136).
-/

namespace Sys2Proof.Machine

/-! ## Records at rest -/

/-- A shaft in NEUTRAL at P 0, its engine not turning and its governor line written. -/
structure Resting (c : ShaftCfg) (x : Shaft) : Prop where
  dir : x.dir = .neutral
  p : x.p = 0
  engine : engineTurns x.engine = false
  outputs : OutputsWritten c x

theorem Resting.atRest {c : ShaftCfg} {x : Shaft} (h : Resting c x) : AtRest x := ⟨.inl h.dir, h.engine⟩

/-- Every shaft is configured and at rest. -/
def ShaftsRest (s : State) : Prop := ∀ n x, getN s.sfc n = some x → ∃ c, getN s.cfg.shafts n = some c ∧ Resting c x

/-- A station JOINING with nothing in motion. -/
structure Ready (s : State) : Prop where
  mode : s.svp.mode = .joining
  contributing : s.shu.contributing = false
  pullOff : s.cpc.pullOff = none
  shafts : ShaftsRest s

/-- The balances and the journal. -/
structure BooksStay (s u : State) : Prop where
  raws : u.fau.tanks.map (·.raw) = s.fau.tanks.map (·.raw)
  journal : u.fau.journal = s.fau.journal
  serial : u.fau.nextSerial = s.fau.nextSerial
  fuelAt : u.fau.fuelAt = s.fau.fuelAt

theorem BooksStay.trans {s t u : State} (h : BooksStay s t) (k : BooksStay t u) : BooksStay s u :=
  ⟨k.raws.trans h.raws, k.journal.trans h.journal, k.serial.trans h.serial, k.fuelAt.trans h.fuelAt⟩

theorem BooksStay.same {s u : State} (h : u.fau = s.fau) : BooksStay s u :=
  ⟨by rw [h], by rw [h], by rw [h], by rw [h]⟩

/-- What START's notices and checks leave. -/
structure StartKept (s u : State) : Prop extends BooksStay s u where
  cfg : u.cfg = s.cfg
  mode : u.svp.mode = s.svp.mode
  cvu : u.cvu = s.cvu
  lif : u.lif = s.lif
  cpc : u.cpc = s.cpc
  stc : u.stc = s.stc
  contributing : u.shu.contributing = s.shu.contributing
  muted : u.shu.muted = s.shu.muted
  length : u.sfc.length = s.sfc.length
  shaftLines : ∀ n ∈ numbers s.sfc.length, ∀ a, ofShaft n a → LineKept a s u
  winchLines : ∀ n a, ofWinch n a → LineKept a s u

theorem StartKept.trans {s t u : State} (h : StartKept s t) (k : StartKept t u) : StartKept s u where
  toBooksStay := h.toBooksStay.trans k.toBooksStay
  cfg := k.cfg.trans h.cfg
  mode := k.mode.trans h.mode
  cvu := k.cvu.trans h.cvu
  lif := k.lif.trans h.lif
  cpc := k.cpc.trans h.cpc
  stc := k.stc.trans h.stc
  contributing := k.contributing.trans h.contributing
  muted := k.muted.trans h.muted
  length := k.length.trans h.length
  shaftLines n hn a ha := (h.shaftLines n hn a ha).trans h.cfg (k.shaftLines n (h.length ▸ hn) a ha)
  winchLines n a ha := (h.winchLines n a ha).trans h.cfg (k.winchLines n a ha)

/-- A step that leaves a station at rest at rest. -/
def StartStep (s u : State) : Prop := Ready s → StartKept s u ∧ ShaftsRest u

namespace StartStep

variable {s t u : State}

theorem ready (h : StartStep s u) (hs : Ready s) : Ready u := by
  obtain ⟨hkept, hrest⟩ := h hs
  exact ⟨hkept.mode.trans hs.mode, hkept.contributing.trans hs.contributing, by rw [hkept.cpc]; exact hs.pullOff, hrest⟩

theorem trans (h : StartStep s t) (k : StartStep t u) : StartStep s u := fun hs =>
  ⟨(h hs).1.trans (k (h.ready hs)).1, (k (h.ready hs)).2⟩

/-- Flags, φ and the fuel books have changed. -/
theorem books (h : u = { s with
      svp := { s.svp with flags := u.svp.flags }, shu := { s.shu with phi := u.shu.phi }, fau := u.fau })
    (hb : BooksStay s u) : StartStep s u := fun hs => by
  have hsfc : u.sfc = s.sfc := by rw [h]
  have hcfg : u.cfg = s.cfg := by rw [h]
  have hline (a : Assignment) : LineKept a s u := fun _ _ => by rw [h]
  refine ⟨⟨hb, hcfg, by rw [h], by rw [h], by rw [h], by rw [h], by rw [h], by rw [h], by rw [h], by rw [hsfc],
    fun _ _ a _ => hline a, fun _ a _ => hline a⟩, fun n x hx => ?_⟩
  rw [hsfc] at hx
  rw [hcfg]
  exact hs.shafts n x hx

theorem refl (s : State) : StartStep s s := books rfl (.same rfl)

/-- Where the step holds of a state that is ready, it holds. -/
theorem ofReady (h : Ready s → StartStep s u) : StartStep s u := fun hs => h hs hs

end StartStep

/-! ## The recompute (R28, R46) -/

theorem recomputeShare_length (s : State) : (recomputeShare s).sfc.length = s.sfc.length := by
  have h := congrArg List.length (recomputeShare_engines s)
  simpa using h

/-- Shafts at rest stay so, and their lines. -/
theorem ShaftsFollow.resting {s u : State} (h : ShaftsFollow s u) {n : Nat} {x : Shaft} {c : ShaftCfg}
    (hx : getN s.sfc n = some x) (hc : getN s.cfg.shafts n = some c) (hr : Resting c x) :
    (∃ y, getN u.sfc n = some y ∧ Resting c y) ∧ ∀ a, ofShaft n a → LineKept a s u := by
  obtain ⟨-, h⟩ := h
  obtain ⟨y, hy, heq, hrest⟩ := h n x hx
  obtain ⟨hdir, hp, -, hout⟩ := hrest hr.atRest
  obtain ⟨hduty, hwritten, -, hlines⟩ := hout c hc hr.outputs
  obtain ⟨h1, h2⟩ := hr.outputs
  have hengine : y.engine = x.engine := by rw [heq]
  exact ⟨⟨y, hy, hdir.trans hr.dir, hp.trans hr.p, by rw [hengine]; exact hr.engine, by rw [hduty, hp, h1],
    by rw [hwritten, hduty, h2]⟩, hlines⟩

theorem getN_of_length {α β : Type} {l : List α} {k : List β} (h : k.length = l.length) {n : Nat} {y : β}
    (hy : getN k n = some y) : ∃ x, getN l n = some x :=
  Option.isSome_iff_exists.1 (getN_isSome (h ▸ mem_numbers_of_getN hy))

theorem recomputeShare_starts (s : State) : StartStep s (recomputeShare s) := fun hs => by
  have hm : s.svp.mode ≠ .configuring := by rw [hs.mode]; nofun
  have hframe := recomputeShare_frame hm
  have hfollows := recomputeShare_shafts s
  have hlength := recomputeShare_length s
  have honly := recomputeShare_only s
  have hrest : ShaftsRest (recomputeShare s) := fun n y hy => by
    obtain ⟨x, hx⟩ := getN_of_length hlength hy
    obtain ⟨c, hc, hr⟩ := hs.shafts n x hx
    obtain ⟨⟨z, hz, hzr⟩, -⟩ := hfollows.resting hx hc hr
    obtain rfl := Option.some.inj (hz.symm.trans hy)
    exact ⟨c, by rw [hfollows.1]; exact hc, hzr⟩
  have hdirs : shaftDirs (recomputeShare s) = shaftDirs s := by
    refine map_eq_of_getN fun n => ?_
    cases hx : getN s.sfc n with
    | none =>
      cases hy : getN (recomputeShare s).sfc n with
      | none => rfl
      | some y =>
        obtain ⟨x, hx'⟩ := getN_of_length hlength hy
        cases hx.symm.trans hx'
    | some x =>
      obtain ⟨c, hc, hr⟩ := hs.shafts n x hx
      obtain ⟨⟨y, hy, hyr⟩, -⟩ := hfollows.resting hx hc hr
      rw [hy, Option.map_some, Option.map_some, hyr.dir, hr.dir]
  have hstc : (recomputeShare s).stc = s.stc := by
    have heq := recomputeShare_eq hm
    have hsame : shaftDirs (deliverAll (shareResult s) (availabilities s) (shareKept s)) = shaftDirs s := by
      rw [← hdirs, heq, noticeDirs_eq]
      rfl
    rw [heq, noticeDirs, if_pos hsame, deliverAll_frame, shareKept_eq]
  refine ⟨⟨.same (by rw [hframe]), by rw [hframe], by rw [hframe], by rw [hframe], by rw [hframe], by rw [hframe], hstc,
    (recomputeShare_told_shu s).1, (recomputeShare_told_shu s).2.2.1, hlength, fun n hn a ha => ?_, fun n a ha => ?_⟩, hrest⟩
  · obtain ⟨x, hx⟩ := Option.isSome_iff_exists.1 (getN_isSome hn)
    obtain ⟨c, hc, hr⟩ := hs.shafts n x hx
    exact (hfollows.resting hx hc hr).2 a ha
  · exact honly.2 a (ofWinch_not_ofShaft ha)

theorem recompute_starts (s : State) : StartStep s (recompute s) := .ofReady fun hs => by
  rw [recompute_withoutPullOff hs.pullOff]
  exact recomputeShare_starts s

/-! ## Engines out of fuel (R57) -/

/-- An engine's state set by the report of a band. -/
def engineSet (e : Engine) (q : Shaft) : Shaft := { q with engine := e, deviation := none, deviationAt := none }

theorem shaftOutputs_same {n : Nat} {s : State} {r : Shaft} (hr : getN s.sfc n = some r) (hw : r.dutyWritten = some r.duty) :
    shaftOutputs n r.dir false s = s := by
  have hclutches : writeClutchesIf n r.dir false s = s := by simp [writeClutchesIf, hr]
  rw [shaftOutputs, hclutches]
  simp [writeGovernor, hr, hw]

theorem handOn_same {s v : State} (hd : shaftDirs v = shaftDirs s) (hp : shaftPs v = shaftPs s) :
    handOn (shaftDirs s) (shaftPs s) v = v := by
  rw [handOn, noticeDirs, if_pos hd]
  exact noticePs_same hp

/-- A shaft at rest whose engine runs out of fuel changes in its engine alone. -/
theorem actShaft_resting {n : Nat} {s : State} {r : Shaft} {c : ShaftCfg} (hr : getN s.sfc n = some r) (h : Resting c r) (e : Engine) :
    actShaft n (haltEngine s.now c e) s = modShaft n (engineSet e) s := by
  have hhalt : haltEngine s.now c e r = engineSet e r := by
    obtain ⟨hdir, -⟩ | ⟨-, heq⟩ := haltEngine_cases s.now c e r
    · obtain hdir | hdir := hdir <;> cases hdir.symm.trans h.dir
    · exact heq
  have hmod : modShaft n (haltEngine s.now c e) s = modShaft n (engineSet e) s := by
    rw [modShaft, modN_congr hr hhalt, modShaft]
  have hset : getN (modShaft n (engineSet e) s).sfc n = some (engineSet e r) := by simp [modShaft, hr]
  have hdir : r.dir = (engineSet e r).dir := rfl
  rw [actShaft_eq _ hr, shaftSet, hmod, hdir, shaftOutputs_same hset h.outputs.2]
  exact handOn_same (map_modN Shaft.dir (engineSet e) (fun _ => rfl) _ _) (map_modN Shaft.p (engineSet e) (fun _ => rfl) _ _)

theorem engineSet_starts (n : Nat) {f : Shaft → Shaft} (hf : ∀ q, f q = { q with
      engine := (f q).engine, deviation := (f q).deviation, deviationAt := (f q).deviationAt })
    (he : ∀ q, engineTurns (f q).engine = false) (s : State) : StartStep s (modShaft n f s) := fun hs => by
  refine ⟨⟨.same rfl, rfl, rfl, rfl, rfl, rfl, rfl, rfl, rfl, ?_, fun _ _ _ _ _ _ => rfl, fun _ _ _ _ _ => rfl⟩, fun m y hy => ?_⟩
  · simp [modShaft]
  · have hget := getN_modN s.sfc n m f
    rw [show (modShaft n f s).sfc = modN s.sfc n f from rfl, hget] at hy
    split at hy
    · obtain ⟨x, hx, rfl⟩ := Option.map_eq_some_iff.1 hy
      obtain ⟨c, hc, hr⟩ := hs.shafts m x hx
      obtain ⟨h1, h2⟩ := hr.outputs
      exact ⟨c, hc, by rw [hf]; exact hr.dir, by rw [hf]; exact hr.p, he x, by rw [hf]; exact h1, by rw [hf]; exact h2⟩
    · exact hs.shafts m y hy

theorem estimateNotice_starts (n : Nat) (s : State) : StartStep s (estimateNotice n s) := by
  refine .books ?_ ?_
  · have h := estimateNotice_eq n s
    generalize estimateNotice n s = u at h
    rw [h]
  · unfold estimateNotice
    dsimp only
    split <;> exact ⟨rfl, rfl, rfl, rfl⟩

theorem noticeEngine_starts (n : Nat) (s : State) : StartStep s (noticeEngine n s) :=
  (recompute_starts s).trans (estimateNotice_starts n _)

/-! ## Bands, φ, and the top-up check (R112, R113, R125) -/

theorem bandReport_starts (n : Nat) (b : Band) (s : State) : StartStep s (bandReport n b s) := .ofReady fun hs => by
  cases hr : getN s.sfc n with
  | none =>
    have hsame : bandReport n b s = s := by simp only [bandReport, hr]
    rw [hsame]
    exact .refl s
  | some r =>
    obtain ⟨c, hc, hrest⟩ := hs.shafts n r hr
    obtain ⟨-, -, heq⟩ | ⟨-, -, heq⟩ | ⟨-, heq⟩ := bandReport_cases (b := b) hr hc
    · rw [heq, fuelOut, actShaft_resting hr hrest]
      exact (engineSet_starts n (fun _ => rfl) (fun _ => rfl) s).trans (noticeEngine_starts n _)
    · rw [heq]
      exact (engineSet_starts n (f := fun q => { q with engine := .stopped }) (fun _ => rfl) (fun _ => rfl) s).trans
        (noticeEngine_starts n _)
    · rw [heq]
      exact .refl s

theorem reportTo_starts (n : Nat) (b : Band) (s : State) (i : Nat) : StartStep s (reportTo n b s i) := by
  unfold reportTo
  split
  · split
    · exact bandReport_starts i b s
    · exact .refl s
  · exact .refl s

theorem reportBand_starts (n : Nat) (b : Band) (s : State) : StartStep s (reportBand n b s) := by
  rw [reportBand_eq]
  exact foldl_keeps (R := StartStep) .refl .trans (reportTo_starts n b) _ s

theorem modTank_starts (n : Nat) {f : Tank → Tank} (hf : ∀ k, (f k).raw = k.raw) (s : State) : StartStep s (modTank n f s) :=
  .books rfl ⟨map_modN Tank.raw f hf _ _, rfl, rfl, rfl⟩

theorem bandStep_starts (n : Nat) (s : State) : StartStep s (bandStep n s) := by
  unfold bandStep
  split
  next c k _ _ =>
    dsimp only
    split
    · exact .refl s
    · refine StartStep.trans ?_ (recompute_starts _)
      refine StartStep.trans ?_ (reportBand_starts n _ _)
      refine StartStep.trans (modTank_starts n (f := fun q => { q with band := bandOf c (contentOf c k) }) (fun _ => rfl) s) ?_
      split
      · exact .books rfl (.same rfl)
      · exact .refl _
  · exact .refl s

theorem weightStep_starts (s : State) : StartStep s (weightStep s) := by
  have htotals : StartStep s (fuelTotals s) := .books rfl ⟨rfl, rfl, rfl, rfl⟩
  obtain ⟨-, h⟩ | h := weightStep_cases s
  · rw [h]
    exact htotals
  · rw [h]
    refine (htotals.trans ?_).trans (recompute_starts _)
    exact .books rfl (.same rfl)

theorem topUp_lines (s : State) : OnlyLines (· = .transferPump) s (topUp s) := by
  obtain h | ⟨-, -, d, a, -, h⟩ := topUp_cases s
  · rw [h]
    exact .refl s
  · rw [h]
    exact (OnlyLines.same rfl rfl : OnlyLines _ s (transferBegun .auto a d none s)).trans
      (.write 1000 (transferBegun .auto a d none s) rfl (by simp [partnerOf]))

theorem topUp_fuelAt (s : State) : (topUp s).fau.fuelAt = s.fau.fuelAt := by
  obtain h | ⟨-, -, d, a, -, h⟩ := topUp_cases s
  · rw [h]
  · rw [h, startTransfer_fau]
    rfl

theorem topUp_starts (s : State) : StartStep s (topUp s) := fun hs => by
  have hframe := topUp_frame s
  have hlines := topUp_lines s
  obtain ⟨hjournal, hserial⟩ := topUp_journal s
  have hsfc : (topUp s).sfc = s.sfc := by rw [hframe]
  have hcfg : (topUp s).cfg = s.cfg := hlines.1
  refine ⟨⟨⟨(topUp_balances s).raws, hjournal, hserial, topUp_fuelAt s⟩, hcfg, by rw [hframe], by rw [hframe], by rw [hframe],
    by rw [hframe], by rw [hframe], by rw [hframe], by rw [hframe], by rw [hsfc], fun n _ a ha => hlines.2 a ?_,
    fun n a ha => hlines.2 a ?_⟩, fun n x hx => ?_⟩
  · obtain rfl | rfl | rfl := ha <;> nofun
  · obtain rfl | rfl := ha <;> nofun
  · rw [hsfc] at hx
    rw [hcfg]
    exact hs.shafts n x hx

theorem startFuel_starts (s : State) : StartStep s (startFuel s) :=
  ((foldl_keeps (R := StartStep) .refl .trans (fun q n => bandStep_starts n q) _ s).trans (weightStep_starts _)).trans (topUp_starts _)

end Sys2Proof.Machine
end

section
/-!
SUPPORT. The gauges' first requests and takes (R142, R143, R153).
-/

namespace Sys2Proof.Machine

/-! ## The requests, in ascending number (R153) -/

/-- A channel is in use. -/
def chanUsed (c : Cfg) (n : Nat) : Bool :=
  match getN c.chans n with
  | some k => decide (k.kind ≠ .unused)
  | none => false

theorem chanUsed_some {c : Cfg} {n : Nat} {k : ChanCfg} (hk : getN c.chans n = some k) :
    chanUsed c n = decide (k.kind ≠ .unused) := by simp only [chanUsed, hk]

/-- A channel that has requested, its interval timer started. -/
def requested (now : Nat) (k : ChanCfg) (c : Chan) : Chan := { c with req := .queued, intervalAt := some (now + k.interval) }

/-- The channels of `l` have requested in turn, from `s` to `u`. -/
structure Requested (l : List Nat) (s u : State) : Prop where
  only : u = withPgu u.pgu s
  queue : u.pgu.queue = s.pgu.queue ++ l.filter (chanUsed s.cfg)
  engines : u.pgu.engines = s.pgu.engines
  idle : ∀ n, (n ∉ l ∨ chanUsed s.cfg n = false) → getN u.pgu.chans n = getN s.pgu.chans n
  queued : ∀ n ∈ l, ∀ k, getN s.cfg.chans n = some k → k.kind ≠ .unused →
    getN u.pgu.chans n = (getN s.pgu.chans n).map (requested s.now k)

theorem startChan_unused {s : State} {n : Nat} (h : chanUsed s.cfg n = false) : startChan s n = s := by
  unfold startChan
  split
  next k hk =>
    rw [chanUsed_some hk] at h
    rw [inUse, h]
    rfl
  · rfl

theorem startChan_used {s : State} {n : Nat} {k : ChanCfg} (hk : getN s.cfg.chans n = some k) (hu : k.kind ≠ .unused) :
    startChan s n = withPgu { s.pgu with
      chans := modN (modN s.pgu.chans n fun c => { c with intervalAt := some (s.now + k.interval) }) n
        fun c => { c with req := .queued }
      queue := s.pgu.queue ++ [n] } s := by
  simp only [startChan, hk, inUse, decide_eq_true hu, if_true]
  rfl

theorem startChan_requested (s : State) (n : Nat) : Requested [n] s (startChan s n) := by
  cases hu : chanUsed s.cfg n with
  | false =>
    rw [startChan_unused hu]
    refine ⟨rfl, by simp [hu], rfl, fun _ _ => rfl, fun m hm k hk hne => ?_⟩
    obtain rfl := List.mem_singleton.1 hm
    rw [chanUsed_some hk, decide_eq_true hne] at hu
    cases hu
  | true =>
    obtain ⟨k, hk⟩ : ∃ k, getN s.cfg.chans n = some k := by
      cases hk : getN s.cfg.chans n with
      | some k => exact ⟨k, rfl⟩
      | none => simp [chanUsed, hk] at hu
    have hne : k.kind ≠ .unused := by
      rw [chanUsed_some hk] at hu
      exact of_decide_eq_true hu
    rw [startChan_used hk hne]
    refine ⟨rfl, by simp [hu], rfl, fun m hm => ?_, fun m hm k' hk' _ => ?_⟩
    · have hmn : n ≠ m := by
        rintro rfl
        obtain hm | hm := hm
        · exact hm (List.mem_singleton.2 rfl)
        · cases hm.symm.trans hu
      exact (getN_modN_ne hmn _ _).trans (getN_modN_ne hmn _ _)
    · obtain rfl := List.mem_singleton.1 hm
      obtain rfl := Option.some.inj (hk.symm.trans hk')
      refine (getN_modN_self ..).trans ?_
      rw [getN_modN_self, Option.map_map]
      rfl

theorem Requested.trans {n : Nat} {l : List Nat} {s t u : State} (hn : n ∉ l) (h : Requested [n] s t) (k : Requested l t u) :
    Requested (n :: l) s u := by
  have hcfg : t.cfg = s.cfg := by rw [h.only]; rfl
  have hnow : t.now = s.now := by rw [h.only]; rfl
  refine ⟨by rw [k.only, h.only]; rfl, ?_, k.engines.trans h.engines, fun m hm => ?_, fun m hm c hc hu => ?_⟩
  · rw [k.queue, h.queue, hcfg, List.append_assoc, ← List.filter_append]
    rfl
  · rw [k.idle m (hm.imp (fun hm hl => hm (List.mem_cons_of_mem n hl)) fun hm => hcfg ▸ hm)]
    exact h.idle m (hm.imp_left fun hm hl => hm (List.mem_singleton.1 hl ▸ List.mem_cons_self ..))
  · obtain rfl | hm := List.mem_cons.1 hm
    · rw [k.idle m (.inl hn)]
      exact h.queued m (List.mem_singleton.2 rfl) c hc hu
    · have hmn : m ∉ [n] := fun h => hn (List.mem_singleton.1 h ▸ hm)
      rw [k.queued m hm c (hcfg ▸ hc) hu, h.idle m (.inl hmn), hnow]

theorem foldl_startChan {l : List Nat} (hl : l.Nodup) (s : State) : Requested l s (l.foldl startChan s) := by
  induction l generalizing s with
  | nil => exact ⟨rfl, (List.append_nil _).symm, rfl, fun _ _ => rfl, nofun⟩
  | cons n l ih =>
    obtain ⟨hn, hl⟩ := List.nodup_cons.1 hl
    exact .trans hn (startChan_requested s n) (ih hl _)

/-! ## The takes by the engines (R143) -/

/-- The measurement that begins as an engine takes channel `n`. -/
def measOfChan (s : State) (n : Nat) : Meas := { chan := n, windowAt := s.clock + windowOf n s * 1000 }

/-- The first `k` of the channels that wait in `s` have been taken by the first engines. -/
structure Taken (waiting : List Nat) (k : Nat) (s u : State) : Prop where
  only : u = withPgu u.pgu s
  queue : u.pgu.queue = waiting.drop k
  length : u.pgu.engines.length = 6
  engines : ∀ e, 1 ≤ e → e ≤ 6 → measOf e u = if e ≤ k then (waiting[e - 1]?).map (measOfChan s) else none
  chans : ∀ n, getN u.pgu.chans n = if n ∈ waiting.take k then (getN s.pgu.chans n).map fun c => { c with req := .measuring }
    else getN s.pgu.chans n

theorem measOf_engine {u : State} {e : Nat} (h1 : 1 ≤ e) (he : e ≤ u.pgu.engines.length) :
    getN u.pgu.engines e = some (measOf e u) := by
  obtain ⟨x, hx⟩ := Option.isSome_iff_exists.1 (getN_isSome (mem_numbers.2 ⟨h1, he⟩))
  rw [measOf, hx]
  rfl

/-- The lowest IDLE engine is the one after those that have taken. -/
theorem Taken.idle {waiting : List Nat} {k : Nat} {s u : State} (h : Taken waiting k s u) (hk : k < 6)
    (hw : k < waiting.length) : findN (fun e => Option.isNone e) u.pgu.engines = some (k + 1) := by
  have hlen := h.length
  refine findN_first (x := none) ?_ rfl fun j y hj hy => ?_
  · rw [measOf_engine (by omega) (by omega), h.engines (k + 1) (by omega) (by omega), if_neg (by omega)]
  · obtain ⟨h1, -⟩ := getN_lt hy
    rw [measOf_engine h1 (by omega), h.engines j h1 (by omega), if_pos (by omega), Option.some.injEq] at hy
    rw [← hy, List.getElem?_eq_getElem (by omega)]
    rfl

theorem Taken.step {waiting : List Nat} {k : Nat} {s u : State} (h : Taken waiting k s u) (hk : k < 6) :
    Taken waiting (k + 1) s (takeOnce u) := by
  by_cases hw : k < waiting.length
  · have hqueue : u.pgu.queue = waiting[k] :: waiting.drop (k + 1) := h.queue.trans (List.drop_eq_getElem_cons hw)
    have hcfg : u.cfg = s.cfg := by rw [h.only]; rfl
    have hclock : u.clock = s.clock := by rw [h.only]; rfl
    have htake : takeOnce u = withPgu {
        chans := modN u.pgu.chans waiting[k] fun c => { c with req := .measuring }
        queue := waiting.drop (k + 1)
        engines := modN u.pgu.engines (k + 1) fun _ => some (measOfChan s waiting[k]) } u := by
      simp only [takeOnce, hqueue, h.idle hk hw, measOfChan, windowOf, ← hcfg, ← hclock]
      rfl
    rw [htake]
    refine ⟨by rw [h.only]; rfl, rfl, ?_, fun e h1 h6 => ?_, fun n => ?_⟩
    · show (modN u.pgu.engines (k + 1) _).length = 6
      rw [modN_length, h.length]
    · have hlen := h.length
      show (getN (modN u.pgu.engines (k + 1) _) e).join = _
      rw [getN_modN]
      by_cases he : k + 1 = e
      · subst he
        rw [if_pos rfl, measOf_engine h1 (by omega), if_pos le_rfl, Nat.add_sub_cancel, List.getElem?_eq_getElem hw]
        rfl
      · have hold := h.engines e h1 h6
        rw [if_neg he]
        refine hold.trans ?_
        by_cases hle : e ≤ k
        · rw [if_pos hle, if_pos (by omega)]
        · rw [if_neg hle, if_neg (by omega)]
    · show getN (modN u.pgu.chans waiting[k] _) n = _
      rw [getN_modN, h.chans, List.take_add_one, List.getElem?_eq_getElem hw]
      by_cases hn : waiting[k] = n
      · rw [if_pos hn, if_pos (List.mem_append_right _ (by simp [hn]))]
        split
        · rw [Option.map_map]
          rfl
        · rfl
      · have hmem : n ∈ waiting.take k ++ (some waiting[k]).toList ↔ n ∈ waiting.take k := by
          rw [Option.toList_some, List.mem_append, List.mem_singleton]
          exact or_iff_left (Ne.symm hn)
        rw [if_neg hn]
        simp only [hmem]
  · have hempty : u.pgu.queue = [] := h.queue.trans (List.drop_eq_nil_of_le (by omega))
    rw [takeOnce_empty hempty]
    refine ⟨h.only, ?_, h.length, fun e h1 h6 => ?_, fun n => ?_⟩
    · rw [hempty, List.drop_eq_nil_of_le (by omega)]
    · rw [h.engines e h1 h6]
      by_cases hle : e ≤ k
      · rw [if_pos hle, if_pos (by omega)]
      · rw [if_neg hle]
        split
        · rw [List.getElem?_eq_none (by omega)]
          rfl
        · rfl
    · rw [h.chans, List.take_of_length_le (i := k) (by omega), List.take_of_length_le (i := k + 1) (by omega)]

theorem takeAll_taken {s : State} (hidle : s.pgu.engines = List.replicate 6 none) : Taken s.pgu.queue 6 s (takeAll s) := by
  have hbegin : Taken s.pgu.queue 0 s s := by
    refine ⟨rfl, rfl, by rw [hidle]; rfl, fun e h1 h6 => ?_, fun n => rfl⟩
    rw [if_neg (by omega), measOf, hidle]
    obtain ⟨i, rfl⟩ : ∃ i, e = i + 1 := ⟨e - 1, by omega⟩
    show ((List.replicate 6 (none : Option Meas))[i]?).join = none
    rw [List.getElem?_replicate, if_pos (by omega)]
    rfl
  have hstep : ∀ k ≤ 6, Taken s.pgu.queue k s (Nat.repeat takeOnce k s) := by
    intro k
    induction k with
    | zero => exact fun _ => hbegin
    | succ k ih => exact fun hk => (ih (by omega)).step (by omega)
  exact hstep 6 le_rfl

/-! ## The gauges after START -/

/-- The channels in use, in ascending number. -/
def usedChans (c : Cfg) : List Nat := (numbers 24).filter (chanUsed c)

theorem mem_usedChans {c : Cfg} {n : Nat} : n ∈ usedChans c ↔ n ∈ numbers 24 ∧ chanUsed c n = true := List.mem_filter

/-- From gauges at rest every channel in use has requested, and the first six are taken. -/
theorem startChans_gauges {s : State} (hs : s.pgu = {}) (hlen : s.cfg.chans.length ≤ 24) :
    (startChans s).pgu.queue = (usedChans s.cfg).drop 6 ∧
      (∀ e, 1 ≤ e → e ≤ 6 → measOf e (startChans s) = ((usedChans s.cfg)[e - 1]?).map (measOfChan s)) ∧
      ∀ n k, getN s.cfg.chans n = some k → getN (startChans s).pgu.chans n = some {
        req := if k.kind = .unused then .idle else if n ∈ (usedChans s.cfg).take 6 then .measuring else .queued
        intervalAt := if k.kind = .unused then none else some (s.now + k.interval)
        health := .ok, noPulse := 0, overrun := 0, last := none } := by
  have hrequested := foldl_startChan (numbers_nodup 24) s
  rw [startChans]
  generalize (numbers 24).foldl startChan s = v at *
  have hqueue : v.pgu.queue = usedChans s.cfg := by
    rw [hrequested.queue, hs]
    rfl
  have hmeas (n : Nat) : measOfChan v n = measOfChan s n := by
    rw [hrequested.only]
    rfl
  have htaken := takeAll_taken (s := v) (by rw [hrequested.engines, hs])
  rw [hqueue] at htaken
  refine ⟨htaken.queue, fun e h1 h6 => ?_, fun n k hk => ?_⟩
  · rw [htaken.engines e h1 h6, if_pos h6, funext hmeas]
  · obtain ⟨hn1, hn2⟩ := getN_lt hk
    have hn : n ∈ numbers 24 := mem_numbers.2 ⟨hn1, by omega⟩
    have hempty : getN s.pgu.chans n = some {} := by
      rw [hs]
      obtain ⟨i, rfl⟩ : ∃ i, n = i + 1 := ⟨n - 1, by omega⟩
      show (List.replicate 24 ({} : Chan))[i]? = _
      rw [List.getElem?_replicate, if_pos (by omega)]
    rw [htaken.chans]
    by_cases hu : k.kind = .unused
    · have hnot : chanUsed s.cfg n = false := by rw [chanUsed_some hk]; simp [hu]
      have hmem : n ∉ (usedChans s.cfg).take 6 := fun h => by
        rw [(mem_usedChans.1 (List.mem_of_mem_take h)).2] at hnot
        cases hnot
      rw [if_neg hmem, hrequested.idle n (.inr hnot), hempty, if_pos hu, if_pos hu]
    · rw [hrequested.queued n hn k hk hu, hempty, if_neg hu, if_neg hu]
      split <;> rfl

end Sys2Proof.Machine
end

section
/-!
SUPPORT. The first writes of START (R60, R108, R164).
-/

namespace Sys2Proof.Machine

/-! ## A record visited without a change -/

theorem modN_id {α : Type} (l : List α) (n : Nat) : modN l n (fun x => x) = l := by
  cases n with
  | zero => rfl
  | succ i =>
    show changeAt (fun x => x) i l = l
    rw [changeAt_eq_modify]
    exact List.modify_id i l

theorem writeWinch_eq (n : Nat) (s : State) : writeWinch n s = changeWinch n (fun w => w) s := by
  rw [changeWinch, modWinch, modN_id]

/-! ## The governor lines -/

/-- A governor line never written to is written (R60). -/
theorem writeGovernor_first {n : Nat} {s : State} {x : Shaft} (hx : getN s.sfc n = some x) (hw : x.dutyWritten = none) :
    getN (writeGovernor n s).sfc n = some { x with dutyWritten := some x.duty } ∧
      Written (.governor n) x.duty s (writeGovernor n s) := by
  have hwrites : writeGovernor n s =
      writeDuty (.governor n) x.duty (modShaft n (fun q => { q with dutyWritten := some x.duty }) s) := by
    simp [writeGovernor, hx, hw]
  rw [hwrites]
  refine ⟨?_, writeDuty_written (.governor n) x.duty (modShaft n (fun q => { q with dutyWritten := some x.duty }) s)⟩
  rw [writeDuty_sfc]
  exact (getN_modN_self ..).trans (congrArg (Option.map _) hx)

theorem writeGovernor_frame (n : Nat) (s : State) : writeGovernor n s = { s with
    sfc := (writeGovernor n s).sfc, dlu := (writeGovernor n s).dlu } := by
  unfold writeGovernor
  split
  · split
    · rfl
    · rw [writeDuty_frame]
      rfl
  · rfl

theorem writeGovernor_keeps {n m : Nat} (h : m ≠ n) (s : State) : ShaftKept n s (writeGovernor m s) := by
  refine ⟨?_, (writeGovernor_only m s).mono fun _ ha => ⟨m, h, .inl ha⟩, writeGovernor_frame m s⟩
  unfold writeGovernor
  split
  · split
    · rfl
    · rw [writeDuty_sfc]
      exact getN_modN_ne h _ _
  · rfl

theorem writeGovernor_length (n : Nat) (s : State) : (writeGovernor n s).sfc.length = s.sfc.length := by
  unfold writeGovernor
  split
  · split
    · rfl
    · rw [writeDuty_sfc]
      exact modN_length ..
  · rfl

/-- The state after each governor line has been written. -/
def governorsWritten (s : State) : State := (numbers s.sfc.length).foldl (fun q n => writeGovernor n q) s

theorem governorsWritten_shaft {s : State} {n : Nat} {x : Shaft} (hx : getN s.sfc n = some x) (hw : x.dutyWritten = none) :
    getN (governorsWritten s).sfc n = some { x with dutyWritten := some x.duty } ∧
      Written (.governor n) x.duty s (governorsWritten s) := by
  obtain ⟨a, ⟨hget, hbefore, -⟩, ⟨kget, hafter, -⟩⟩ := foldl_visits (R := ShaftKept n) (ShaftKept.refl n) ShaftKept.trans
    (f := fun q m => writeGovernor m q) (fun t m hm => writeGovernor_keeps hm t) (numbers_nodup s.sfc.length)
    (mem_numbers_of_getN hx) s
  obtain ⟨hset, hwritten⟩ := writeGovernor_first (hget.trans hx) hw
  have hown : ¬∃ m, m ≠ n ∧ ofShaft m (.governor n) := fun ⟨m, hm, hmx⟩ => hm (ofShaft_unique (.inl rfl) hmx)
  refine ⟨kget.trans hset, ((hbefore.2 _ hown).written hbefore.1 hwritten).kept ?_ (hafter.2 _ hown)⟩
  exact (writeGovernor_only n a).1.trans hbefore.1

theorem governorsWritten_frame (s : State) : governorsWritten s = { s with
      sfc := (governorsWritten s).sfc, dlu := (governorsWritten s).dlu } ∧
    (governorsWritten s).sfc.length = s.sfc.length := by
  have hframe := foldl_keeps (R := fun t u : State => u = { t with sfc := u.sfc, dlu := u.dlu }) (fun _ => rfl)
    (fun h k => by rw [k, h]) (fun t n => writeGovernor_frame n t) (numbers s.sfc.length) s
  have hlength := foldl_keeps (R := fun t u : State => u.sfc.length = t.sfc.length) (fun _ => rfl)
    (fun h k => k.trans h) (fun t n => writeGovernor_length n t) (numbers s.sfc.length) s
  exact ⟨hframe, hlength⟩

/-! ## The valve lines of the winches -/

theorem firstWrites_eq (s : State) : firstWrites s =
    (numbers (governorsWritten s).cpc.winches.length).foldl (fun q n => changeWinch n (fun w => w) q) (governorsWritten s) := by
  have hfun : (fun (q : State) n => writeWinch n q) = fun q n => changeWinch n (fun w => w) q :=
    funext fun q => funext fun n => writeWinch_eq n q
  have hlen : (governorsWritten s).cpc.winches.length = s.cpc.winches.length := by
    have hcpc : (governorsWritten s).cpc = s.cpc := by rw [(governorsWritten_frame s).1]
    rw [hcpc]
  rw [hlen, ← hfun]
  rfl

theorem firstWrites_only (s : State) : WinchesOnly (governorsWritten s) (firstWrites s) := by
  rw [firstWrites_eq]
  exact fold_winchesOnly (f := fun q n => changeWinch n (fun w => w) q) (fun t n => changeWinch_only_winches n _ t) _ _

theorem firstWrites_lines (s : State) : OnlyLines (fun a => ∃ n, ofWinch n a) (governorsWritten s) (firstWrites s) := by
  rw [firstWrites_eq]
  exact .fold (fun t n => (changeWinch_only n _ t).mono fun a ha => ⟨n, ha⟩) _ _

/-- The first writes leave all but the records of shafts and winches, and drive lines. -/
theorem firstWrites_frame (s : State) : firstWrites s = { s with
      sfc := (governorsWritten s).sfc, cpc := { s.cpc with winches := (firstWrites s).cpc.winches }
      dlu := (firstWrites s).dlu } ∧ (firstWrites s).cpc.winches.length = s.cpc.winches.length := by
  obtain ⟨hframe, -⟩ := governorsWritten_frame s
  obtain ⟨honly, hlen⟩ := firstWrites_only s
  have hsvp : (firstWrites s).svp = (governorsWritten s).svp := by
    rw [firstWrites_eq]
    exact foldl_keeps (R := fun t u : State => u.svp = t.svp) (fun _ => rfl) (fun h k => k.trans h)
      (fun t n => changeWinch_svp n (fun w => w) t) _ _
  rw [hsvp] at honly
  generalize firstWrites s = u at *
  generalize governorsWritten s = v at *
  refine ⟨?_, by rw [hlen, hframe]⟩
  rw [honly, hframe]

theorem firstWrites_shaft {s : State} {n : Nat} {x : Shaft} (hx : getN s.sfc n = some x) (hw : x.dutyWritten = none) :
    getN (firstWrites s).sfc n = some { x with dutyWritten := some x.duty } ∧
      Written (.governor n) x.duty s (firstWrites s) := by
  obtain ⟨hset, hwritten⟩ := governorsWritten_shaft hx hw
  have hlines := firstWrites_lines s
  have hcfg : (governorsWritten s).cfg = s.cfg := by rw [(governorsWritten_frame s).1]
  refine ⟨?_, hwritten.kept hcfg (hlines.2 _ (ofShaft_not_ofWinch (.inl rfl)))⟩
  have hsfc : (firstWrites s).sfc = (governorsWritten s).sfc := by rw [(firstWrites_only s).1]
  rw [hsfc]
  exact hset

theorem firstWrites_winch {s : State} {n : Nat} {w : Winch} (hw : getN s.cpc.winches n = some w) :
    getN (firstWrites s).cpc.winches n = some (withLines w) ∧
      Valves n (haulDuty w) (payoutDuty w) w (withLines w) s (firstWrites s) := by
  have hcpc : (governorsWritten s).cpc = s.cpc := by rw [(governorsWritten_frame s).1]
  have hgov : OnlyLines (fun a => ∃ m, ofShaft m a) s (governorsWritten s) :=
    .fold (fun t m => (writeGovernor_only m t).mono fun a ha => ⟨m, .inl ha⟩) _ _
  have hwv : getN (governorsWritten s).cpc.winches n = some w := by rw [hcpc]; exact hw
  obtain ⟨q, hq, heq, hset⟩ := visit_winches (f := fun q m => changeWinch m (fun w => w) q) (g := fun w => w)
    (fun t m hm => changeWinch_keeps hm (fun w => w) t)
    (numbers_nodup (governorsWritten s).cpc.winches.length) (mem_numbers_of_getN hwv) hwv (fun _ _ => rfl) rfl rfl
  rw [← firstWrites_eq] at hq hset
  obtain rfl : q = withLines w := heq
  exact ⟨hq, (hset.between (fun _ => ofWinch_not_ofShaft) hgov (.refl _) (firstWrites_lines s).1).1⟩

/-- What a line shows of a state whose lines it keeps, it shows of itself. -/
theorem Written.self {a : Assignment} {v : Nat} {s u : State} (h : Written a v s u) (hr : Reacts s u) : Written a v u u := by
  intro p l hp hl
  have hlen : s.dlu.lines.length = u.dlu.lines.length := by
    have hcarried := congrArg List.length hr.carried
    simpa using hcarried.symm
  obtain ⟨l', hl'⟩ := getN_of_length hlen.symm hl
  have hw := h p l' (hr.cfg ▸ hp) hl'
  rw [hr.cfg]
  exact hw

end Sys2Proof.Machine
end

section
/-!
PROOFS. START accepted (O19).
-/

namespace Sys2Proof.Machine

/-! ## What START sets (R192) -/

/-- The blocks of a station after reset. -/
def BlocksReset (s : State) : Prop :=
  s.svp.panel = {} ∧ s.lif = {} ∧ s.cvu = {} ∧ s.shu = {} ∧ s.stc = {} ∧ s.cpc = {} ∧ s.fau = {} ∧ s.pgu = {} ∧ s.dlu = {}

/-- The records START sets, before anything reacts to them. -/
theorem startRecords_eq (c : Cfg) {s : State} (h : BlocksReset s) : startRecords (startBase c s) = { s with
    cfg := c
    svp := { s.svp with mode := .joining, joinAt := some (s.now + c.lostTime) }
    lif := { statusAt := some (s.now + c.statusPeriod), listening := true, awaitIdle := true, midFrame := true }
    cvu := { powerNom := c.ratedTotal, rudderNom := c.nominalAuthority }
    sfc := c.shafts.map (startShaft s.now c.controlStep)
    stc := { rudders := c.shafts.map fun _ => {}, ownNominal := c.nominalAuthority }
    cpc := { winches := c.winches.map fun _ => {} }
    fau :=
      { tanks := c.tanks.map fun t => { raw := (t.opening : Int) }, burns := c.shafts.map fun _ => {}
        fuelAt := some (s.now + c.fuelPeriod * 1000) }
    dlu := { periodAt := some (s.now + c.drivePeriod) } } := by
  obtain ⟨-, hlif, hcvu, -, hstc, hcpc, hfau, -, hdlu⟩ := h
  simp only [startRecords, startBase, keepSums, hlif, hcvu, hstc, hcpc, hfau, hdlu]
  rfl

/-- The station as START's first writes leave it. -/
def startSet (c : Cfg) (s : State) : State := firstWrites (startRecords (startBase c s))

theorem startShaft_duty (now step : Nat) (c : ShaftCfg) : (startShaft now step c).duty = c.dutyIdle := governorDuty_zero c

section
variable {c : Cfg} {s : State} (h : BlocksReset s)
include h

theorem startSet_frame : startSet c s = { startRecords (startBase c s) with
      sfc := (startSet c s).sfc, cpc := { (startRecords (startBase c s)).cpc with winches := (startSet c s).cpc.winches }
      dlu := (startSet c s).dlu } ∧
    (startSet c s).sfc.length = c.shafts.length ∧ (startSet c s).cpc.winches.length = c.winches.length := by
  obtain ⟨hframe, hlen⟩ := firstWrites_frame (startRecords (startBase c s))
  obtain ⟨-, hgov⟩ := governorsWritten_frame (startRecords (startBase c s))
  have hsfc : (startSet c s).sfc = (governorsWritten (startRecords (startBase c s))).sfc := by
    rw [startSet, hframe]
  refine ⟨?_, ?_, ?_⟩
  · rw [hsfc]
    exact hframe
  · rw [hsfc, hgov, startRecords_eq c h]
    exact List.length_map ..
  · refine hlen.trans ?_
    rw [startRecords_eq c h]
    exact List.length_map ..

/-- Each shaft at START, its governor line written (R60, R64). -/
theorem startSet_shaft {n : Nat} {k : ShaftCfg} (hk : getN c.shafts n = some k) :
    (∃ x, getN (startSet c s).sfc n = some x ∧ Resting k x) ∧
      Written (.governor n) k.dutyIdle (startRecords (startBase c s)) (startSet c s) := by
  have hx : getN (startRecords (startBase c s)).sfc n = some (startShaft s.now c.controlStep k) := by
    rw [startRecords_eq c h]
    exact (getN_map ..).trans (congrArg (Option.map _) hk)
  obtain ⟨hset, hwritten⟩ := firstWrites_shaft hx rfl
  rw [startShaft_duty] at hwritten
  exact ⟨⟨_, hset, rfl, rfl, rfl, rfl, rfl⟩, hwritten⟩

/-- Each winch at START, its lines written (R94, R108). -/
theorem startSet_winch {n : Nat} {k : WinchCfg} (hk : getN c.winches n = some k) :
    getN (startSet c s).cpc.winches n = some (withLines {}) ∧
      Written (.winchHaul n) 0 (startRecords (startBase c s)) (startSet c s) ∧
      Written (.winchPayout n) 0 (startRecords (startBase c s)) (startSet c s) := by
  have hw : getN (startRecords (startBase c s)).cpc.winches n = some {} := by
    rw [startRecords_eq c h]
    exact (getN_map ..).trans (congrArg (Option.map _) hk)
  obtain ⟨hset, -, -, hhaul, hpayout⟩ := firstWrites_winch hw
  exact ⟨hset, hhaul nofun, hpayout nofun⟩

theorem startSet_slack : ∀ w ∈ (startSet c s).cpc.winches, w.state = .slack := by
  intro w hw
  obtain ⟨i, hi⟩ := List.mem_iff_getElem?.1 hw
  have hwi : getN (startSet c s).cpc.winches (i + 1) = some w := hi
  obtain ⟨k, hk⟩ := getN_of_length (startSet_frame h).2.2 hwi
  obtain ⟨hset, -⟩ := startSet_winch h hk
  obtain rfl := Option.some.inj (hset.symm.trans hwi)
  rfl

theorem startSet_ready : Ready (startSet c s) := by
  obtain ⟨hframe, hlen, -⟩ := startSet_frame (c := c) h
  obtain ⟨-, -, -, hshu, -⟩ := id h
  rw [startRecords_eq c h] at hframe
  have hcfg : (startSet c s).cfg = c := by rw [hframe]
  refine ⟨by rw [hframe], by rw [hframe, hshu], by rw [hframe], fun n x hx => ?_⟩
  obtain ⟨k, hk⟩ := getN_of_length hlen hx
  obtain ⟨⟨y, hy, hrest⟩, -⟩ := startSet_shaft h hk
  obtain rfl := Option.some.inj (hy.symm.trans hx)
  exact ⟨k, by rw [hcfg]; exact hk, hrest⟩

end

/-! ## Notices that change nothing -/

theorem contributingNow_joining {s : State} (h : s.svp.mode = .joining) : contributingNow s = false := by
  rw [← Bool.not_eq_true, contributingNow_iff]
  rintro ⟨hrunning, -⟩
  cases h.symm.trans hrunning

theorem shuNotice_ready {s : State} (h : Ready s) : shuNotice true s = recompute s ∧ shuNotice false s = s := by
  have hsame : contributingNow s = s.shu.contributing := (contributingNow_joining h.mode).trans h.contributing.symm
  exact ⟨if_pos hsame, if_pos hsame⟩

/-- Where no winch is fast, summary and f_cpl are those after reset (R95, R97). -/
theorem settle_ready {s : State} (h : Ready s) (hslack : ∀ w ∈ s.cpc.winches, w.state = .slack) (hsummary : s.cpc.summary = .free)
    (hfactor : s.cpc.fCpl = 1000) : settle false s = s := by
  have hnone : countingWinches s = [] := by
    refine List.filter_eq_nil_iff.2 fun cw hcw => ?_
    have hst := hslack cw.2 (List.of_mem_zip hcw).2
    simp [winchCounts, winchFast, hst]
  have hnow : summaryNow s = s.cpc.summary := by simp [summaryNow, hnone, summaryOf, hsummary]
  have hfnow : fCplNow s = s.cpc.fCpl := by simp [fCplNow, hnone, hfactor]
  have hnotice : shuNoticeWith recompute false s = s := (shuNotice_ready h).2
  simp only [settle, settleWith, hnow, hfnow, ne_eq, not_true_eq_false, decide_false, if_true]
  exact hnotice

theorem mapWith_same {κ α : Type} {f : κ → α → α} : ∀ {ks : List κ} {xs : List α}, (∀ k, ∀ x ∈ xs, f k x = x) → mapWith f ks xs = xs
  | [], _, _ => rfl
  | _ :: _, [], _ => rfl
  | k :: ks, x :: xs, h => by
    rw [mapWith, h k x (List.mem_cons_self ..), mapWith_same fun k y hy => h k y (List.mem_cons_of_mem _ hy)]

theorem liveAuthority_parked : ∀ {cs : List ShaftCfg} {rs : List Rudder} {hs : List Shaft}, (∀ r ∈ rs, r.state = .parked) →
    liveAuthority cs rs hs = 0
  | [], _, _, _ => rfl
  | _ :: _, [], _, _ => rfl
  | _ :: _, _ :: _, [], _ => rfl
  | c :: cs, r :: rs, x :: hs, h => by
    have hr : liveGain c r x.dir = 0 := by simp [liveGain, h r (List.mem_cons_self ..)]
    rw [liveAuthority, hr, liveAuthority_parked fun y hy => h y (List.mem_cons_of_mem _ hy)]

/-- Without a steering order and with every rudder PARKED a notice to the STC changes nothing (R66 to R71). -/
theorem stcNotice_ready {s : State} (h : Ready s) (hparked : ∀ r ∈ s.stc.rudders, r.state = .parked) (hpeers : s.cvu.peers = [])
    (hown : s.stc.ownLive = 0) (hlive : s.stc.rLive = 0) (hk : s.stc.k = 1000) : stcNotice s = s := by
  have horder : steeringOrder s = false := by
    rw [steeringOrder, h.contributing, localApplied, h.mode]
    rfl
  have hserved : s.stc.rudders.map (serveRudder false) = s.stc.rudders :=
    (List.map_congr_left fun r hr => by simp [serveRudder, hparked r hr]).trans (List.map_id _)
  have hauthority : liveAuthority s.cfg.shafts s.stc.rudders s.sfc = 0 := liveAuthority_parked hparked
  have hconvoy : convoyLive 0 s = 0 := by simp [convoyLive, hpeers]
  have haimed (d t : Int) (b : Bool) (k : Nat) : mapWith (aimRudder b d t k) s.cfg.shafts s.stc.rudders = s.stc.rudders :=
    mapWith_same fun c r hr => if_neg (by rw [hparked r hr]; nofun)
  have hstc : stcNotice s = { s with stc := { s.stc with ownLive := 0, rLive := 0, k := 1000 } } := by
    simp only [stcNotice, horder, hserved, hauthority, hconvoy, compensation, if_true, haimed]
  rw [hstc]
  obtain ⟨pending, clock, draws, cfg, svp, lif, cvu, shu, sfc, stc, cpc, fau, pgu, dlu⟩ := s
  obtain ⟨rudders, nominal, own, live, k⟩ := stc
  dsimp only at hown hlive hk
  rw [hown, hlive, hk]

/-! ## START -/

/-- The station after START's notices and the checks of the books, before the gauges' requests. -/
def startTold (c : Cfg) (s : State) : State := startFuel (recompute (startSet c s))

section
variable {c : Cfg} {s : State} (h : BlocksReset s)
include h

/-- The blocks of the station as START sets them. -/
theorem startSet_blocks : (startSet c s).cfg = c ∧ (startSet c s).clock = s.clock ∧
    (startSet c s).svp = { s.svp with mode := .joining, joinAt := some (s.now + c.lostTime) } ∧
    (startSet c s).lif =
      { statusAt := some (s.now + c.statusPeriod), listening := true, awaitIdle := true, midFrame := true } ∧
    (startSet c s).cvu = { powerNom := c.ratedTotal, rudderNom := c.nominalAuthority } ∧
    (startSet c s).stc = { rudders := c.shafts.map fun _ => {}, ownNominal := c.nominalAuthority } ∧
    (startSet c s).cpc = { winches := (startSet c s).cpc.winches } ∧
    (startSet c s).fau =
      { tanks := c.tanks.map fun t => { raw := (t.opening : Int) }, burns := c.shafts.map fun _ => {}
        fuelAt := some (s.now + c.fuelPeriod * 1000) } ∧
    (startSet c s).shu.muted = true := by
  obtain ⟨hframe, -⟩ := startSet_frame (c := c) h
  obtain ⟨-, -, -, hshu, -⟩ := id h
  rw [startRecords_eq c h] at hframe
  generalize startSet c s = v at *
  refine ⟨by rw [hframe], by rw [hframe], by rw [hframe], by rw [hframe], by rw [hframe], by rw [hframe], ?_, by rw [hframe],
    by rw [hframe, hshu]⟩
  exact congrArg State.cpc hframe

theorem startSet_parked : ∀ r ∈ (startSet c s).stc.rudders, r = {} := by
  obtain ⟨-, -, -, -, -, hstc, -⟩ := startSet_blocks (c := c) h
  intro r hr
  rw [hstc] at hr
  obtain ⟨-, -, rfl⟩ := List.mem_map.1 hr
  rfl

theorem startUp_eq : startUp c s = startChans (startTold c s) := by
  obtain ⟨-, -, -, -, hcvu, hstc, hcpc, -⟩ := startSet_blocks (c := c) h
  have hready := startSet_ready (c := c) h
  have hslack := startSet_slack (c := c) h
  have hparked := startSet_parked (c := c) h
  have hstart : startUp c s = startChans (startFuel (stcNotice (settle false (shuNotice true (startSet c s))))) := rfl
  rw [hstart, startTold, (shuNotice_ready hready).1]
  generalize startSet c s = v at *
  have hready' := (recompute_starts v).ready hready
  obtain ⟨hkept, -⟩ := recompute_starts v hready
  generalize recompute v = w at *
  have hsettle : settle false w = w := by
    refine settle_ready hready' ?_ ?_ ?_
    · rw [hkept.cpc]
      exact hslack
    · rw [hkept.cpc, hcpc]
    · rw [hkept.cpc, hcpc]
  have hstc' : w.stc = v.stc := hkept.stc
  have hnotice : stcNotice w = w := by
    refine stcNotice_ready hready' (fun r hr => ?_) ?_ ?_ ?_ ?_
    · rw [hparked r (hstc' ▸ hr)]
    · rw [hkept.cvu, hcvu]
    · rw [hstc', hstc]
    · rw [hstc', hstc]
    · rw [hstc', hstc]
  rw [hsettle, hnotice]

theorem startTold_kept : StartKept (startSet c s) (startTold c s) ∧ ShaftsRest (startTold c s) :=
  ((recompute_starts (startSet c s)).trans (startFuel_starts _)) (startSet_ready h)

omit h in
theorem startTold_reacts : Reacts (startRecords (startBase c s)) (startTold c s) :=
  ((firstWrites_reacts _).trans (recompute_reacts _)).trans (startFuel_reacts _)

/-- The lines written at START show so after it. -/
theorem startTold_lines : (∀ n k, getN c.shafts n = some k → Written (.governor n) k.dutyIdle (startTold c s) (startTold c s)) ∧
    ∀ n k, getN c.winches n = some k → Written (.winchHaul n) 0 (startTold c s) (startTold c s) ∧
      Written (.winchPayout n) 0 (startTold c s) (startTold c s) := by
  obtain ⟨hkept, -⟩ := startTold_kept (c := c) h
  have hreacts := startTold_reacts (c := c) (s := s)
  have hcfg : (startSet c s).cfg = (startRecords (startBase c s)).cfg := (firstWrites_reacts _).cfg
  refine ⟨fun n k hk => ?_, fun n k hk => ?_⟩
  · obtain ⟨⟨x, hx, -⟩, hwritten⟩ := startSet_shaft h hk
    exact (hwritten.kept hcfg (hkept.shaftLines n (mem_numbers_of_getN hx) _ (.inl rfl))).self hreacts
  · obtain ⟨-, hhaul, hpayout⟩ := startSet_winch h hk
    exact ⟨(hhaul.kept hcfg (hkept.winchLines n _ (.inl rfl))).self hreacts,
      (hpayout.kept hcfg (hkept.winchLines n _ (.inr rfl))).self hreacts⟩

/-- The station, the line, the view and the steering after START. -/
theorem startTold_blocks : (startTold c s).cfg = c ∧ (startTold c s).now = s.now ∧ (startTold c s).svp.mode = .joining ∧
    (startTold c s).svp.startCause = s.svp.startCause ∧ (startTold c s).svp.joinAt = some (s.now + c.lostTime) ∧
    (startTold c s).lif =
      { statusAt := some (s.now + c.statusPeriod), listening := true, awaitIdle := true, midFrame := true } ∧
    (startTold c s).cvu = { powerNom := c.ratedTotal, rudderNom := c.nominalAuthority } ∧
    (startTold c s).stc = { rudders := c.shafts.map fun _ => {}, ownNominal := c.nominalAuthority } ∧
    (startTold c s).pgu = {} ∧ (startTold c s).dlu.periodAt = some (s.now + c.drivePeriod) := by
  obtain ⟨-, -, -, hlif, hcvu, hstc, -⟩ := startSet_blocks (c := c) h
  obtain ⟨hkept, -⟩ := startTold_kept (c := c) h
  have hreacts := startTold_reacts (c := c) (s := s)
  obtain ⟨-, -, -, -, -, -, -, hpgu, -⟩ := id h
  rw [startRecords_eq c h] at hreacts
  generalize startTold c s = w at *
  refine ⟨hreacts.cfg, congrArg (· / 1000) hreacts.clock, by rw [hreacts.svp], by rw [hreacts.svp], by rw [hreacts.svp],
    hkept.lif.trans hlif, hkept.cvu.trans hcvu, hkept.stc.trans hstc, hreacts.pgu.trans hpgu, hreacts.period⟩

/-- The books after START (R136). -/
theorem startTold_books : (startTold c s).fau.tanks.map (·.raw) = c.tanks.map (fun k => (k.opening : Int)) ∧
    (startTold c s).fau.journal = [] ∧ (startTold c s).fau.nextSerial = 1 ∧
    (startTold c s).fau.fuelAt = some (s.now + c.fuelPeriod * 1000) := by
  obtain ⟨-, -, -, -, -, -, -, hfau, -⟩ := startSet_blocks (c := c) h
  obtain ⟨hkept, -⟩ := startTold_kept (c := c) h
  rw [hkept.raws, hkept.journal, hkept.serial, hkept.fuelAt, hfau]
  exact ⟨List.map_map.trans rfl, rfl, rfl, rfl⟩

/-- The shafts and the winches after START: as many as are configured, at rest and SLACK (R64, R108). -/
theorem startTold_drives : (startTold c s).sfc.length = c.shafts.length ∧
    (∀ r ∈ (startTold c s).sfc, r.dir = .neutral ∧ r.p = 0) ∧ (startTold c s).cpc.winches.length = c.winches.length ∧
    ∀ w ∈ (startTold c s).cpc.winches, w.state = .slack := by
  obtain ⟨hkept, hrest⟩ := startTold_kept (c := c) h
  obtain ⟨-, hshafts, hwinches⟩ := startSet_frame (c := c) h
  refine ⟨hkept.length.trans hshafts, fun r hr => ?_, by rw [hkept.cpc, hwinches], by rw [hkept.cpc]; exact startSet_slack h⟩
  obtain ⟨i, hi⟩ := List.mem_iff_getElem?.1 hr
  obtain ⟨k, -, hrests⟩ := hrest (i + 1) r hi
  exact ⟨hrests.dir, hrests.p⟩

theorem startTold_shu : (startTold c s).shu.contributing = false ∧ (startTold c s).shu.muted = true := by
  obtain ⟨-, -, -, -, -, -, -, -, hmuted⟩ := startSet_blocks (c := c) h
  obtain ⟨hkept, -⟩ := startTold_kept (c := c) h
  exact ⟨hkept.contributing.trans (startSet_ready h).contributing, hkept.muted.trans hmuted⟩

end

theorem parseImage_chans (bs : List Byte) : (parseImage bs).chans.length = 24 := by
  simp [parseImage]

theorem exec_start_accepted {t : Nat} {s : State} (hm : s.svp.mode = .configuring)
    (hcrc : (crc16 ((wholeImage s.svp.image).take 1022)).toNat = u16 (wholeImage s.svp.image) 1022)
    (hnone : firstFailure (wholeImage s.svp.image) = none) : exec (.start t) s =
      .next (replyOk [] (startUp (parseImage (wholeImage s.svp.image)) (setClock t s))) := by
  rw [exec_start, if_pos (by simp [configuring, hm])]
  simp only [startAnswer, setClock_svp, computedCrc, trailerOf, hcrc, ne_eq, not_true_eq_false, if_false, hnone]
  rfl

/-- Settles O19: from the records START sets, through notices that find everything at rest. -/
theorem startAccepted : Obligations.StartAccepted := by
  intro t s hreset hm hcrc hnone
  have hexec := exec_start_accepted (t := t) hm hcrc hnone
  obtain ⟨-, hpanel, -, -, -, hlif, hcvu, hshu, -, hstc, hcpc, hfau, hpgu, hdlu⟩ := hreset hm
  have h : BlocksReset (setClock t s) := ⟨hpanel, hlif, hcvu, hshu, hstc, hcpc, hfau, hpgu, hdlu⟩
  have hchans := parseImage_chans (wholeImage s.svp.image)
  generalize parseImage (wholeImage s.svp.image) = c at *
  rw [startUp_eq h] at hexec
  obtain ⟨hcfg, hnow, hmode, hcause, hjoin, hline, hview, hsteering, hgauges, hperiod⟩ := startTold_blocks (c := c) h
  obtain ⟨hraws, hjournal, hserial, hfuelAt⟩ := startTold_books (c := c) h
  obtain ⟨hshafts, hidle, hwinches, hslack⟩ := startTold_drives (c := c) h
  obtain ⟨hcontributing, hmuted⟩ := startTold_shu (c := c) h
  obtain ⟨hgov, hvalves⟩ := startTold_lines (c := c) h
  generalize startTold c (setClock t s) = w at *
  have htaken := startChans_gauges (s := w) hgauges (by rw [hcfg, hchans])
  obtain ⟨g, hg⟩ := startChans_withPgu w
  rw [hg] at hexec htaken
  obtain ⟨hqueue, hengines, hchannels⟩ := htaken
  have hsums : w.cvu.peers = [] ∧ w.cvu.powerNom = (c.shafts.map (·.rated)).sum ∧
      w.cvu.rudderNom = (c.shafts.map (·.gRud)).sum := by
    rw [hview]
    exact ⟨rfl, rfl, rfl⟩
  have hrudders : w.stc.rudders.length = c.shafts.length ∧ (∀ r ∈ w.stc.rudders, r = {}) ∧
      w.stc.ownNominal = (c.shafts.map (·.gRud)).sum ∧ w.stc.ownLive = 0 ∧ w.stc.rLive = 0 ∧ w.stc.k = 1000 := by
    rw [hsteering]
    refine ⟨List.length_map .., fun r hr => ?_, rfl, rfl, rfl, rfl⟩
    obtain ⟨-, -, rfl⟩ := List.mem_map.1 hr
    rfl
  obtain ⟨hpeers, hpower, hrudder⟩ := hsums
  obtain ⟨hlen, hparked, hnominal, hown, hlive, hk⟩ := hrudders
  rw [← hnow] at hjoin hline hfuelAt hperiod
  subst hcfg
  exact ⟨_, hexec, rfl, hmode, rfl, hcause, hjoin, hline, hpeers, hpower, hrudder, hshafts, hidle, hwinches, hslack, hraws,
    hjournal, hserial, hfuelAt, hperiod, hcontributing, hmuted, hlen, hparked, hnominal, hown, hlive, hk, hgov, hvalves, hqueue,
    hengines, hchannels⟩

end Sys2Proof.Machine
end
